-- ==== Sys2Proof/Word.lean ====
section
/-! DEFINITION. The word types of the KX9 and the keyed lists its sparse state is held in. -/

namespace Sys2Proof

/-- A 128-bit data word: a D register, a token payload, a packet word (R11, R15). -/
abbrev Quad := BitVec 128
/-- A 64-bit word: an address, a counter. -/
abbrev Dword := BitVec 64
/-- A 32-bit word: an instruction, an A register, a literal. -/
abbrev Word := BitVec 32
/-- One byte. -/
abbrev Byte := BitVec 8
/-- A 48-bit timestamp (R312). -/
abbrev Stamp := BitVec 48
/-- A cause code of R377, 0 for none. -/
abbrev Cause := Nat
/-- A keyed list: keys strictly rising. What an unlisted key reads as is said by each reader. -/
abbrev Tbl (α : Type) := List (Nat × α)

end Sys2Proof
end

