-- ==== Sys2Proof/Syntax.lean ====
section
/-! DEFINITION. The syntax: one constructor of Instr per row of spec/opcode_table.json. Rows 0 to 136 are the
32-bit element and control-element instructions, 137 to 152 the adit rules, the rest engine commands and the
indivisible events of the machine (95_what_each_step_holds.md). -/

namespace Sys2Proof

/-- The lane types of R38. -/
inductive LaneType where
  | i64x2 | i32x4 | i16x8 | i8x16 | n64x2 | n32x4 | n16x8 | n8x16 | f64x2 | f32x4 | bf16x8 | f16x8 | s128
deriving DecidableEq, Repr

/-- A source operand of R35. -/
inductive Src where
  | d (n : Fin 16) | inp (n : Fin 4) | pk (n : Fin 4) | zero | ls (n : Fin 2) | ones
deriving DecidableEq, Repr

/-- A destination operand of R35. -/
inductive Dst where
  | d (n : Fin 16) | out (n : Fin 4) | ls (n : Fin 2) | nul
deriving DecidableEq, Repr

/-- The rounding modes of R95. -/
inductive Rounding where
  | rne | rtz | rup | rdn | sr
deriving DecidableEq, Repr

/-- How per-lane comparison results are reduced (R110, R113). -/
inductive Reduce where
  | all | any | lane0
deriving DecidableEq, Repr

/-- The literal forms of R34. -/
inductive LitForm where
  | zx | sx | rep32 | rep64
deriving DecidableEq, Repr

/-- The access widths of R155 and R157: 128, 64, 32 and 16 bits. -/
inductive Width where
  | w128 | w64 | w32 | w16
deriving DecidableEq, Repr

/-- The lane widths of R155 and R158: 64, 32, 16 and 8 bits. -/
inductive LaneWidth where
  | w64 | w32 | w16 | w8
deriving DecidableEq, Repr

/-- The widths of cas (R160). -/
inductive CasWidth where
  | w64 | w32 | w128
deriving DecidableEq, Repr

/-- The pointer steps of lsld and lsst (R155). -/
inductive Bump where
  | none | inc | dec
deriving DecidableEq, Repr

/-- The reuse classes of R157. -/
inductive Reuse where
  | stream | normal | hot | pin
deriving DecidableEq, Repr

/-- The lane updates of stqx (R158) and SCATTER (R209). -/
inductive ScatterOp where
  | st | add | fadd
deriving DecidableEq, Repr

/-- The read-modify-writes of R159. -/
inductive AtomOp where
  | addI64 | addI32 | andB64 | orB64 | xorB64 | minI64 | maxI64 | minN64 | maxN64 | xchgB64 | xchgB128
  | faddF32 | faddF64 | fmaxF32 | addI32x4
deriving DecidableEq, Repr

/-- The fence scopes of R166. -/
inductive Scope where
  | lane | core | cluster | module | domain | system
deriving DecidableEq, Repr

/-- The MX element formats as qmx and dqmx name them (R141). -/
inductive MxFmt where
  | mxint8 | e5m2 | e4m3 | e3m2 | e2m3 | e2m1
deriving DecidableEq, Repr

/-- The three terms of Split3 (R139). -/
inductive SplitTerm where
  | hi | mid | lo
deriving DecidableEq, Repr

/-- The lane widths of shli and shri (R117). -/
inductive ShiftWidth where
  | w64 | w32 | w16 | w8
deriving DecidableEq, Repr

/-- The registers a rule names (R216). -/
inductive RuleReg where
  | cur | w0 | w1 | w2 | w3 | step
deriving DecidableEq, Repr

/-- The branch conditions of a rule (R219). -/
inductive RuleCond where
  | al | eq | ne | lt | ge | gt | le
deriving DecidableEq, Repr

/-- The field widths of a rule word (R218): 8, 4, 2 and 16 bytes. -/
inductive RuleSize where
  | b8 | b4 | b2 | b16
deriving DecidableEq, Repr

/-- The fault policies of a walk (R222). -/
inductive WalkPolicy where
  | stop | skip | trap
deriving DecidableEq, Repr

/-- A unit of a core that fires instructions: 0 to 63 are fe(row,col) at row × 8 + col, 64 is the control element. -/
structure UnitId where
  core : Nat
  ix : Nat
deriving DecidableEq, Repr

/-- Where an edge of the graph begins: an element output, an engine's token output, or a host ingress source (R61). -/
inductive Endpoint where
  | elem (core el out : Nat)
  | eng (core port : Nat)
  | ingress (part source : Nat)
deriving DecidableEq, Repr

/-- A COPY packet (R200), its fields read once. -/
structure CopyCmd where
  seed : BitVec 32
  trapf : Bool
  tl : Fin 3
  ewl : Fin 5
  dmx : Bool
  smx : Bool
  rm : Rounding
  dfmt : BitVec 5
  sfmt : BitVec 5
  conv : Bool
  ndim : Fin 7
  dbase : Dword
  sbase : Dword
  counts : List (BitVec 32)
  sstrides : List (BitVec 32)
  dstrides : List (BitVec 32)
  sscale : Dword
  dscale : Dword
deriving DecidableEq, Repr

/-- A GATHER packet (R208). -/
structure GatherCmd where
  nidx : BitVec 32
  trapf : Bool
  tlf : Bool
  rc : Reuse
  ewl : Fin 5
  iwl : Fin 2
  dbase : Dword
  ibase : Dword
deriving DecidableEq, Repr

/-- A SCATTER packet (R209). -/
structure ScatterCmd where
  nidx : BitVec 32
  trapf : Bool
  tlf : Bool
  op : ScatterOp
  ewl : Fin 5
  iwl : Fin 2
  vbase : Dword
  ibase : Dword
  dbase : Dword
deriving DecidableEq, Repr

/-- A MASK packet (R210). -/
structure MaskCmd where
  ibase : BitVec 32
  len : BitVec 21
  trapf : Bool
  tlf : Bool
  tree : BitVec 4
  isOr : Bool
  nm : Fin 4
  m0 : Dword
  m1 : Dword
  m2 : Dword
  m3 : Dword
deriving DecidableEq, Repr

/-- A LIST packet (R211). -/
structure ListCmd where
  nb : BitVec 32
  na : BitVec 32
  trapf : Bool
  tlf : Bool
  bbase : Dword
  abase : Dword
deriving DecidableEq, Repr

/-- A WALK packet (R215). -/
structure WalkCmd where
  paddr : Dword
  slim : BitVec 13
  nrule : Fin 32
  skipix : Fin 32
  loopix : Fin 32
  entry : Fin 32
  rmode : Bool
  trapf : Bool
  pol : WalkPolicy
  w0 : Dword
  cur0 : Dword
  key : Quad
  w1 : Dword
  rbase : Dword
deriving DecidableEq, Repr

/-- The fields of a matrix control token but MOP, which the constructor says (R229, R230). -/
structure MnTok where
  opf : Dword
  tl : Fin 3
  trapf : Bool
  bank : Fin 2
  mdc : Fin 16
  mdb : Fin 16
  mda : Fin 16
  chain : Bool
  acc : Bool
  k : BitVec 16
  n : BitVec 10
  m : BitVec 10
deriving DecidableEq, Repr

/-- What every command to the root carries (R416): its session, its sequence number, and whether the
authentication of step 1 holds (a fact about the message, outside the spec's arithmetic). -/
structure RootCmd where
  session : Nat
  seq : Dword
  auth : Bool
deriving DecidableEq, Repr

/-- What a peer module answers to a remote request of this one (R412): the outside world's input. -/
inductive RemoteAnswer where
  | performed (value : List Byte) (seq : BitVec 16) (ts wts rts : Stamp)
  | lost
  | stale
  | denied
  /-- The barrier that a wait names has no expected count (R168). -/
  | unset
deriving DecidableEq, Repr

/-- One access of a peer module to this module (R412). -/
inductive PeerOp where
  | load (n : Nat)
  | store (data : List Byte)
  | pstore (data : List Byte)
  | atom (op : AtomOp) (operand : Quad)
  | cas (n : Nat) (expect new : Quad)
  | monarm (n : Nat) (expect : Quad)
  /-- The sending core stands last. -/
  | barArrive (core bar count sender : Nat)
  | barWait (core bar : Nat) (phase : BitVec 16)
  /-- The largest MTS of the peer's module, which goes round on VC0 (R314). -/
  | largestMts
deriving DecidableEq, Repr

/-- What a host write names (R318, R426). -/
inductive HostTarget where
  | memory (pa : Nat) (data : List Byte)
  | staging (source : Nat) (payload : Quad)
  /-- The status word at +0x18, which is read only. -/
  | status (source : Nat) (value : Dword)
deriving DecidableEq, Repr

/-- What a host read names (R414, R426). -/
inductive HostSource where
  | memory (pa n : Nat)
  | doorbell (source : Nat)
  /-- The write-only words of a doorbell: the payload at +0x00, the trigger at +0x10. -/
  | payload (source : Nat)
  | trigger (source : Nat)
deriving DecidableEq, Repr

/-- A register without behaviour of its own that the scheduler writes (R294, R314). -/
inductive SliceReg where
  | tctl (slice part : Nat) | sctl (slice : Nat) | lctl (slice : Nat)
deriving DecidableEq, Repr

/-- The unit that fails in an uncorrectable error (R415, R225). -/
inductive ErrorUnit where
  | part (p : Nat)
  | router (r : Nat)
  | slice (n : Nat)
deriving DecidableEq, Repr

/-- A format window's registers as one install carries them (R300). -/
structure FormatWindow where
  seed : BitVec 32
  part : BitVec 6
  stfmt : BitVec 5
  cfmt : BitVec 3
  rm : BitVec 3
  trapen : Bool
  scaled : Bool
  vbase : Dword
  sbase : Dword
  xbase : Dword
  nline : BitVec 32
deriving DecidableEq, Repr

/-- How a request of the host comes in: by one of the two host ports, and through the TDI of a partition or through none (R425, R439). -/
structure HostVia where
  port : Fin 2
  tdi : Option Nat
deriving DecidableEq, Repr

/-- What a peer's request names here: a physical address, and the timestamp that comes with it (R312, R412). -/
structure PeerPlace where
  pa : BitVec 48
  ts : Stamp
deriving DecidableEq, Repr

/-- What CREATE names (R413). -/
structure CreateSpec where
  policy : Nat
  cores : List Nat
  lead : Nat
  secure : Bool
  channel : Nat
  reply : Nat
  units : List Nat
  ptroot : Nat
  keyix : Nat
  logBase : Nat
  logK : Nat
deriving DecidableEq, Repr

/-- The unit a spare replaces (R434). -/
inductive SpareUnit where
  | element (core el : Nat) | channel (n : Nat)
deriving DecidableEq, Repr

/-- The TDI requests of a host's TDISP message (R425). -/
inductive TdispReq where
  | lock | start | stop | error
deriving DecidableEq, Repr

/-- The SPDM exchanges of R433, R416 and R425. -/
inductive SpdmReq where
  | attest | openSession (session : Nat) | keyStream (port stream : Nat)
deriving DecidableEq, Repr

/-- Every step of the machine: one constructor per row of the opcode table. -/
inductive Instr where
  -- move and channel (R106 to R109)
  | mov (d : Dst) (a : Src)
  | movi (d : Dst) (i : BitVec 9)
  | lit (lf : LitForm) (d : Dst) (v : Word)
  | fwd (base : Fin 4) (a b : Src)
  | tagset (d : Dst) (a : Src) (tag : BitVec 3)
  | dup (mask : BitVec 4) (a : Src)
  | drop (a : Src)
  | pset (p : Fin 8) (v : Bool)
  | psetNz (p : Fin 8) (a : Src)
  | psetZ (p : Fin 8) (a : Src)
  | plog (p pa pb : Fin 8) (tt : BitVec 4)
  | sel (d : Dst) (a b : Src) (p : Fin 8) (neg : Bool)
  | tagget (d : Dst) (a : Src)
  | done (d : Dst) (a : Src)
  -- integer and address arithmetic (R114 to R119)
  | add (lt : LaneType) (d : Dst) (a b : Src)
  | sub (lt : LaneType) (d : Dst) (a b : Src)
  | addi (d : Dst) (a : Src) (i : BitVec 9)
  | mul (lt : LaneType) (d : Dst) (a b : Src)
  | mulh (lt : LaneType) (d : Dst) (a b : Src)
  | mad (lt : LaneType) (d : Dst) (a b : Src)
  | div (lt : LaneType) (d : Dst) (a b : Src)
  | rem (lt : LaneType) (d : Dst) (a b : Src)
  | and (lt : LaneType) (d : Dst) (a b : Src)
  | or (lt : LaneType) (d : Dst) (a b : Src)
  | xor (lt : LaneType) (d : Dst) (a b : Src)
  | andn (lt : LaneType) (d : Dst) (a b : Src)
  | shl (lt : LaneType) (d : Dst) (a b : Src)
  | shr (lt : LaneType) (d : Dst) (a b : Src)
  | sha (lt : LaneType) (d : Dst) (a b : Src)
  | rot (lt : LaneType) (d : Dst) (a b : Src)
  | shli (d : Dst) (a : Src) (w : ShiftWidth) (c : BitVec 7)
  | shri (d : Dst) (a : Src) (w : ShiftWidth) (c : BitVec 7)
  | min (lt : LaneType) (d : Dst) (a b : Src)
  | max (lt : LaneType) (d : Dst) (a b : Src)
  | abs (lt : LaneType) (d : Dst) (a : Src)
  | neg (lt : LaneType) (d : Dst) (a : Src)
  | clz (lt : LaneType) (d : Dst) (a : Src)
  | popc (lt : LaneType) (d : Dst) (a : Src)
  | cmpEq (lt : LaneType) (m : Reduce) (p : Fin 8) (a b : Src)
  | cmpLt (lt : LaneType) (m : Reduce) (p : Fin 8) (a b : Src)
  | cmpLe (lt : LaneType) (m : Reduce) (p : Fin 8) (a b : Src)
  | adds (lt : LaneType) (d : Dst) (a b : Src)
  | subs (lt : LaneType) (d : Dst) (a b : Src)
  | lea (sh : Fin 16) (d : Dst) (a b : Src)
  | dot4 (signed : Bool) (d : Dst) (a b : Src)
  | bfx (lt : LaneType) (d : Dst) (a b : Src)
  -- lanes (R120 to R127)
  | shuf (lt : LaneType) (d : Dst) (a b : Src)
  | bcast (lt : LaneType) (d : Dst) (a b : Src)
  | ins (lt : LaneType) (d : Dst) (a b : Src)
  | ext (lt : LaneType) (d : Dst) (a b : Src)
  | rsum (lt : LaneType) (d : Dst) (a : Src)
  | rmax (lt : LaneType) (d : Dst) (a : Src)
  | rmin (lt : LaneType) (d : Dst) (a : Src)
  | pack (lt : LaneType) (d : Dst) (a b : Src)
  | unpkLo (lt : LaneType) (d : Dst) (a : Src)
  | unpkHi (lt : LaneType) (d : Dst) (a : Src)
  | vconf (lt : LaneType) (d : Dst) (a : Src)
  | vcomb (lt : LaneType) (d : Dst) (a b : Src)
  | pscan (lt : LaneType) (d : Dst) (a b : Src)
  | lscan (lt : LaneType) (d : Dst) (a b : Src)
  | mskidx (lt : LaneType) (d : Dst) (a b : Src)
  -- floating point (R130 to R142)
  | fadd (lt : LaneType) (d : Dst) (a b : Src)
  | fsub (lt : LaneType) (d : Dst) (a b : Src)
  | fmul (lt : LaneType) (d : Dst) (a b : Src)
  | fma (lt : LaneType) (d : Dst) (a b : Src)
  | fms (lt : LaneType) (d : Dst) (a b : Src)
  | fnma (lt : LaneType) (d : Dst) (a b : Src)
  | fmin (lt : LaneType) (d : Dst) (a b : Src)
  | fmax (lt : LaneType) (d : Dst) (a b : Src)
  | fabs (lt : LaneType) (d : Dst) (a : Src)
  | fneg (lt : LaneType) (d : Dst) (a : Src)
  | fcmpEq (lt : LaneType) (m : Reduce) (p : Fin 8) (a b : Src)
  | fcmpLt (lt : LaneType) (m : Reduce) (p : Fin 8) (a b : Src)
  | fcmpLe (lt : LaneType) (m : Reduce) (p : Fin 8) (a b : Src)
  | fcmpUn (lt : LaneType) (m : Reduce) (p : Fin 8) (a b : Src)
  | fdiv (lt : LaneType) (d : Dst) (a b : Src)
  | fsqrt (lt : LaneType) (d : Dst) (a : Src)
  | cvt (row : Fin 16) (g : Fin 4) (rm : Option Rounding) (d : Dst) (a : Src)
  | cvti (row : Fin 11) (g : Fin 4) (rm : Option Rounding) (d : Dst) (a : Src)
  | cvtf (row : Fin 11) (g : Fin 4) (rm : Option Rounding) (d : Dst) (a : Src)
  | split3 (term : SplitTerm) (d : Dst) (a b : Src)
  | fdot2 (lt : LaneType) (d : Dst) (a b : Src)
  | qmxScale (f : MxFmt) (d : Dst) (a : Src)
  | qmxEnc (f : MxFmt) (d : Dst) (a b : Src)
  | dqmx (f : MxFmt) (d : Dst) (a b : Src)
  | fclass (lt : LaneType) (d : Dst) (a : Src)
  | frcp (lt : LaneType) (d : Dst) (a : Src)
  | frsq (lt : LaneType) (d : Dst) (a : Src)
  | fexp2 (lt : LaneType) (d : Dst) (a : Src)
  | flog2 (lt : LaneType) (d : Dst) (a : Src)
  | fsig (lt : LaneType) (d : Dst) (a : Src)
  | ftanh (lt : LaneType) (d : Dst) (a : Src)
  | fsin (lt : LaneType) (d : Dst) (a : Src)
  | fcos (lt : LaneType) (d : Dst) (a : Src)
  -- lane slice, memory and synchronisation (R155 to R168)
  | lsld (w : Width) (bump : Bump) (d : Dst) (an : Fin 4)
  | lsst (w : Width) (bump : Bump) (an : Fin 4) (b : Src)
  | lsldx (w : LaneWidth) (d : Dst) (an : Fin 4) (idx : Src)
  | lsstx (w : LaneWidth) (idx : Fin 16) (an : Fin 4) (b : Src)
  | aset (an : Fin 4) (a : Src) (i : BitVec 9)
  | aadd (an : Fin 4) (a : Src) (i : BitVec 9)
  | ldq (w : Width) (rc : Reuse) (d : Dst) (a ord : Src)
  | stq (w : Width) (noalloc : Bool) (d : Dst) (a b : Src)
  | stqp (w : Width) (noalloc : Bool) (a b : Src)
  | ldqx (w : LaneWidth) (rc : Reuse) (d : Dst) (a idx : Src)
  | stqx (w : LaneWidth) (op : ScatterOp) (idx : Fin 16) (a b : Src)
  | monarm (w32 : Bool) (d : Dst) (a b : Src)
  | pref (rc : Reuse) (a : Src)
  | atom (op : AtomOp) (d : Dst) (a b : Src)
  | cas (w : CasWidth) (d : Fin 16) (a b : Src)
  | barArr (d : Dst) (a : Src)
  | barArrN (d : Dst) (a b : Src)
  | barArrInit (d : Dst) (a b : Src)
  | barWaitFull (d : Dst) (a b : Src) (late : Fin 8)
  | barWaitPar (d : Dst) (a b : Src)
  | tlWait (k : Fin 16) (d : Dst) (a : Src)
  | tlSig (k : Fin 16) (d : Dst) (a : Src)
  | cwait (d : Dst) (n : BitVec 8)
  | fence (sc : Scope) (d : Dst)
  | send (port : Fin 20) (a : Fin 16) (len : Fin 8) (sig : Bool) (nb : Option (Fin 8))
  | sendw (port : Fin 20) (a : Fin 16) (len : Fin 8) (sig nb : Bool) (c : Fin 16)
  -- control element (R171 to R188)
  | cfgEng (port : Fin 16) (a : Fin 16) (len : Fin 8) (c : Fin 16)
  | cfgFab (a : Fin 16) (len : Fin 8) (c : Fin 16)
  | cfgPhase (a : Fin 16) (len : Fin 8) (c : Fin 16)
  | sbind (se : Fin 8) (a : Fin 16) (len : Fin 8) (c : Fin 16)
  | br (off : BitVec 19)
  | sysCall (d : Fin 16) (a : Src)
  | sysRet (a : Src)
  | sysTrap (k : Fin 16)
  | sysEret
  | sysSysrd (d : Dst) (a : Src)
  | sysSyswr (a b : Src)
  | sysSleep (d : Dst) (a b : Src)
  | sysScnext (d : Fin 15) (p : Fin 8)
  | sysRewire (d : Fin 16) (a : Src)
  | sysLayoutv (d : Dst) (a : Src)
  | loop (d : Fin 16) (i : BitVec 9)
  -- adit rules (R219)
  | ldr (n : Fin 16)
  | ldf (w : Fin 4) (off : Fin 128) (sz : RuleSize)
  | cmpk (off : Fin 128) (sz : RuleSize)
  | cmpw (w : Fin 4) (off : Fin 128) (sz : RuleSize)
  | cmpi (r : RuleReg) (imm : BitVec 11)
  | ruleBr (c : RuleCond) (tgt : Fin 32)
  | hash (w : Fin 4) (k : Fin 25) (sh : Fin 8) (mul : Bool)
  | setc (r : RuleReg) (imm : BitVec 11)
  | wadd (w : Fin 4) (imm : BitVec 11)
  | follow (off : Fin 128)
  | choose (off : Fin 128)
  | ret (off : Fin 128) (b : Fin 8)
  | fail (code : Byte)
  -- element, control-element and wait events
  | tokenDelivered (src : Endpoint)
  | instructionVisible (u : UnitId)
  | replyArrival (id : Nat) (remote : Option RemoteAnswer)
  | engineCompletion (core port : Nat)
  | waitComplete (u : UnitId) (id : Nat)
  | spillTimeout (src : Endpoint)
  | trapTaken (core : Nat)
  | sleepWake (core : Nat)
  | sleepTimeout (core : Nat)
  -- configuration and engine commands
  | fabricLoad (mask : Dword) (img : Dword)
  | fabricUnload (mask : Dword)
  | phaseCommand (pmask : BitVec 17)
  | bind (base : Dword) (pat : BitVec 16)
  | streamTokenDeliver (core : Nat) (se : Fin 8)
  | resume (core port : Nat)
  | abort (core port : Nat)
  | signal (tl : Fin 16)
  | copy (c : CopyCmd)
  | cpEdgeWord (core : Nat)
  | gather (c : GatherCmd)
  | scatter (c : ScatterCmd)
  | conf (lsel : Bool) (shift : BitVec 5)
  | mask (c : MaskCmd)
  | list (c : ListCmd)
  | walk (c : WalkCmd)
  | aditResume (core : Nat)
  | aditAbort (core : Nat)
  | walkMigrationArrival (core : Nat) (slot : Fin 16)
  | recordLoadComplete (core : Nat) (slot : Fin 16)
  -- matrix node
  | mnEdgeToken (core : Nat)
  | mma (t : MnTok)
  | mmat (t : MnTok)
  | mmaCsr (t : MnTok)
  | mmaBsr (t : MnTok)
  | mmaC (t : MnTok)
  | coopTimeout (cluster : Nat) (coopid : BitVec 32)
  | mscan (t : MnTok)
  | mepi (t : MnTok)
  | msmQk (t : MnTok)
  | msmPv (t : MnTok)
  | msmFin (t : MnTok)
  | msig (t : MnTok)
  | mnResume (core : Nat)
  | mnAbort (core : Nat)
  | mpoly (t : MnTok)
  | miterNs (t : MnTok)
  | miterGen (t : MnTok)
  | mres (t : MnTok)
  | mfeed (t : MnTok)
  | mld (t : MnTok)
  | mst (t : MnTok)
  | mstZ (t : MnTok)
  | mstC (t : MnTok)
  | mzero (t : MnTok)
  | mcopy (t : MnTok)
  | msts (t : MnTok)
  | mdset (t : MnTok) (w1 w2 : Quad)
  | mcset (t : MnTok)
  -- memory-port, barrier, host and peer commands
  | wset (win : Fin 16) (trapf : Bool) (w1 w2 : Quad)
  | wclr (win : Fin 16) (trapf : Bool)
  | release (entry : Fin 32) (trapf : Bool)
  | inval (trapf : Bool) (vbase : BitVec 56) (size : Dword)
  | barRemoteArrive (peer : Option (BitVec 14)) (core : Fin 2048) (bar : Fin 2048) (count : BitVec 12)
  | barRemoteWait (peer : Option (BitVec 14)) (core : Fin 2048) (bar : Fin 2048) (phase : BitVec 16)
  | egress (sink : Fin 64) (tag : BitVec 3) (payload : Quad)
  | pstore (mod : BitVec 14) (inc : BitVec 16) (pa : BitVec 48) (data : List Quad)
  -- homes and the memory hierarchy
  | homeRead (id part : Nat)
  | homeWrite (id part : Nat)
  | homeRmw (id part : Nat)
  | explicitHomeAccess (id part : Nat)
  | monitorArm (id : Nat)
  | dramDataReturn (slice line : Nat)
  | chuteDrain (slice : Nat)
  | viewLineFill (line : Nat)
  | wbinv (slice : Nat)
  | replay (id part : Nat)
  -- the root
  -- the scheduler
  | launchWaitsHold (l : Nat)
  | launchRelease (l : Nat)
  | launchComplete (l : Nat)
  | remExhausted (part : Nat)
  | budgetExhausted (l : Nat)
  | kerfBegin (l : Nat)
  | kerfMarkerArrival (src : Endpoint)
  | elementFreeze (u : UnitId)
  | ceFreeze (core : Nat)
  | engineSave (core port : Nat)
  | cutComplete (l : Nat)
  | launchRestore (l : Nat)
  | rewireDrainFreeze (u : UnitId)
  | rewireComplete (l : Nat)
  -- host, links and service
  | powerOn (verified : Bool)
  | debtLimitReached (part : Nat)
  -- what the host, peers, the tenant and chance do to the module
  | registerWrite (r : SliceReg) (value : Dword)
  | rootLoad (c : RootCmd) (object : List Byte)
  | launch (c : RootCmd) (object : Nat) (args : List Dword)
  | resumeBudget (c : RootCmd) (handle : Nat) (budget : BitVec 32)
  | policyRegister (c : RootCmd) (handle : Nat) (sig : List Byte)
  | create (c : RootCmd) (spec : CreateSpec)
  | destroy (c : RootCmd) (handle : Nat)
  | pause (c : RootCmd) (handle : Nat)
  | launchResume (c : RootCmd) (handle : Nat)
  | evict (c : RootCmd) (handle : Nat)
  | qset (c : RootCmd) (handle : Nat) (value : Dword)
  | harvest (c : RootCmd) (handle : Nat)
  | keyExport (c : RootCmd) (handle : Nat) (peerAttested : Bool)
  | featackWrite (value : BitVec 256)
  | quiesce (c : RootCmd) (stack : Fin 8)
  | recal (c : RootCmd) (stack : Fin 8)
  | update (c : RootCmd) (stack : Fin 8) (firmware : List Byte) (verified : Bool)
  | retire (c : RootCmd) (stack : Fin 8)
  | hostWrite (via : HostVia) (t : HostTarget)
  | hostRead (via : HostVia) (t : HostSource)
  | doorbellTrigger (part source : Nat) (tag : BitVec 3)
  | egressRingSetup (part base k : Nat)
  | egressHeadWrite (part released : Nat)
  | remoteRequest (mod : BitVec 14) (inc : BitVec 16) (place : PeerPlace) (op : PeerOp)
  | linkLoss (mod : BitVec 14)
  | linkTimeout (mod : BitVec 14)
  | softError (parts : List Nat)
  | uncorrectableError (u : ErrorUnit)
  | stageAdvance (badstk : Byte)
  | spareReplace (u : SpareUnit)
  | linkRestored (mod : BitVec 14) (inc : BitVec 16)
  | domainJoin (id : BitVec 14)
  | tdispRequest (part : Nat) (r : TdispReq)
  | spdmRequest (r : SpdmReq)
  | flashUpdate (image : List Byte) (verified : Bool)
  | formatWindowInstall (w : Fin 16) (cfg : FormatWindow)
  | formatWindowRemove (w : Fin 16)
  | fwstatClear (w : Fin 16) (mask : BitVec 7)
  | idtWrite (ix : Fin 16) (value : Quad)
  | domainChange (lo hi : Nat) (entries : List (Fin 16 × Quad))
  | routerReadMerge (newer newerPart older olderPart : Nat)
  | viewLineWriteback (line : Nat)
  | clone (l op : Nat) (repl drun : Nat)
  | unclone (l op : Nat)
  | fold (l opa opb : Nat)
  | unfold (l op : Nat)
  -- steps without operands
  | aditSignal
  | pstat
  | psig
  | stockpileDecay
  | timestampRenormalise
  | domainRelease
  | launchChoose
  | periodStart
  | measureWindowEnd
  | moduleReset
  | retw
  | miss
  | idle
  | nop
deriving DecidableEq, Repr

end Sys2Proof
end

