-- ==== Sys2Proof/WellFormed.lean ====
section
/-! DEFINITION. Well-formed instructions: the operand values that the encodings allow (R32 to R44, R135, R218). -/

namespace Sys2Proof

/-- The integer types 0x0 to 0x7. -/
def LaneType.isInt : LaneType → Bool
  | .i64x2 | .i32x4 | .i16x8 | .i8x16 | .n64x2 | .n32x4 | .n16x8 | .n8x16 => true
  | _ => false
/-- The types 0x0 to 0x7 and 0xC. -/
def LaneType.isIntOrWord (t : LaneType) : Bool := t.isInt || t = .s128
/-- The types 0x0 to 0x3. -/
def LaneType.isSignedInt : LaneType → Bool
  | .i64x2 | .i32x4 | .i16x8 | .i8x16 => true
  | _ => false
/-- The types 0x0 to 0xB (R120). -/
def LaneType.isLanes (t : LaneType) : Bool := t ≠ .s128
/-- The types 0x0 to 0x9 (R121, R124, R125). -/
def LaneType.isReducible (t : LaneType) : Bool := t.isInt || t = .f64x2 || t = .f32x4
/-- The types 0x1 to 0x3 and 0x5 to 0x7 (R122). -/
def LaneType.isNarrow (t : LaneType) : Bool := t.isInt && t ≠ .i64x2 && t ≠ .n64x2
/-- The types 0x0 to 0x2 and 0x4 to 0x6 (R123). -/
def LaneType.isConflict (t : LaneType) : Bool := t.isInt && t ≠ .i8x16 && t ≠ .n8x16
/-- The types of lscan (R126). -/
def LaneType.isPaired : LaneType → Bool
  | .i64x2 | .i32x4 | .n64x2 | .n32x4 | .f64x2 | .f32x4 => true
  | _ => false
/-- The types 0x8 to 0xB (R129). -/
def LaneType.isFloat : LaneType → Bool
  | .f64x2 | .f32x4 | .bf16x8 | .f16x8 => true
  | _ => false
/-- The types of fdot2 (R140): 0x9, 0xA and 0xB. -/
def LaneType.isDot : LaneType → Bool
  | .f32x4 | .bf16x8 | .f16x8 => true
  | _ => false
/-- The types of the transcendentals (R143): 0x9, 0xA and 0xB. -/
def LaneType.isTrans (t : LaneType) : Bool := t.isDot

/-- What the table of a conversion says of its encoding: how many values G takes, and whether it is exact. -/
structure ConvShape where
  groups : Nat
  exact : Bool
deriving DecidableEq, Repr

/-- The G and Exact columns of R136. -/
def cvtShape (r : Fin 16) : ConvShape :=
  match r.val with
  | 0x0 => ⟨2, false⟩ | 0x1 => ⟨4, false⟩ | 0x2 => ⟨4, false⟩ | 0x3 => ⟨2, true⟩ | 0x4 => ⟨2, false⟩
  | 0x5 => ⟨2, false⟩ | 0x6 => ⟨2, true⟩ | 0x7 => ⟨2, true⟩ | 0x8 => ⟨1, false⟩ | 0x9 => ⟨1, false⟩
  | 0xA => ⟨4, false⟩ | 0xB => ⟨4, false⟩ | 0xC => ⟨4, true⟩ | 0xD => ⟨4, true⟩ | _ => ⟨1, false⟩

/-- The G column of R137; no cvti form is exact. -/
def cvtiShape (r : Fin 11) : ConvShape :=
  match r.val with
  | 0x2 => ⟨2, false⟩ | 0x5 => ⟨2, false⟩ | 0x6 => ⟨2, false⟩ | 0x7 => ⟨4, false⟩ | 0xA => ⟨4, false⟩
  | _ => ⟨1, false⟩

/-- The G and Exact columns of R138. -/
def cvtfShape (r : Fin 11) : ConvShape :=
  match r.val with
  | 0x4 => ⟨2, true⟩ | 0x5 => ⟨2, false⟩ | 0x8 => ⟨4, true⟩ | 0x9 => ⟨4, true⟩ | 0xA => ⟨2, true⟩
  | _ => ⟨1, false⟩

/-- G in its range, and the rounding mode 7 on an exact form (R135). -/
def convOk (s : ConvShape) (g : Fin 4) (rm : Option Rounding) : Bool :=
  g.val < s.groups && (!s.exact || rm.isNone)

/-- A reply's destination (R148). -/
def Dst.isReply : Dst → Bool
  | .ls _ => false
  | _ => true
/-- A destination that is also a source (R33). -/
def Dst.isThird : Dst → Bool
  | .d _ | .ls _ => true
  | _ => false
/-- The destination of done (R108). -/
def Dst.isDone : Dst → Bool
  | .out _ | .nul => true
  | _ => false

/-- Whether an instruction is one that a word can encode: ce is true in a control element. The engine commands and
the events have no word and no check of their own here. -/
def wellFormed (ce : Bool) : Instr → Bool
  | .dup m _ => m ≠ 0
  | .done d _ => d.isDone
  | .add t _ _ _ | .sub t _ _ _ | .mul t _ _ _ | .mulh t _ _ _ | .div t _ _ _ | .rem t _ _ _ | .min t _ _ _
  | .max t _ _ _ | .adds t _ _ _ | .subs t _ _ _ | .mskidx t _ _ _ => t.isInt
  | .mad t d _ _ => t.isInt && d.isThird
  | .and t _ _ _ | .or t _ _ _ | .xor t _ _ _ | .andn t _ _ _ | .shl t _ _ _ | .shr t _ _ _ | .sha t _ _ _
  | .rot t _ _ _ | .bfx t _ _ _ => t.isIntOrWord
  | .abs t _ _ => t.isSignedInt
  | .neg t _ _ => t.isInt
  | .clz t _ _ | .popc t _ _ => t.isIntOrWord
  | .cmpEq t _ _ _ _ => t.isIntOrWord
  | .cmpLt t _ _ _ _ | .cmpLe t _ _ _ _ => t.isInt
  | .shuf t _ _ _ | .bcast t _ _ _ | .ext t _ _ _ => t.isLanes
  | .ins t d _ _ => t.isLanes && d.isThird
  | .rsum t _ _ | .rmax t _ _ | .rmin t _ _ => t.isReducible
  | .vcomb t _ _ _ | .pscan t _ _ _ => t.isReducible
  | .pack t _ _ _ => t.isNarrow
  | .unpkLo t _ _ | .unpkHi t _ _ => t.isNarrow
  | .vconf t _ _ => t.isConflict
  | .lscan t _ _ _ => t.isPaired
  | .fadd t _ _ _ | .fsub t _ _ _ | .fmul t _ _ _ | .fmin t _ _ _ | .fmax t _ _ _ | .fdiv t _ _ _ => t.isFloat
  | .fma t d _ _ | .fms t d _ _ | .fnma t d _ _ => t.isFloat && d.isThird
  | .fabs t _ _ | .fneg t _ _ | .fsqrt t _ _ | .fclass t _ _ => t.isFloat
  | .fcmpEq t _ _ _ _ | .fcmpLt t _ _ _ _ | .fcmpLe t _ _ _ _ | .fcmpUn t _ _ _ _ => t.isFloat
  | .cvt r g rm _ _ => convOk (cvtShape r) g rm
  | .cvti r g rm _ _ => convOk (cvtiShape r) g rm
  | .cvtf r g rm _ _ => convOk (cvtfShape r) g rm
  | .fdot2 t _ _ _ => t.isDot
  | .frcp t _ _ | .frsq t _ _ | .fexp2 t _ _ | .flog2 t _ _ | .fsig t _ _ | .ftanh t _ _ | .fsin t _ _
  | .fcos t _ _ => t.isTrans
  | .ldq _ _ d _ _ | .stq _ _ d _ _ | .ldqx _ _ d _ _ | .monarm _ d _ _ | .atom _ d _ _ | .barArr d _
  | .barArrN d _ _ | .barArrInit d _ _ | .barWaitFull d _ _ _ | .barWaitPar d _ _ | .tlWait _ d _ | .tlSig _ d _
  | .cwait d _ | .fence _ d => d.isReply
  | .stqx w op _ _ _ => op ≠ .fadd || w = .w64 || w = .w32
  | .send _ a n _ nb => a.val + n.val ≤ 15 && (ce || nb.isNone)
  | .sendw _ a n _ nb _ => a.val + n.val ≤ 15 && (ce || !nb)
  | .cfgEng _ a n _ => ce && a.val + n.val ≤ 15
  | .cfgFab a n _ | .cfgPhase a n _ => ce && a.val + n.val ≤ 15
  | .sbind _ a n _ => ce && a.val + n.val ≤ 15
  | .br _ | .sysCall _ _ | .sysRet _ | .sysTrap _ | .sysEret | .sysSysrd _ _ | .sysSyswr _ _ | .sysSleep _ _ _
  | .sysScnext _ _ | .sysRewire _ _ | .sysLayoutv _ _ | .loop _ _ => ce
  | .ldf _ _ s | .cmpw _ _ s => s ≠ .b16
  | .setc r _ => r ≠ .step
  | _ => true

end Sys2Proof
end

