-- ==== Sys2Proof/Decode.lean ====
section
/-! DEFINITION. Decoding and encoding of the 32-bit words: the element and control-element instructions of
02_instruction_formats.md, and the adit rules of R218 and R219. A word that is no instruction is refused with the
cause that R45 reports for it; a faulty rule word is refused with none. -/

namespace Sys2Proof

/-- The result of decoding: an instruction, or the cause of R45 that its word traps with. -/
abbrev Dec (α : Type) := Except Cause α

/-- The bits hi down to lo of a word, as a number. -/
def bits (w hi lo : Nat) : Nat := w / 2 ^ lo % 2 ^ (hi + 1 - lo)

/-- Fails with a cause unless a condition holds. -/
def require (c : Bool) (cause : Cause) : Dec Unit := if c then .ok () else .error cause

/-- A number below n as an index, or the cause. -/
def index (n k : Nat) (cause : Cause) : Dec (Fin n) :=
  if h : k < n then .ok ⟨k, h⟩ else .error cause

/-- Sources of R35: an output-channel code traps 0x006. -/
def srcOf (c : Nat) : Dec Src :=
  if h : c < 16 then .ok (.d ⟨c, h⟩)
  else if h : c - 16 < 4 then .ok (.inp ⟨c - 16, h⟩)
  else if h : c - 20 < 4 then .ok (.pk ⟨c - 20, h⟩)
  else if c = 0x1C then .ok .zero
  else if c = 0x1D then .ok (.ls 0)
  else if c = 0x1E then .ok (.ls 1)
  else if c = 0x1F then .ok .ones
  else .error 0x006

/-- Destinations of R35: an input channel and zero trap 0x007. -/
def dstOf (c : Nat) : Dec Dst :=
  if h : c < 16 then .ok (.d ⟨c, h⟩)
  else if c < 0x18 then .error 0x007
  else if h : c - 0x18 < 4 then .ok (.out ⟨c - 0x18, h⟩)
  else if c = 0x1D then .ok (.ls 0)
  else if c = 0x1E then .ok (.ls 1)
  else if c = 0x1F then .ok .nul
  else .error 0x007

/-- A destination that is also a third source (R33): a D register or a lane-slice code. -/
def dst3Of (c : Nat) : Dec Dst :=
  match dstOf c with
  | .ok (.d n) => .ok (.d n)
  | .ok (.ls n) => .ok (.ls n)
  | _ => .error 0x007

/-- The destination of a reply (R148): a D register, an output channel or discard. -/
def replyDstOf (c : Nat) : Dec Dst :=
  match dstOf c with
  | .ok (.d n) => .ok (.d n)
  | .ok (.out n) => .ok (.out n)
  | .ok .nul => .ok .nul
  | _ => .error 0x007

/-- The destination of done (R108): an output channel or discard. -/
def doneDstOf (c : Nat) : Dec Dst :=
  match dstOf c with
  | .ok (.out n) => .ok (.out n)
  | .ok .nul => .ok .nul
  | _ => .error 0x007

/-- A destination that must be a D register. -/
def dregOf (c : Nat) : Dec (Fin 16) := index 16 c 0x007

/-- Lane types of R38; 0xD to 0xF are reserved and trap 0x004. -/
def laneTypeOf (c : Nat) : Dec LaneType :=
  match c with
  | 0x0 => .ok .i64x2 | 0x1 => .ok .i32x4 | 0x2 => .ok .i16x8 | 0x3 => .ok .i8x16
  | 0x4 => .ok .n64x2 | 0x5 => .ok .n32x4 | 0x6 => .ok .n16x8 | 0x7 => .ok .n8x16
  | 0x8 => .ok .f64x2 | 0x9 => .ok .f32x4 | 0xA => .ok .bf16x8 | 0xB => .ok .f16x8
  | 0xC => .ok .s128
  | _ => .error 0x004

/-- A lane type that the instruction accepts; any other traps 0x004. -/
def ltIn (ok : LaneType → Bool) (c : Nat) : Dec LaneType :=
  match laneTypeOf c with
  | .ok lt => if ok lt then .ok lt else .error 0x004
  | .error e => .error e

def widthOf (c : Nat) : Width := match c with | 0 => .w128 | 1 => .w64 | 2 => .w32 | _ => .w16
def laneWidthOf (c : Nat) : LaneWidth := match c with | 0 => .w64 | 1 => .w32 | 2 => .w16 | _ => .w8
def shiftWidthOf (c : Nat) : ShiftWidth := match c with | 0 => .w64 | 1 => .w32 | 2 => .w16 | _ => .w8
def reuseOf (c : Nat) : Reuse := match c with | 0 => .stream | 1 => .normal | 2 => .hot | _ => .pin

def bumpOf (c : Nat) : Dec Bump :=
  match c with | 0 => .ok .none | 1 => .ok .inc | 2 => .ok .dec | _ => .error 0x005

def scatterOf (c : Nat) : Dec ScatterOp :=
  match c with | 0 => .ok .st | 1 => .ok .add | 2 => .ok .fadd | _ => .error 0x005

def atomOf (c : Nat) : Dec AtomOp :=
  match c with
  | 0x0 => .ok .addI64 | 0x1 => .ok .addI32 | 0x2 => .ok .andB64 | 0x3 => .ok .orB64 | 0x4 => .ok .xorB64
  | 0x5 => .ok .minI64 | 0x6 => .ok .maxI64 | 0x7 => .ok .minN64 | 0x8 => .ok .maxN64 | 0x9 => .ok .xchgB64
  | 0xA => .ok .xchgB128 | 0xB => .ok .faddF32 | 0xC => .ok .faddF64 | 0xD => .ok .fmaxF32
  | 0xE => .ok .addI32x4
  | _ => .error 0x005

def casWidthOf (c : Nat) : Dec CasWidth :=
  match c with | 0 => .ok .w64 | 1 => .ok .w32 | 2 => .ok .w128 | _ => .error 0x005

def scopeOf (c : Nat) : Dec Scope :=
  match c with
  | 0 => .ok .lane | 1 => .ok .core | 2 => .ok .cluster | 3 => .ok .module | 4 => .ok .domain | 5 => .ok .system
  | _ => .error 0x005

/-- The MODE of a comparison's predicate field (R110). -/
def reduceOf (c : Nat) : Dec Reduce :=
  match c with | 0 => .ok .all | 1 => .ok .any | 2 => .ok .lane0 | _ => .error 0x005

/-- The RM of a conversion's control field (R135): 7 is FPCTL.RM. -/
def convRmOf (c : Nat) : Dec (Option Rounding) :=
  match c with
  | 0 => .ok (some .rne) | 1 => .ok (some .rtz) | 2 => .ok (some .rup) | 3 => .ok (some .rdn) | 4 => .ok (some .sr)
  | 7 => .ok none
  | _ => .error 0x005

/-- The MX format codes of R141 and R142. -/
def mxFmtOf (c : Nat) : Dec MxFmt :=
  match c with
  | 0 => .ok .mxint8 | 1 => .ok .e5m2 | 2 => .ok .e4m3 | 3 => .ok .e3m2 | 4 => .ok .e2m3 | 5 => .ok .e2m1
  | _ => .error 0x005

def pred (c : Nat) : Fin 8 := ⟨c % 8, Nat.mod_lt _ (by decide)⟩

/-- The body of a word, its fields by their formats (R32). -/
structure Body where
  dst : Nat
  opa : Nat
  opb : Nat
  lt : Nat
deriving DecidableEq, Repr

/-- IMM9 of format I, as its nine bits. -/
def Body.imm9 (b : Body) : Nat := b.opb * 16 + b.lt
/-- LEN of format K. -/
def Body.len (b : Body) : Nat := b.imm9 / 64
/-- CTL of format K. -/
def Body.ctl (b : Body) : Nat := b.imm9 % 64
/-- OFF19 of format J, as its nineteen bits. -/
def Body.off19 (b : Body) : Nat := b.dst * 2 ^ 14 + b.opa * 2 ^ 9 + b.imm9

/-- The packet range of R44: D registers only, within D0 to D15. -/
def packetOf (opa len : Nat) : Dec (Fin 16 × Fin 8) :=
  if h : opa < 16 ∧ len < 8 ∧ opa + len ≤ 15 then .ok (⟨opa, h.1⟩, ⟨len, h.2.1⟩) else .error 0x00D

section Formats
variable {α : Type}

/-- Lane type, two sources and a destination. -/
def rrr (ok : LaneType → Bool) (mk : LaneType → Dst → Src → Src → α) (b : Body) : Dec α := do
  let lt ← ltIn ok b.lt
  let a ← srcOf b.opa
  let c ← srcOf b.opb
  let d ← dstOf b.dst
  return mk lt d a c

/-- As rrr, with DST a third source. -/
def rrr3 (ok : LaneType → Bool) (mk : LaneType → Dst → Src → Src → α) (b : Body) : Dec α := do
  let lt ← ltIn ok b.lt
  let a ← srcOf b.opa
  let c ← srcOf b.opb
  let d ← dst3Of b.dst
  return mk lt d a c

/-- Lane type, one source and a destination; OPB unused. -/
def rr (ok : LaneType → Bool) (mk : LaneType → Dst → Src → α) (b : Body) : Dec α := do
  let lt ← ltIn ok b.lt
  let a ← srcOf b.opa
  let d ← dstOf b.dst
  return mk lt d a

/-- A comparison into a predicate (R113, R134). -/
def cmp (ok : LaneType → Bool) (mk : LaneType → Reduce → Fin 8 → Src → Src → α) (b : Body) : Dec α := do
  let lt ← ltIn ok b.lt
  let m ← reduceOf (b.dst / 8)
  let a ← srcOf b.opa
  let c ← srcOf b.opb
  return mk lt m (pred b.dst) a c

/-- A destination and one source, LT fixed at 0xC (R106). -/
def mv (mk : Dst → Src → α) (b : Body) : Dec α := do
  require (b.lt = 0xC) 0x004
  let a ← srcOf b.opa
  let d ← dstOf b.dst
  return mk d a

/-- The shifts by a constant (R117). -/
def shiftI (mk : Dst → Src → ShiftWidth → BitVec 7 → α) (b : Body) : Dec α := do
  let a ← srcOf b.opa
  let d ← dstOf b.dst
  return mk d a (shiftWidthOf (b.imm9 / 128)) (.ofNat 7 b.imm9)

/-- A conversion (R135): its row, lane group and rounding. -/
def conv (n : Nat) (row : Fin n → ConvShape) (mk : Fin n → Fin 4 → Option Rounding → Dst → Src → α) (b : Body) :
    Dec α := do
  let r ← index n b.lt 0x005
  let rm ← convRmOf (b.opb % 8)
  let g ← index 4 (b.opb / 8) 0x005
  require (g.val < (row r).groups ∧ ((row r).exact = false ∨ rm = none)) 0x005
  let a ← srcOf b.opa
  let d ← dstOf b.dst
  return mk r g rm d a

/-- The A-register selector of the lane-slice accesses (R155). -/
def areg (opa : Nat) : Dec (Fin 4) := index 4 opa 0x005

end Formats

/-- pset of R111: the predicate field's MODE picks the form. -/
def decodePset (b : Body) : Dec Instr :=
  match b.dst / 8 with
  | 0 => do
    require (b.imm9 < 2) 0x005
    return .pset (pred b.dst) (b.imm9 = 1)
  | 1 => do
    require (b.imm9 = 0) 0x005
    return .psetNz (pred b.dst) (← srcOf b.opa)
  | 2 => do
    require (b.imm9 = 0) 0x005
    return .psetZ (pred b.dst) (← srcOf b.opa)
  | _ => .error 0x005

/-- plog of R112. -/
def decodePlog (b : Body) : Dec Instr := do
  require (b.dst < 8 ∧ b.opa < 8 ∧ b.opb < 8) 0x005
  return .plog (pred b.dst) (pred b.opa) (pred b.opb) (.ofNat 4 b.lt)

/-- fwd of R107. -/
def decodeFwd (b : Body) : Dec Instr := do
  require (b.lt = 0xC) 0x004
  let a ← srcOf b.opa
  let c ← srcOf b.opb
  match dstOf b.dst with
  | .ok (.out n) => return .fwd n a c
  | _ => .error 0x007

/-- tagset of R108. -/
def decodeTagset (b : Body) : Dec Instr := do
  require (b.imm9 < 8) 0x005
  let a ← srcOf b.opa
  let d ← dstOf b.dst
  return .tagset d a (.ofNat 3 b.imm9)

/-- dup of R108. -/
def decodeDup (b : Body) : Dec Instr := do
  require (b.lt ≠ 0) 0x005
  return .dup (.ofNat 4 b.lt) (← srcOf b.opa)

/-- drop of R108. -/
def decodeDrop (b : Body) : Dec Instr := do
  require (b.lt = 0xC) 0x004
  return .drop (← srcOf b.opa)

/-- done of R108. -/
def decodeDone (b : Body) : Dec Instr := do
  require (b.lt = 0xC) 0x004
  let a ← srcOf b.opa
  let d ← doneDstOf b.dst
  return .done d a

/-- sel of R109. -/
def decodeSel (b : Body) : Dec Instr := do
  let a ← srcOf b.opa
  let c ← srcOf b.opb
  let d ← dstOf b.dst
  return .sel d a c (pred b.lt) (b.lt ≥ 8)

/-- bar.arr of R162. -/
def decodeBarArr (b : Body) : Dec Instr := do
  require (b.lt < 3) 0x005
  let a ← srcOf b.opa
  if b.lt = 0 then
    let d ← replyDstOf b.dst
    return .barArr d a
  else
    let c ← srcOf b.opb
    let d ← replyDstOf b.dst
    return if b.lt = 1 then .barArrN d a c else .barArrInit d a c

/-- bar.wait of R163. -/
def decodeBarWait (b : Body) : Dec Instr := do
  require (b.lt % 2 = 0 ∨ b.lt = 1) 0x005
  let a ← srcOf b.opa
  let c ← srcOf b.opb
  let d ← replyDstOf b.dst
  return if b.lt % 2 = 0 then .barWaitFull d a c (pred (b.lt / 2)) else .barWaitPar d a c

/-- The lane-slice accesses of R155. -/
def decodeLsld (b : Body) : Dec Instr := do
  let bump ← bumpOf (b.lt / 4)
  let n ← areg b.opa
  let d ← dstOf b.dst
  return .lsld (widthOf (b.lt % 4)) bump d n
def decodeLsst (b : Body) : Dec Instr := do
  let bump ← bumpOf (b.lt / 4)
  let n ← areg b.opa
  let c ← srcOf b.opb
  return .lsst (widthOf (b.lt % 4)) bump n c
def decodeLsldx (b : Body) : Dec Instr := do
  require (b.lt < 4) 0x005
  let n ← areg b.opa
  let c ← srcOf b.opb
  let d ← dstOf b.dst
  return .lsldx (laneWidthOf b.lt) d n c
def decodeLsstx (b : Body) : Dec Instr := do
  require (b.lt < 4) 0x005
  let n ← areg b.opa
  let c ← srcOf b.opb
  let d ← dregOf b.dst
  return .lsstx (laneWidthOf b.lt) d n c

/-- aset and aadd of R156. -/
def decodeAset (mk : Fin 4 → Src → BitVec 9 → Instr) (b : Body) : Dec Instr := do
  let n ← areg b.dst
  let a ← srcOf b.opa
  return mk n a (.ofNat 9 b.imm9)

/-- Loads, stores and prefetch of R157. -/
def decodeLdq (b : Body) : Dec Instr := do
  let a ← srcOf b.opa
  let c ← srcOf b.opb
  let d ← replyDstOf b.dst
  return .ldq (widthOf (b.lt % 4)) (reuseOf (b.lt / 4)) d a c
def decodeStq (b : Body) : Dec Instr := do
  require (b.lt < 8) 0x005
  let a ← srcOf b.opa
  let c ← srcOf b.opb
  let d ← replyDstOf b.dst
  return .stq (widthOf (b.lt % 4)) (b.lt ≥ 4) d a c
def decodeStqp (b : Body) : Dec Instr := do
  require (b.lt < 8) 0x005
  let a ← srcOf b.opa
  let c ← srcOf b.opb
  require (b.dst = 0x1F) 0x007
  return .stqp (widthOf (b.lt % 4)) (b.lt ≥ 4) a c
def decodePref (b : Body) : Dec Instr := do
  require (b.lt < 4) 0x005
  return .pref (reuseOf b.lt) (← srcOf b.opa)

/-- Gather and scatter of R158. -/
def decodeLdqx (b : Body) : Dec Instr := do
  let a ← srcOf b.opa
  let c ← srcOf b.opb
  let d ← replyDstOf b.dst
  return .ldqx (laneWidthOf (b.lt % 4)) (reuseOf (b.lt / 4)) d a c
def decodeStqx (b : Body) : Dec Instr := do
  let op ← scatterOf (b.lt / 4)
  require (op ≠ .fadd ∨ b.lt % 4 < 2) 0x005
  let a ← srcOf b.opa
  let c ← srcOf b.opb
  let d ← dregOf b.dst
  return .stqx (laneWidthOf (b.lt % 4)) op d a c

/-- Monitors, atomics and compare-and-swap (R159 to R161). -/
def decodeMonarm (b : Body) : Dec Instr := do
  require (b.lt < 2) 0x005
  let a ← srcOf b.opa
  let c ← srcOf b.opb
  let d ← replyDstOf b.dst
  return .monarm (b.lt = 1) d a c
def decodeAtom (b : Body) : Dec Instr := do
  let op ← atomOf b.lt
  let a ← srcOf b.opa
  let c ← srcOf b.opb
  let d ← replyDstOf b.dst
  return .atom op d a c
def decodeCas (b : Body) : Dec Instr := do
  let w ← casWidthOf b.lt
  let a ← srcOf b.opa
  let c ← srcOf b.opb
  let d ← dregOf b.dst
  return .cas w d a c

/-- Timelines, cwait and fence (R164 to R166). -/
def decodeTl (mk : Fin 16 → Dst → Src → Instr) (b : Body) : Dec Instr := do
  let k ← index 16 b.lt 0x005
  let a ← srcOf b.opa
  let d ← replyDstOf b.dst
  return mk k d a
def decodeCwait (b : Body) : Dec Instr := do
  require (b.imm9 < 256) 0x005
  let d ← replyDstOf b.dst
  return .cwait d (.ofNat 8 b.imm9)
def decodeFence (b : Body) : Dec Instr := do
  let sc ← scopeOf b.imm9
  let d ← replyDstOf b.dst
  return .fence sc d

/-- send of R44; ce is true in a control element. -/
def decodeSend (ce : Bool) (b : Body) : Dec Instr := do
  require (b.ctl / 8 % 2 = 0 ∧ (b.ctl / 16 % 2 = 1 ∨ b.ctl % 8 = 0)) 0x008
  let p ← index 20 b.dst 0x00A
  let (a, n) ← packetOf b.opa b.len
  require (ce ∨ b.ctl / 16 % 2 = 0) 0x00E
  return .send p a n (b.ctl / 32 = 1) (if b.ctl / 16 % 2 = 1 then some (pred b.ctl) else none)

/-- sendw of R44. -/
def decodeSendw (ce : Bool) (b : Body) : Dec Instr := do
  let p ← index 20 b.dst 0x00A
  let (a, n) ← packetOf b.opa b.len
  require (ce ∨ b.ctl / 16 % 2 = 0) 0x00E
  return .sendw p a n (b.ctl / 32 = 1) (b.ctl / 16 % 2 = 1) (Fin.ofNat 16 (b.ctl % 16))

/-- cfg of R185. -/
def decodeCfg (b : Body) : Dec Instr := do
  require (b.ctl / 16 < 3 ∧ (if b.ctl / 16 = 0 then b.dst < 16 ∨ b.dst ≥ 20 else b.dst = 0)) 0x005
  let p ← index 16 b.dst 0x00A
  let (a, n) ← packetOf b.opa b.len
  let c : Fin 16 := Fin.ofNat 16 (b.ctl % 16)
  return match b.ctl / 16 with
    | 0 => .cfgEng p a n c
    | 1 => .cfgFab a n c
    | _ => .cfgPhase a n c

/-- sbind of R188. -/
def decodeSbind (b : Body) : Dec Instr := do
  require (b.ctl / 16 = 0) 0x005
  let p ← index 8 b.dst 0x005
  let (a, n) ← packetOf b.opa b.len
  return .sbind p a n (Fin.ofNat 16 (b.ctl % 16))

/-- sys of R42 and R173. -/
def decodeSys (b : Body) : Dec Instr :=
  match b.lt with
  | 0x0 => do
    let a ← srcOf b.opa
    return .sysCall (← dregOf b.dst) a
  | 0x1 => do return .sysRet (← srcOf b.opa)
  | 0x2 => do return .sysTrap (← index 16 b.opb 0x005)
  | 0x3 => .ok .sysEret
  | 0x4 => do
    let a ← srcOf b.opa
    return .sysSysrd (← dstOf b.dst) a
  | 0x5 => do
    let a ← srcOf b.opa
    return .sysSyswr a (← srcOf b.opb)
  | 0x6 => do
    let a ← srcOf b.opa
    let c ← srcOf b.opb
    return .sysSleep (← dstOf b.dst) a c
  | 0x7 => do
    require (b.opa < 8) 0x005
    return .sysScnext (← index 15 b.dst 0x007) (pred b.opa)
  | 0x8 => do
    let a ← srcOf b.opa
    return .sysRewire (← dregOf b.dst) a
  | 0x9 => do
    let a ← srcOf b.opa
    return .sysLayoutv (← dstOf b.dst) a
  | _ => .error 0x005

/-- loop of R172. -/
def decodeLoop (b : Body) : Dec Instr := do return .loop (← dregOf b.dst) (.ofNat 9 b.imm9)

/-- OPC 0x00 to 0x0F: moves, channels and predicates (R106, R110). -/
def decode0 (opc : Nat) (b : Body) (v : Nat) : Dec Instr :=
  match opc with
  | 0x00 => do
    require (b.off19 = 0) 0x008
    return .nop
  | 0x01 => mv .mov b
  | 0x02 => do return .movi (← dstOf b.dst) (.ofNat 9 b.imm9)
  | 0x03 => do
    require (b.opa = 0 ∧ b.opb = 0 ∧ b.lt < 4) 0x008
    let d ← dstOf b.dst
    return .lit (match b.lt with | 0 => .zx | 1 => .sx | 2 => .rep32 | _ => .rep64) d (.ofNat 32 v)
  | 0x04 => decodeFwd b
  | 0x05 => decodeTagset b
  | 0x06 => decodeDup b
  | 0x07 => decodeDrop b
  | 0x08 => decodePset b
  | 0x09 => decodePlog b
  | 0x0A => decodeSel b
  | 0x0B => mv .tagget b
  | 0x0C => decodeDone b
  | _ => .error 0x001

/-- OPC 0x10 to 0x1F: integer arithmetic (R114, R117, R119). -/
def decode1 (opc : Nat) (b : Body) : Dec Instr :=
  match opc with
  | 0x10 => rrr LaneType.isInt .add b
  | 0x11 => rrr LaneType.isInt .sub b
  | 0x12 => do
    let a ← srcOf b.opa
    return .addi (← dstOf b.dst) a (.ofNat 9 b.imm9)
  | 0x13 => rrr LaneType.isInt .mul b
  | 0x14 => rrr LaneType.isInt .mulh b
  | 0x15 => rrr3 LaneType.isInt .mad b
  | 0x16 => rrr LaneType.isInt .div b
  | 0x17 => rrr LaneType.isInt .rem b
  | 0x18 => rrr LaneType.isIntOrWord .and b
  | 0x19 => rrr LaneType.isIntOrWord .or b
  | 0x1A => rrr LaneType.isIntOrWord .xor b
  | 0x1B => rrr LaneType.isIntOrWord .andn b
  | 0x1C => rrr LaneType.isIntOrWord .shl b
  | 0x1D => rrr LaneType.isIntOrWord .shr b
  | 0x1E => rrr LaneType.isIntOrWord .sha b
  | 0x1F => rrr LaneType.isIntOrWord .rot b
  | _ => .error 0x001

/-- OPC 0x20 to 0x2F: integer arithmetic and comparison (R113, R117 to R119). -/
def decode2 (opc : Nat) (b : Body) : Dec Instr :=
  match opc with
  | 0x20 => shiftI .shli b
  | 0x21 => shiftI .shri b
  | 0x22 => rrr LaneType.isInt .min b
  | 0x23 => rrr LaneType.isInt .max b
  | 0x24 => rr LaneType.isSignedInt .abs b
  | 0x25 => rr LaneType.isInt .neg b
  | 0x26 => rr LaneType.isIntOrWord .clz b
  | 0x27 => rr LaneType.isIntOrWord .popc b
  | 0x28 => cmp LaneType.isIntOrWord .cmpEq b
  | 0x29 => cmp LaneType.isInt .cmpLt b
  | 0x2A => cmp LaneType.isInt .cmpLe b
  | 0x2B => rrr LaneType.isInt .adds b
  | 0x2C => rrr LaneType.isInt .subs b
  | 0x2D => do
    let s ← index 16 b.lt 0x005
    let a ← srcOf b.opa
    let c ← srcOf b.opb
    return .lea s (← dstOf b.dst) a c
  | 0x2E => do
    require (b.lt = 3 ∨ b.lt = 7) 0x004
    let a ← srcOf b.opa
    let c ← srcOf b.opb
    return .dot4 (b.lt = 3) (← dstOf b.dst) a c
  | 0x2F => rrr LaneType.isIntOrWord .bfx b
  | _ => .error 0x001

/-- OPC 0x30 to 0x3F: lanes (R120 to R127). -/
def decode3 (opc : Nat) (b : Body) : Dec Instr :=
  match opc with
  | 0x30 => rrr LaneType.isLanes .shuf b
  | 0x31 => rrr LaneType.isLanes .bcast b
  | 0x32 => rrr3 LaneType.isLanes .ins b
  | 0x33 => rrr LaneType.isLanes .ext b
  | 0x34 => rr LaneType.isReducible .rsum b
  | 0x35 => rr LaneType.isReducible .rmax b
  | 0x36 => rr LaneType.isReducible .rmin b
  | 0x37 => rrr LaneType.isNarrow .pack b
  | 0x38 => rr LaneType.isNarrow .unpkLo b
  | 0x39 => rr LaneType.isNarrow .unpkHi b
  | 0x3A => rr LaneType.isConflict .vconf b
  | 0x3B => rrr LaneType.isReducible .vcomb b
  | 0x3C => rrr LaneType.isReducible .pscan b
  | 0x3D => rrr LaneType.isPaired .lscan b
  | 0x3E => rrr LaneType.isInt .mskidx b
  | _ => .error 0x001

/-- OPC 0x40 to 0x4F: floating-point arithmetic (R130 to R134). -/
def decode4 (opc : Nat) (b : Body) : Dec Instr :=
  match opc with
  | 0x40 => rrr LaneType.isFloat .fadd b
  | 0x41 => rrr LaneType.isFloat .fsub b
  | 0x42 => rrr LaneType.isFloat .fmul b
  | 0x43 => rrr3 LaneType.isFloat .fma b
  | 0x44 => rrr3 LaneType.isFloat .fms b
  | 0x45 => rrr3 LaneType.isFloat .fnma b
  | 0x46 => rrr LaneType.isFloat .fmin b
  | 0x47 => rrr LaneType.isFloat .fmax b
  | 0x48 => rr LaneType.isFloat .fabs b
  | 0x49 => rr LaneType.isFloat .fneg b
  | 0x4A => cmp LaneType.isFloat .fcmpEq b
  | 0x4B => cmp LaneType.isFloat .fcmpLt b
  | 0x4C => cmp LaneType.isFloat .fcmpLe b
  | 0x4D => cmp LaneType.isFloat .fcmpUn b
  | 0x4E => rrr LaneType.isFloat .fdiv b
  | 0x4F => rr LaneType.isFloat .fsqrt b
  | _ => .error 0x001

/-- OPC 0x50 to 0x5F: conversions, MX and transcendentals (R135 to R145). -/
def decode5 (opc : Nat) (b : Body) : Dec Instr :=
  match opc with
  | 0x50 => conv 16 cvtShape .cvt b
  | 0x51 => conv 11 cvtiShape .cvti b
  | 0x52 => conv 11 cvtfShape .cvtf b
  | 0x53 => do
    require (b.lt < 3) 0x005
    let a ← srcOf b.opa
    let c ← srcOf b.opb
    return .split3 (match b.lt with | 0 => .hi | 1 => .mid | _ => .lo) (← dstOf b.dst) a c
  | 0x54 => rrr LaneType.isDot .fdot2 b
  | 0x55 => do
    let f ← mxFmtOf (b.lt % 8)
    let a ← srcOf b.opa
    if b.lt ≥ 8 then return .qmxScale f (← dstOf b.dst) a
    else
      let c ← srcOf b.opb
      return .qmxEnc f (← dstOf b.dst) a c
  | 0x56 => do
    let f ← mxFmtOf b.lt
    let a ← srcOf b.opa
    let c ← srcOf b.opb
    return .dqmx f (← dstOf b.dst) a c
  | 0x57 => rr LaneType.isFloat .fclass b
  | 0x58 => rr LaneType.isTrans .frcp b
  | 0x59 => rr LaneType.isTrans .frsq b
  | 0x5A => rr LaneType.isTrans .fexp2 b
  | 0x5B => rr LaneType.isTrans .flog2 b
  | 0x5C => rr LaneType.isTrans .fsig b
  | 0x5D => rr LaneType.isTrans .ftanh b
  | 0x5E => rr LaneType.isTrans .fsin b
  | 0x5F => rr LaneType.isTrans .fcos b
  | _ => .error 0x001

/-- OPC 0x60 to 0x6F: the lane slice and memory (R155 to R161). -/
def decode6 (opc : Nat) (b : Body) : Dec Instr :=
  match opc with
  | 0x60 => decodeLsld b
  | 0x61 => decodeLsst b
  | 0x62 => decodeLsldx b
  | 0x63 => decodeLsstx b
  | 0x64 => decodeAset .aset b
  | 0x65 => decodeAset .aadd b
  | 0x66 => decodeLdq b
  | 0x67 => decodeStq b
  | 0x68 => decodeStqp b
  | 0x69 => decodeLdqx b
  | 0x6A => decodeStqx b
  | 0x6B => decodeMonarm b
  | 0x6C => decodePref b
  | _ => .error 0x001

/-- OPC 0x70 to 0x7F: synchronisation, commands and the control element (R41, R159 to R173). -/
def decode7 (ce : Bool) (opc : Nat) (b : Body) : Dec Instr :=
  match opc with
  | 0x70 => decodeAtom b
  | 0x71 => decodeCas b
  | 0x72 => decodeBarArr b
  | 0x73 => decodeBarWait b
  | 0x74 => decodeTl .tlWait b
  | 0x75 => decodeTl .tlSig b
  | 0x76 => decodeCwait b
  | 0x77 => decodeFence b
  | 0x78 => decodeSend ce b
  | 0x79 => decodeSendw ce b
  | 0x7A => if ce then decodeCfg b else .error 0x003
  | 0x7B => if ce then decodeSbind b else .error 0x003
  | 0x7C => if ce then .ok (.br (.ofNat 19 b.off19)) else .error 0x003
  | 0x7D => if ce then decodeSys b else .error 0x003
  | 0x7E => if ce then decodeLoop b else .error 0x003
  | _ => .error 0x002

/-- The instruction of an OPC and a body; v is the second word of a literal. -/
def decodeOp (ce : Bool) (opc : Nat) (b : Body) (v : Nat) : Dec Instr :=
  match opc / 16 with
  | 0 => decode0 opc b v
  | 1 => decode1 opc b
  | 2 => decode2 opc b
  | 3 => decode3 opc b
  | 4 => decode4 opc b
  | 5 => decode5 opc b
  | 6 => decode6 opc b
  | _ => decode7 ce opc b

/-- OPC of a word. -/
def opcOf (w : Nat) : Nat := bits w 25 19
/-- TRG or GRD of a word. -/
def trgOf (w : Nat) : Nat := bits w 31 26
/-- The body of a word. -/
def bodyOf (w : Nat) : Body := ⟨bits w 18 14, bits w 13 9, bits w 8 4, bits w 3 0⟩

/-- Decoding of an element's slot (ce = false) or a control element's word (ce = true), with v the literal's second
word, none where there is none (R34, R45). GRD bit 3 is the first check of a control element's word. -/
def decodeWord (ce : Bool) (w : Nat) (v : Option Nat) : Dec Instr :=
  if ce ∧ trgOf w / 8 % 2 = 1 then .error 0x00B
  else if opcOf w = 0x03 ∧ v = none then .error 0x009
  else decodeOp ce (opcOf w) (bodyOf w) (v.getD 0)

/-! ## Adit rules (R218, R219) -/

/-- A rule word: an operation, or none where the word is a rule fault. -/
def ruleRegOf (c : Nat) : Option RuleReg :=
  match c with
  | 0 => some .cur | 1 => some .w0 | 2 => some .w1 | 3 => some .w2 | 4 => some .w3 | 5 => some .step
  | _ => none
def ruleCondOf (c : Nat) : Option RuleCond :=
  match c with
  | 0 => some .al | 1 => some .eq | 2 => some .ne | 3 => some .lt | 4 => some .ge | 5 => some .gt | 6 => some .le
  | _ => none
def ruleSizeOf (c : Nat) : RuleSize := match c with | 0 => .b8 | 1 => .b4 | 2 => .b2 | _ => .b16

def fin4? (k : Nat) : Option (Fin 4) := if h : k < 4 then some ⟨k, h⟩ else none
def fin128 (k : Nat) : Fin 128 := Fin.ofNat 128 k

/-- Decoding of a rule word. Fields an operation leaves unused must be zero. -/
def decodeRule (w : Nat) : Option Instr :=
  let ra := bits w 27 25
  let foff := bits w 24 18
  let sz := bits w 17 16
  let tgt := bits w 15 11
  let imm := bits w 10 0
  match bits w 31 28 with
  | 0x0 => if ra = 0 ∧ foff = 0 ∧ sz = 0 ∧ tgt = 0 ∧ imm < 16 then some (.ldr (Fin.ofNat 16 imm)) else none
  | 0x1 => if 1 ≤ ra ∧ ra ≤ 4 ∧ sz < 3 ∧ tgt = 0 ∧ imm = 0 then
      some (.ldf (Fin.ofNat 4 (ra - 1)) (fin128 foff) (ruleSizeOf sz)) else none
  | 0x2 => if ra = 0 ∧ tgt = 0 ∧ imm = 0 then some (.cmpk (fin128 foff) (ruleSizeOf sz)) else none
  | 0x3 => if 1 ≤ ra ∧ ra ≤ 4 ∧ sz < 3 ∧ tgt = 0 ∧ imm = 0 then
      some (.cmpw (Fin.ofNat 4 (ra - 1)) (fin128 foff) (ruleSizeOf sz)) else none
  | 0x4 => if foff = 0 ∧ sz = 0 ∧ tgt = 0 then (ruleRegOf ra).map fun r => .cmpi r (.ofNat 11 imm) else none
  | 0x5 => if foff = 0 ∧ sz = 0 ∧ imm = 0 then (ruleCondOf ra).map fun c => .ruleBr c (Fin.ofNat 32 tgt) else none
  | 0x6 => if 1 ≤ ra ∧ ra ≤ 4 ∧ foff = 0 ∧ sz = 0 ∧ tgt = 0 ∧ imm < 512 ∧ imm % 32 < 25 then
      some (.hash (Fin.ofNat 4 (ra - 1)) (Fin.ofNat 25 (imm % 32)) (Fin.ofNat 8 (imm / 32)) (imm ≥ 256)) else none
  | 0x7 => if ra < 5 ∧ foff = 0 ∧ sz = 0 ∧ tgt = 0 then (ruleRegOf ra).map fun r => .setc r (.ofNat 11 imm) else none
  | 0x8 => if 1 ≤ ra ∧ ra ≤ 4 ∧ foff = 0 ∧ sz = 0 ∧ tgt = 0 then
      some (.wadd (Fin.ofNat 4 (ra - 1)) (.ofNat 11 imm)) else none
  | 0x9 => if ra = 0 ∧ sz = 0 ∧ tgt = 0 ∧ imm = 0 then some (.follow (fin128 foff)) else none
  | 0xA => if ra = 0 ∧ sz = 0 ∧ tgt = 0 ∧ imm = 0 then some (.choose (fin128 foff)) else none
  | 0xB => if ra = 0 ∧ sz = 0 ∧ tgt = 0 ∧ imm < 8 then some (.ret (fin128 foff) (Fin.ofNat 8 imm)) else none
  | 0xC => if ra = 0 ∧ foff = 0 ∧ sz = 0 ∧ tgt = 0 ∧ imm = 0 then some .retw else none
  | 0xD => if ra = 0 ∧ foff = 0 ∧ sz = 0 ∧ tgt = 0 ∧ imm = 0 then some .miss else none
  | 0xE => if ra = 0 ∧ foff = 0 ∧ sz = 0 ∧ tgt = 0 ∧ imm < 256 then some (.fail (.ofNat 8 imm)) else none
  | _ => if ra = 0 ∧ foff = 0 ∧ sz = 0 ∧ tgt = 0 ∧ imm = 0 then some .idle else none

/-! ## The table's words -/

/-- The instruction an element or else a control element reads from a word. -/
def decodeElem (w v : Nat) : Option Instr :=
  match decodeWord false w (some v) with
  | .ok i => some i
  | .error _ =>
    match decodeWord true w (some v) with
    | .ok i => some i
    | .error _ => none

/-- A 32-bit number is a rule of a walk when its top four bits are a rule operation other than ldr and the word is a
rule; otherwise an element's or a control element's instruction; otherwise a rule. The two sets share their
numbers, and only where a word stands tells them apart (log entry 5). -/
def isRuleWord (w v : Nat) : Bool :=
  (w ≥ 2 ^ 28 || (decodeElem w v).isNone) && (decodeRule w).isSome

def decodeTableWord (nbits w : Nat) : Option Instr :=
  let w0 := w % 2 ^ 32
  let v := w % 2 ^ nbits / 2 ^ 32 % 2 ^ 32
  if isRuleWord w0 v then decodeRule w0 else decodeElem w0 v

/-! ## Encoding -/

def Src.code : Src → Nat
  | .d n => n | .inp n => 0x10 + n | .pk n => 0x14 + n | .zero => 0x1C | .ls n => 0x1D + n | .ones => 0x1F
def Dst.code : Dst → Nat
  | .d n => n | .out n => 0x18 + n | .ls n => 0x1D + n | .nul => 0x1F
def LaneType.code : LaneType → Nat
  | .i64x2 => 0x0 | .i32x4 => 0x1 | .i16x8 => 0x2 | .i8x16 => 0x3 | .n64x2 => 0x4 | .n32x4 => 0x5 | .n16x8 => 0x6
  | .n8x16 => 0x7 | .f64x2 => 0x8 | .f32x4 => 0x9 | .bf16x8 => 0xA | .f16x8 => 0xB | .s128 => 0xC
def Width.code : Width → Nat | .w128 => 0 | .w64 => 1 | .w32 => 2 | .w16 => 3
def LaneWidth.code : LaneWidth → Nat | .w64 => 0 | .w32 => 1 | .w16 => 2 | .w8 => 3
def ShiftWidth.code : ShiftWidth → Nat | .w64 => 0 | .w32 => 1 | .w16 => 2 | .w8 => 3
def Reuse.code : Reuse → Nat | .stream => 0 | .normal => 1 | .hot => 2 | .pin => 3
def Bump.code : Bump → Nat | .none => 0 | .inc => 1 | .dec => 2
def ScatterOp.code : ScatterOp → Nat | .st => 0 | .add => 1 | .fadd => 2
def CasWidth.code : CasWidth → Nat | .w64 => 0 | .w32 => 1 | .w128 => 2
def Reduce.code : Reduce → Nat | .all => 0 | .any => 1 | .lane0 => 2
def Scope.code : Scope → Nat | .lane => 0 | .core => 1 | .cluster => 2 | .module => 3 | .domain => 4 | .system => 5
def MxFmt.code : MxFmt → Nat | .mxint8 => 0 | .e5m2 => 1 | .e4m3 => 2 | .e3m2 => 3 | .e2m3 => 4 | .e2m1 => 5
def LitForm.code : LitForm → Nat | .zx => 0 | .sx => 1 | .rep32 => 2 | .rep64 => 3
def SplitTerm.code : SplitTerm → Nat | .hi => 0 | .mid => 1 | .lo => 2
def AtomOp.code : AtomOp → Nat
  | .addI64 => 0x0 | .addI32 => 0x1 | .andB64 => 0x2 | .orB64 => 0x3 | .xorB64 => 0x4 | .minI64 => 0x5
  | .maxI64 => 0x6 | .minN64 => 0x7 | .maxN64 => 0x8 | .xchgB64 => 0x9 | .xchgB128 => 0xA | .faddF32 => 0xB
  | .faddF64 => 0xC | .fmaxF32 => 0xD | .addI32x4 => 0xE
def convRmCode : Option Rounding → Nat
  | some .rne => 0 | some .rtz => 1 | some .rup => 2 | some .rdn => 3 | some .sr => 4 | none => 7
def RuleReg.code : RuleReg → Nat | .cur => 0 | .w0 => 1 | .w1 => 2 | .w2 => 3 | .w3 => 4 | .step => 5
def RuleCond.code : RuleCond → Nat | .al => 0 | .eq => 1 | .ne => 2 | .lt => 3 | .ge => 4 | .gt => 5 | .le => 6
def RuleSize.code : RuleSize → Nat | .b8 => 0 | .b4 => 1 | .b2 => 2 | .b16 => 3

/-- A body of format R or M. -/
def fR (opc dst opa opb lt : Nat) : Nat := opc * 2 ^ 19 + dst * 2 ^ 14 + opa * 2 ^ 9 + opb * 2 ^ 4 + lt
/-- A body of format I. -/
def fI (opc dst opa imm : Nat) : Nat := opc * 2 ^ 19 + dst * 2 ^ 14 + opa * 2 ^ 9 + imm
/-- A body of format K. -/
def fK (opc port opa len ctl : Nat) : Nat := opc * 2 ^ 19 + port * 2 ^ 14 + opa * 2 ^ 9 + len * 2 ^ 6 + ctl
/-- The code written into an unused operand field (R33). -/
def un : Nat := 0x1C

/-- A rule word from its fields (R218). -/
def fRule (op ra foff sz tgt imm : Nat) : Nat :=
  op * 2 ^ 28 + ra * 2 ^ 25 + foff * 2 ^ 18 + sz * 2 ^ 16 + tgt * 2 ^ 11 + imm

/-- Bits 25 to 0 of an element's or a control element's instruction, none for any other step. -/
def encodeOp (i : Instr) : Option Nat :=
  match i with
  | .nop => some 0
  | .mov d a => some (fR 0x01 d.code a.code un 0xC)
  | .movi d i => some (fI 0x02 d.code un i.toNat)
  | .lit f d _ => some (fR 0x03 d.code 0 0 f.code)
  | .fwd n a b => some (fR 0x04 (0x18 + n) a.code b.code 0xC)
  | .tagset d a t => some (fI 0x05 d.code a.code t.toNat)
  | .dup m a => some (fR 0x06 un a.code un m.toNat)
  | .drop a => some (fR 0x07 un a.code un 0xC)
  | .pset p v => some (fI 0x08 p un v.toNat)
  | .psetNz p a => some (fI 0x08 (8 + p) a.code 0)
  | .psetZ p a => some (fI 0x08 (16 + p) a.code 0)
  | .plog p a b t => some (fR 0x09 p a b t.toNat)
  | .sel d a b p n => some (fR 0x0A d.code a.code b.code (n.toNat * 8 + p))
  | .tagget d a => some (fR 0x0B d.code a.code un 0xC)
  | .done d a => some (fR 0x0C d.code a.code un 0xC)
  | .add t d a b => some (fR 0x10 d.code a.code b.code t.code)
  | .sub t d a b => some (fR 0x11 d.code a.code b.code t.code)
  | .addi d a i => some (fI 0x12 d.code a.code i.toNat)
  | .mul t d a b => some (fR 0x13 d.code a.code b.code t.code)
  | .mulh t d a b => some (fR 0x14 d.code a.code b.code t.code)
  | .mad t d a b => some (fR 0x15 d.code a.code b.code t.code)
  | .div t d a b => some (fR 0x16 d.code a.code b.code t.code)
  | .rem t d a b => some (fR 0x17 d.code a.code b.code t.code)
  | .and t d a b => some (fR 0x18 d.code a.code b.code t.code)
  | .or t d a b => some (fR 0x19 d.code a.code b.code t.code)
  | .xor t d a b => some (fR 0x1A d.code a.code b.code t.code)
  | .andn t d a b => some (fR 0x1B d.code a.code b.code t.code)
  | .shl t d a b => some (fR 0x1C d.code a.code b.code t.code)
  | .shr t d a b => some (fR 0x1D d.code a.code b.code t.code)
  | .sha t d a b => some (fR 0x1E d.code a.code b.code t.code)
  | .rot t d a b => some (fR 0x1F d.code a.code b.code t.code)
  | .shli d a w c => some (fI 0x20 d.code a.code (w.code * 128 + c.toNat))
  | .shri d a w c => some (fI 0x21 d.code a.code (w.code * 128 + c.toNat))
  | .min t d a b => some (fR 0x22 d.code a.code b.code t.code)
  | .max t d a b => some (fR 0x23 d.code a.code b.code t.code)
  | .abs t d a => some (fR 0x24 d.code a.code un t.code)
  | .neg t d a => some (fR 0x25 d.code a.code un t.code)
  | .clz t d a => some (fR 0x26 d.code a.code un t.code)
  | .popc t d a => some (fR 0x27 d.code a.code un t.code)
  | .cmpEq t m p a b => some (fR 0x28 (m.code * 8 + p) a.code b.code t.code)
  | .cmpLt t m p a b => some (fR 0x29 (m.code * 8 + p) a.code b.code t.code)
  | .cmpLe t m p a b => some (fR 0x2A (m.code * 8 + p) a.code b.code t.code)
  | .adds t d a b => some (fR 0x2B d.code a.code b.code t.code)
  | .subs t d a b => some (fR 0x2C d.code a.code b.code t.code)
  | .lea s d a b => some (fR 0x2D d.code a.code b.code s)
  | .dot4 s d a b => some (fR 0x2E d.code a.code b.code (if s then 3 else 7))
  | .bfx t d a b => some (fR 0x2F d.code a.code b.code t.code)
  | .shuf t d a b => some (fR 0x30 d.code a.code b.code t.code)
  | .bcast t d a b => some (fR 0x31 d.code a.code b.code t.code)
  | .ins t d a b => some (fR 0x32 d.code a.code b.code t.code)
  | .ext t d a b => some (fR 0x33 d.code a.code b.code t.code)
  | .rsum t d a => some (fR 0x34 d.code a.code un t.code)
  | .rmax t d a => some (fR 0x35 d.code a.code un t.code)
  | .rmin t d a => some (fR 0x36 d.code a.code un t.code)
  | .pack t d a b => some (fR 0x37 d.code a.code b.code t.code)
  | .unpkLo t d a => some (fR 0x38 d.code a.code un t.code)
  | .unpkHi t d a => some (fR 0x39 d.code a.code un t.code)
  | .vconf t d a => some (fR 0x3A d.code a.code un t.code)
  | .vcomb t d a b => some (fR 0x3B d.code a.code b.code t.code)
  | .pscan t d a b => some (fR 0x3C d.code a.code b.code t.code)
  | .lscan t d a b => some (fR 0x3D d.code a.code b.code t.code)
  | .mskidx t d a b => some (fR 0x3E d.code a.code b.code t.code)
  | .fadd t d a b => some (fR 0x40 d.code a.code b.code t.code)
  | .fsub t d a b => some (fR 0x41 d.code a.code b.code t.code)
  | .fmul t d a b => some (fR 0x42 d.code a.code b.code t.code)
  | .fma t d a b => some (fR 0x43 d.code a.code b.code t.code)
  | .fms t d a b => some (fR 0x44 d.code a.code b.code t.code)
  | .fnma t d a b => some (fR 0x45 d.code a.code b.code t.code)
  | .fmin t d a b => some (fR 0x46 d.code a.code b.code t.code)
  | .fmax t d a b => some (fR 0x47 d.code a.code b.code t.code)
  | .fabs t d a => some (fR 0x48 d.code a.code un t.code)
  | .fneg t d a => some (fR 0x49 d.code a.code un t.code)
  | .fcmpEq t m p a b => some (fR 0x4A (m.code * 8 + p) a.code b.code t.code)
  | .fcmpLt t m p a b => some (fR 0x4B (m.code * 8 + p) a.code b.code t.code)
  | .fcmpLe t m p a b => some (fR 0x4C (m.code * 8 + p) a.code b.code t.code)
  | .fcmpUn t m p a b => some (fR 0x4D (m.code * 8 + p) a.code b.code t.code)
  | .fdiv t d a b => some (fR 0x4E d.code a.code b.code t.code)
  | .fsqrt t d a => some (fR 0x4F d.code a.code un t.code)
  | .cvt r g rm d a => some (fR 0x50 d.code a.code (g * 8 + convRmCode rm) r)
  | .cvti r g rm d a => some (fR 0x51 d.code a.code (g * 8 + convRmCode rm) r)
  | .cvtf r g rm d a => some (fR 0x52 d.code a.code (g * 8 + convRmCode rm) r)
  | .split3 s d a b => some (fR 0x53 d.code a.code b.code s.code)
  | .fdot2 t d a b => some (fR 0x54 d.code a.code b.code t.code)
  | .qmxScale f d a => some (fR 0x55 d.code a.code un (8 + f.code))
  | .qmxEnc f d a b => some (fR 0x55 d.code a.code b.code f.code)
  | .dqmx f d a b => some (fR 0x56 d.code a.code b.code f.code)
  | .fclass t d a => some (fR 0x57 d.code a.code un t.code)
  | .frcp t d a => some (fR 0x58 d.code a.code un t.code)
  | .frsq t d a => some (fR 0x59 d.code a.code un t.code)
  | .fexp2 t d a => some (fR 0x5A d.code a.code un t.code)
  | .flog2 t d a => some (fR 0x5B d.code a.code un t.code)
  | .fsig t d a => some (fR 0x5C d.code a.code un t.code)
  | .ftanh t d a => some (fR 0x5D d.code a.code un t.code)
  | .fsin t d a => some (fR 0x5E d.code a.code un t.code)
  | .fcos t d a => some (fR 0x5F d.code a.code un t.code)
  | .lsld w m d n => some (fR 0x60 d.code n un (m.code * 4 + w.code))
  | .lsst w m n b => some (fR 0x61 un n b.code (m.code * 4 + w.code))
  | .lsldx w d n b => some (fR 0x62 d.code n b.code w.code)
  | .lsstx w k n b => some (fR 0x63 k n b.code w.code)
  | .aset n a i => some (fI 0x64 n a.code i.toNat)
  | .aadd n a i => some (fI 0x65 n a.code i.toNat)
  | .ldq w r d a b => some (fR 0x66 d.code a.code b.code (r.code * 4 + w.code))
  | .stq w al d a b => some (fR 0x67 d.code a.code b.code (al.toNat * 4 + w.code))
  | .stqp w al a b => some (fR 0x68 0x1F a.code b.code (al.toNat * 4 + w.code))
  | .ldqx w r d a b => some (fR 0x69 d.code a.code b.code (r.code * 4 + w.code))
  | .stqx w op k a b => some (fR 0x6A k a.code b.code (op.code * 4 + w.code))
  | .monarm w d a b => some (fR 0x6B d.code a.code b.code w.toNat)
  | .pref r a => some (fR 0x6C un a.code un r.code)
  | .atom op d a b => some (fR 0x70 d.code a.code b.code op.code)
  | .cas w d a b => some (fR 0x71 d a.code b.code w.code)
  | .barArr d a => some (fR 0x72 d.code a.code un 0)
  | .barArrN d a b => some (fR 0x72 d.code a.code b.code 1)
  | .barArrInit d a b => some (fR 0x72 d.code a.code b.code 2)
  | .barWaitFull d a b p => some (fR 0x73 d.code a.code b.code (p * 2))
  | .barWaitPar d a b => some (fR 0x73 d.code a.code b.code 1)
  | .tlWait k d a => some (fR 0x74 d.code a.code un k)
  | .tlSig k d a => some (fR 0x75 d.code a.code un k)
  | .cwait d n => some (fI 0x76 d.code un n.toNat)
  | .fence sc d => some (fI 0x77 d.code un sc.code)
  | .send p a n sg nb => some (fK 0x78 p a n (sg.toNat * 32 + match nb with | some k => 16 + k.val | none => 0))
  | .sendw p a n sg nb c => some (fK 0x79 p a n (sg.toNat * 32 + nb.toNat * 16 + c))
  | .cfgEng p a n c => some (fK 0x7A p a n c)
  | .cfgFab a n c => some (fK 0x7A 0 a n (16 + c))
  | .cfgPhase a n c => some (fK 0x7A 0 a n (32 + c))
  | .sbind p a n c => some (fK 0x7B p a n c)
  | .br o => some (0x7C * 2 ^ 19 + o.toNat)
  | .sysCall d a => some (fR 0x7D d a.code un 0x0)
  | .sysRet a => some (fR 0x7D un a.code un 0x1)
  | .sysTrap k => some (fR 0x7D un un k 0x2)
  | .sysEret => some (fR 0x7D un un un 0x3)
  | .sysSysrd d a => some (fR 0x7D d.code a.code un 0x4)
  | .sysSyswr a b => some (fR 0x7D un a.code b.code 0x5)
  | .sysSleep d a b => some (fR 0x7D d.code a.code b.code 0x6)
  | .sysScnext d p => some (fR 0x7D d p un 0x7)
  | .sysRewire d a => some (fR 0x7D d a.code un 0x8)
  | .sysLayoutv d a => some (fR 0x7D d.code a.code un 0x9)
  | .loop d i => some (fI 0x7E d un i.toNat)
  | _ => none

/-- A rule's word, none for any other step. -/
def encodeRule (i : Instr) : Option Nat :=
  match i with
  | .ldr n => some (fRule 0x0 0 0 0 0 n)
  | .ldf w o s => some (fRule 0x1 (1 + w) o s.code 0 0)
  | .cmpk o s => some (fRule 0x2 0 o s.code 0 0)
  | .cmpw w o s => some (fRule 0x3 (1 + w) o s.code 0 0)
  | .cmpi r i => some (fRule 0x4 r.code 0 0 0 i.toNat)
  | .ruleBr c t => some (fRule 0x5 c.code 0 0 t 0)
  | .hash w k sh m => some (fRule 0x6 (1 + w) 0 0 0 (m.toNat * 256 + sh * 32 + k))
  | .setc r i => some (fRule 0x7 r.code 0 0 0 i.toNat)
  | .wadd w i => some (fRule 0x8 (1 + w) 0 0 0 i.toNat)
  | .follow o => some (fRule 0x9 0 o 0 0 0)
  | .choose o => some (fRule 0xA 0 o 0 0 0)
  | .ret o b => some (fRule 0xB 0 o 0 0 b)
  | .retw => some (fRule 0xC 0 0 0 0 0)
  | .miss => some (fRule 0xD 0 0 0 0 0)
  | .fail c => some (fRule 0xE 0 0 0 0 c.toNat)
  | .idle => some (fRule 0xF 0 0 0 0 0)
  | _ => none

/-- The second word of a literal. -/
def encodeSecond : Instr → Option Nat
  | .lit _ _ v => some v.toNat
  | _ => none

/-- The words of an instruction under a TRG or GRD value, or of a rule. -/
def encode (trg : Nat) (i : Instr) : Option (Nat × Option Nat) :=
  match encodeOp i with
  | some w => some (trg * 2 ^ 26 + w, encodeSecond i)
  | none => (encodeRule i).map fun w => (w, none)

end Sys2Proof
end

