-- ==== Sys2Proof/Config.lean ====
section
/-! DEFINITION. What an implementation fixes and the manual does not: constants with no body, so that no claim
can rest on their values. -/

namespace Sys2Proof.Config

/-- FEATDEV of R432: which features the shipped device offers (the manual gives the register, not its value). -/
opaque featdev : BitVec 256

/-- Whether an ML-DSA-65 signature over a message verifies under a registered key (R81, R433); the algorithm is
named by the manual and defined elsewhere. -/
opaque mlDsaVerify (keyId msg sig : List Byte) : Bool

/-- The ciphertext byte at an offset of a 256 MiB unit (R414): what a non-secure reader of a secure unit receives
for the unit's stored 16-byte block. -/
opaque xtsByte (keyIx region offset : Nat) (block : List Byte) : Byte

/-- The plaintext byte at an offset of a 256 MiB unit (R414): what a secure reader receives for a 16-byte block that was stored before the
unit became its partition's. -/
opaque xtsPlain (keyIx region offset : Nat) (block : List Byte) : Byte

/-- The wrapped key that KEY_EXPORT hands to an attested peer root (R416). -/
opaque wrappedKey (keyIx : Nat) : List Byte

/-- The set of an L2 slice that a line address falls in, modulo the 2,048 sets: the manual gives the sets and not the
function that picks one. -/
opaque l2Set (line : Nat) : Nat

/-- A byte that a peer module answers to an engine's read: its module, its address there, and which read it is. What a
peer's memory holds is no part of this module. -/
opaque peerByte (mod pa reading : Nat) : Byte

/-- Where in its range an access of LPDDR6 falls (R439): the state of its DRAM bank, by line and cycle. -/
opaque dramState (line cycle : Nat) : Nat

/-- The cycles between a host port and the host's memory, one way (R439): the device does not bound them. -/
opaque hostCycles (port : Nat) : Nat

end Sys2Proof.Config
end

