-- ==== Sys2Proof/Machine/Num.lean ====
section
/-! DEFINITION. Numbers: exact values, the formats of R83 to R94, rounding (R95, R96), and the helpers of R103. -/

namespace Sys2Proof.Num

/-- Flags in the FPFLG layout (R17): 0 NX, 1 UF, 2 OF, 3 DZ, 4 NV, 5 SAT, 6 CFG (BNAN in the engines' words). -/
abbrev Flags := BitVec 7
def fNX : Flags := 1
def fUF : Flags := 2
def fOF : Flags := 4
def fDZ : Flags := 8
def fNV : Flags := 16
def fSAT : Flags := 32
def fBNAN : Flags := 64

/-- A value of R86: NaN (signalling or quiet), an infinity, or the exact (-1)^neg × num / den with den > 0.
A zero keeps its sign. -/
inductive Val where
  | nan (signalling : Bool)
  | inf (neg : Bool)
  | fin (neg : Bool) (num den : Nat)
deriving DecidableEq, Repr

/-- The floating-point formats of R84. -/
inductive Fp where
  | fp64 | fp32 | bf16 | fp16 | e5m2 | e4m3 | e3m2 | e2m3 | e2m1
deriving DecidableEq, Repr

/-- Fraction bits M(f) of R84. -/
def Fp.m : Fp → Nat
  | fp64 => 52 | fp32 => 23 | bf16 => 7 | fp16 => 10 | e5m2 => 2 | e4m3 => 3 | e3m2 => 2 | e2m3 => 3 | e2m1 => 1

/-- Exponent field width of R84. -/
def Fp.eb : Fp → Nat
  | fp64 => 11 | fp32 => 8 | bf16 => 8 | fp16 => 5 | e5m2 => 5 | e4m3 => 4 | e3m2 => 3 | e2m3 => 2 | e2m1 => 2

/-- Exponent bias of R84. -/
def Fp.bias : Fp → Nat
  | fp64 => 1023 | fp32 => 127 | bf16 => 127 | fp16 => 15 | e5m2 => 15 | e4m3 => 7 | e3m2 => 3 | e2m3 => 1 | e2m1 => 1

/-- Bits of one element of the format. -/
def Fp.bits (f : Fp) : Nat := 1 + f.eb + f.m

/-- Formats with infinities (R84). -/
def Fp.hasInf : Fp → Bool
  | fp64 | fp32 | bf16 | fp16 | e5m2 => true
  | _ => false

/-- Formats with a NaN (R84). -/
def Fp.hasNaN : Fp → Bool
  | fp64 | fp32 | bf16 | fp16 | e5m2 | e4m3 => true
  | _ => false

/-- Emin(f): the exponent of the smallest normal. -/
def Fp.emin (f : Fp) : Int := 1 - f.bias

/-- The exponent of the largest finite number. -/
def Fp.emax (f : Fp) : Int :=
  if f.hasInf then (2 ^ f.eb : Nat) - 2 - f.bias else (2 ^ f.eb : Nat) - 1 - f.bias

/-- The significand, in units of the last fraction bit, of the largest finite number. -/
def Fp.nmax (f : Fp) : Nat := if f = .e4m3 then 14 else 2 ^ (f.m + 1) - 1

/-- The canonical quiet NaN of R85. -/
def canonNaN (f : Fp) : Nat :=
  match f with
  | .e4m3 => 0x7F
  | _ => (2 ^ f.eb - 1) * 2 ^ f.m + 2 ^ (f.m - 1)

def signBit (f : Fp) (neg : Bool) : Nat := if neg then 2 ^ (f.bits - 1) else 0
def zeroBits (f : Fp) (neg : Bool) : Nat := signBit f neg
def infBits (f : Fp) (neg : Bool) : Nat := signBit f neg + (2 ^ f.eb - 1) * 2 ^ f.m
def maxBits (f : Fp) (neg : Bool) : Nat :=
  signBit f neg + (f.emax + f.bias).toNat * 2 ^ f.m + (f.nmax - 2 ^ f.m)

/-- num × 2^k over den × 1, for any integer k. -/
def scale (num den : Nat) (k : Int) : Nat × Nat :=
  if k < 0 then (num, den * 2 ^ (-k).toNat) else (num * 2 ^ k.toNat, den)

/-- Exponent(v) = floor(log2 (num/den)) for num > 0. -/
def expo (num den : Nat) : Int :=
  let l : Int := (Nat.log2 num : Int) - Nat.log2 den
  let (a, b) := scale num den (-l)
  if a ≥ b then l else l - 1

/-- Decode(f, bits) of R84 and R85. -/
def decode (f : Fp) (bits : Nat) : Val :=
  let fr := bits % 2 ^ f.m
  let e := bits / 2 ^ f.m % 2 ^ f.eb
  let s := bits / 2 ^ (f.bits - 1) % 2 = 1
  let emax1 := 2 ^ f.eb - 1
  if e = emax1 ∧ f.hasInf = true then
    if fr = 0 then .inf s
    else .nan (fr < 2 ^ (f.m - 1) ∧ f ≠ .e5m2)
  else if e = emax1 ∧ f = .e4m3 ∧ fr = 7 then .nan false
  else
    let n := if e = 0 then fr else fr + 2 ^ f.m
    let ex : Int := (if e = 0 then 1 else (e : Int)) - f.bias - f.m
    let (a, b) := scale n 1 ex
    .fin s a b

/-- RoundInt of R95: num/den rounded to an integer under rm, neg the sign of the value, d the draw. -/
def roundInt (num den : Nat) (rm : Rounding) (neg : Bool) (d : Nat) : Nat :=
  let i := num / den
  let r := num % den
  let up : Bool := match rm with
    | .rne => 2 * r > den || (2 * r = den && i % 2 = 1)
    | .rtz => false
    | .rup => r > 0 && !neg
    | .rdn => r > 0 && neg
    | .sr => r * 2 ^ 32 / den + d ≥ 2 ^ 32
  if up then i + 1 else i

/-- ToInf(rm, s) of R86. -/
def toInf (rm : Rounding) (neg : Bool) : Bool :=
  match rm with
  | .rne | .sr => true
  | .rtz => false
  | .rup => !neg
  | .rdn => neg

/-- Tiny(f, v, rm) of R86: below the smallest normal after rounding with an unbounded exponent. -/
def tiny (f : Fp) (num den : Nat) (rm : Rounding) (neg : Bool) : Bool :=
  let ex := expo num den
  if ex ≥ f.emin then false
  else if ex < f.emin - 1 then true
  else
    let (a, b) := scale num den (f.m - ex)
    roundInt a b (if rm = .sr then .rne else rm) neg 0 < 2 ^ (f.m + 1)

/-- Encode(f, v, rm) of R86 with the draw d (0 when rm is not SR). -/
def encode (f : Fp) (rm : Rounding) (v : Val) (d : Nat) : Nat × Flags :=
  match v with
  | .nan _ => if f.hasNaN then (canonNaN f, 0) else (zeroBits f false, fNV)
  | .inf s => if f.hasInf then (infBits f s, 0) else (maxBits f s, fNV)
  | .fin s num den =>
    if num = 0 then (zeroBits f s, 0)
    else
      let e0 := max (expo num den) f.emin
      let (a, b) := scale num den (f.m - e0)
      let n0 := roundInt a b rm s d
      let inexact : Bool := n0 * b ≠ a
      let (n, e) := if n0 = 2 ^ (f.m + 1) then (2 ^ f.m, e0 + 1) else (n0, e0)
      if e > f.emax ∨ (e = f.emax ∧ n > f.nmax) then
        (if f.hasInf && toInf rm s then infBits f s else maxBits f s, fOF ||| fNX)
      else
        let flags : Flags := if inexact then (if tiny f num den rm s then fNX ||| fUF else fNX) else 0
        let bits := if n < 2 ^ f.m then n else (e + f.bias).toNat * 2 ^ f.m + (n - 2 ^ f.m)
        (signBit f s + bits, flags)

/-- One step of the xorshift32 generator, SRDraw of R96. -/
def srDraw (x : BitVec 32) : BitVec 32 :=
  let x := x ^^^ (x <<< 13)
  let x := x ^^^ (x >>> 17)
  x ^^^ (x <<< 5)

/-- The running flags and generator of one operation. -/
structure Env where
  flags : Flags := 0
  sr : BitVec 32 := 1
deriving DecidableEq, Repr

def Env.raise (e : Env) (f : Flags) : Env := { e with flags := e.flags ||| f }

/-- The draw of one rounding: a step of the generator under SR, 0 otherwise (R86, R97). -/
def Env.draw (e : Env) (rm : Rounding) : Nat × Env :=
  if rm = .sr then
    let x := srDraw e.sr
    (x.toNat, { e with sr := x })
  else (0, e)

/-- Encode with its draw taken from the environment's generator. -/
def enc (f : Fp) (rm : Rounding) (v : Val) (e : Env) : Nat × Env :=
  let (d, e) := e.draw rm
  let (b, fl) := encode f rm v d
  (b, e.raise fl)

/-- Whether a value is a NaN, and the NV a signalling operand raises (R85). -/
def Val.isNaN : Val → Bool
  | .nan _ => true
  | _ => false
def Val.isInf : Val → Bool
  | .inf _ => true
  | _ => false
def Val.neg? : Val → Bool
  | .nan _ => false
  | .inf s => s
  | .fin s _ _ => s
def Val.isZero : Val → Bool
  | .fin _ 0 _ => true
  | _ => false
def sigNV (vs : List Val) : Flags := if vs.any (fun v => v = .nan true) then fNV else 0

def Val.negate : Val → Val
  | .nan s => .nan s
  | .inf s => .inf (!s)
  | .fin s n d => .fin (!s) n d

/-- An exact signed fraction as a value; zero takes the given sign. -/
def ofInt (n : Int) (den : Nat) (zneg : Bool) : Val :=
  if n = 0 then .fin zneg 0 1 else .fin (n < 0) n.natAbs den

def sgn (s : Bool) (n : Nat) : Int := if s then -(n : Int) else n

/-- The sum of two exact fractions over a common denominator. -/
def addFin (s1 : Bool) (n1 d1 : Nat) (s2 : Bool) (n2 d2 : Nat) (rm : Rounding) : Val :=
  let g := Nat.gcd d1 d2
  let n := sgn s1 (n1 * (d2 / g)) + sgn s2 (n2 * (d1 / g))
  let z := if n1 = 0 ∧ n2 = 0 ∧ s1 = s2 then s1 else rm = .rdn
  ofInt n (d1 * (d2 / g)) z

/-- a + b before rounding, with the specials of R130. -/
def add (a b : Val) (rm : Rounding) : Val × Flags :=
  match a, b with
  | .nan _, _ | _, .nan _ => (.nan false, sigNV [a, b])
  | .inf s, .inf t => if s = t then (.inf s, 0) else (.nan false, fNV)
  | .inf s, _ | _, .inf s => (.inf s, 0)
  | .fin s1 n1 d1, .fin s2 n2 d2 => (addFin s1 n1 d1 s2 n2 d2 rm, 0)

/-- a × b before rounding. -/
def mul (a b : Val) : Val × Flags :=
  match a, b with
  | .nan _, _ | _, .nan _ => (.nan false, sigNV [a, b])
  | .inf s, .inf t => (.inf (s != t), 0)
  | .inf s, .fin t n _ | .fin t n _, .inf s => if n = 0 then (.nan false, fNV) else (.inf (s != t), 0)
  | .fin s1 n1 d1, .fin s2 n2 d2 => (.fin (s1 != s2) (n1 * n2) (d1 * d2), 0)

/-- a × b + c before rounding: an infinity times a zero is invalid even beside a quiet NaN (R130). -/
def fma (a b c : Val) (rm : Rounding) : Val × Flags :=
  let (p, f) := mul a b
  if f = fNV ∧ !(a.isNaN || b.isNaN) then (.nan false, fNV)
  else
    let (r, g) := add p c rm
    (r, f ||| g ||| sigNV [c])

/-- a / b before rounding. -/
def div (a b : Val) : Val × Flags :=
  match a, b with
  | .nan _, _ | _, .nan _ => (.nan false, sigNV [a, b])
  | .inf _, .inf _ => (.nan false, fNV)
  | .inf s, .fin t _ _ => (.inf (s != t), 0)
  | .fin s _ _, .inf t => (.fin (s != t) 0 1, 0)
  | .fin s1 n1 d1, .fin s2 n2 d2 =>
    if n2 = 0 then (if n1 = 0 then (.nan false, fNV) else (.inf (s1 != s2), fDZ))
    else (.fin (s1 != s2) (n1 * d2) (d1 * n2), 0)

/-- Integer square root by bisection on the bits of the root, highest first. -/
def isqrtGo (n : Nat) : Nat → Nat → Nat
  | 0, r => r
  | k + 1, r => if (r + 2 ^ k) * (r + 2 ^ k) ≤ n then isqrtGo n k (r + 2 ^ k) else isqrtGo n k r
def isqrt (n : Nat) : Nat := isqrtGo n (Nat.log2 n / 2 + 1) 0

/-- √a before rounding. An irrational root is given as a fraction that lies strictly between the same two
multiples of 2^(-k) as the root, with k far below every rounding boundary, so every rounding of it is the root's. -/
def sqrt (a : Val) : Val × Flags :=
  match a with
  | .nan s => (.nan false, if s then fNV else 0)
  | .inf s => if s then (.nan false, fNV) else (.inf false, 0)
  | .fin s n d =>
    if n = 0 then (.fin s 0 1, 0)
    else if s then (.nan false, fNV)
    else
      let k : Nat := 160 + Nat.log2 d + Nat.log2 n
      let m := n * 2 ^ (2 * k) / d
      let r := isqrt m
      if r * r * d = n * 2 ^ (2 * k) then (.fin false r (2 ^ k), 0)
      else (.fin false (2 * r + 1) (2 ^ (k + 1)), 0)

/-- a < b over the finite values, infinities included; false when either is a NaN. -/
def lt (a b : Val) : Bool :=
  match a, b with
  | .nan _, _ | _, .nan _ => false
  | .inf s, .inf t => s && !t
  | .inf s, .fin _ _ _ => s
  | .fin _ _ _, .inf t => !t
  | .fin s1 n1 d1, .fin s2 n2 d2 => sgn s1 (n1 * d2) < sgn s2 (n2 * d1)

/-- a = b as numbers: +0 equals -0; false when either is a NaN. -/
def eq (a b : Val) : Bool :=
  match a, b with
  | .nan _, _ | _, .nan _ => false
  | .inf s, .inf t => s == t
  | .fin s1 n1 d1, .fin s2 n2 d2 => sgn s1 (n1 * d2) = sgn s2 (n2 * d1)
  | _, _ => false

/-- a orders at or below b with -0 below +0 (R121, R131). -/
def totalLe (a b : Val) : Bool :=
  if a.isZero && b.isZero then a.neg? || !b.neg? else lt a b || eq a b

/-- IEEE minimum and maximum of R131: a NaN operand gives NaN. -/
def fmin (a b : Val) : Val × Flags :=
  if a.isNaN || b.isNaN then (.nan false, sigNV [a, b]) else (if totalLe a b then a else b, 0)
def fmax (a b : Val) : Val × Flags :=
  if a.isNaN || b.isNaN then (.nan false, sigNV [a, b]) else (if totalLe a b then b else a, 0)

/-- SatInt of R88. -/
def satInt (k : Int) (n : Nat) (sg : Bool) : Int × Flags :=
  let lo : Int := if sg then -(2 ^ (n - 1) : Nat) else 0
  let hi : Int := if sg then (2 ^ (n - 1) : Nat) - 1 else (2 ^ n : Nat) - 1
  if k < lo then (lo, fSAT) else if k > hi then (hi, fSAT) else (k, 0)

/-- FloatToInt of R88. -/
def floatToInt (v : Val) (n : Nat) (sg : Bool) (rm : Rounding) (d : Nat) : Int × Flags :=
  let lo : Int := if sg then -(2 ^ (n - 1) : Nat) else 0
  let hi : Int := if sg then (2 ^ (n - 1) : Nat) - 1 else (2 ^ n : Nat) - 1
  match v with
  | .nan _ => (0, fNV)
  | .inf s => (if s then lo else hi, fNV)
  | .fin s num den =>
    let q := roundInt num den rm s d
    let k := sgn s q
    if k < lo then (lo, fNV) else if k > hi then (hi, fNV)
    else (k, if q * den = num then 0 else fNX)

/-- An integer as a value; zero is +0 (R138). -/
def valInt (k : Int) : Val := .fin (k < 0) k.natAbs 1

/-- v × 2^k, exact. -/
def Val.scale2 (v : Val) (k : Int) : Val :=
  match v with
  | .fin s n d => let (a, b) := scale n d k; .fin s a b
  | v => v

/-- The two's complement number in the low n bits of x. -/
def toSigned (x n : Nat) : Int :=
  let y := x % 2 ^ n
  if y ≥ 2 ^ (n - 1) then (y : Int) - (2 ^ n : Nat) else y

/-- The low n bits of an integer. -/
def wrap (k : Int) (n : Nat) : Nat := (k % (2 ^ n : Nat)).toNat

/-! ## MX blocks (R89, R90) -/

/-- The element format of an MX kind; MXINT8 is none of the floating formats. -/
def mxFp : MxFmt → Option Fp
  | .mxint8 => none | .e5m2 => some .e5m2 | .e4m3 => some .e4m3
  | .e3m2 => some .e3m2 | .e2m3 => some .e2m3 | .e2m1 => some .e2m1

/-- EmaxElem(f) of R90. -/
def emaxElem : MxFmt → Int
  | .mxint8 => 0 | .e5m2 => 15 | .e4m3 => 8 | .e3m2 => 4 | .e2m3 => 2 | .e2m1 => 2

/-- Element width in bits. -/
def mxBits : MxFmt → Nat
  | .mxint8 | .e5m2 | .e4m3 => 8
  | .e3m2 | .e2m3 => 6
  | .e2m1 => 4

/-- MXDecode(f, X, e) of R89. -/
def mxDecode (f : MxFmt) (x e : Nat) : Val :=
  if x = 0xFF then .nan false
  else match mxFp f with
    | none =>
      let k := toSigned e 8
      (Val.fin (k < 0) k.natAbs 64).scale2 ((x : Int) - 127)
    | some g => (decode g (e % 2 ^ mxBits f)).scale2 ((x : Int) - 127)

/-- The MXINT8 element of R90 for a finite y, with its draw. -/
def mxInt8Elem (y : Val) (rm : Rounding) (e : Env) : Nat × Env :=
  let (d, e) := e.draw rm
  match y with
  | .fin s num den =>
    let n0 := roundInt (num * 64) den rm s d
    let e := if n0 * den = num * 64 then e else e.raise fNX
    let (n, e) := if n0 > 127 then (127, e.raise fNX) else (n0, e)
    let e := if num ≥ 2 * den then e.raise fOF else e
    (if s ∧ n > 0 then 256 - n else n, e)
  | _ => (0, e)

/-- One MX element of y = x / 2^X. -/
def mxElem (f : MxFmt) (y : Val) (rm : Rounding) (e : Env) : Nat × Env :=
  match mxFp f with
  | none => mxInt8Elem y rm e
  | some g => enc g rm y e

/-- Elements of a list encoded in order, the environment threaded through. -/
def mapEnv {α : Type} (f : α → Env → Nat × Env) : List α → Env → List Nat × Env
  | [], e => ([], e)
  | x :: xs, e =>
    let (y, e) := f x e
    let (ys, e) := mapEnv f xs e
    (y :: ys, e)

def clampI (x lo hi : Int) : Int := max lo (min x hi)

/-- The larger magnitude of two finite values, as a fraction. -/
def maxMag (m : Nat × Nat) (v : Val) : Nat × Nat :=
  match v with
  | .fin _ n d => if n * m.2 > m.1 * d then (n, d) else m
  | _ => m

/-- MXEncodeBlock of R90: the scale code and the elements. -/
def mxEncodeBlock (f : MxFmt) (xs : List Val) (rm : Rounding) (e : Env) : Nat × List Nat × Env :=
  if xs.any (fun v => v.isNaN || v.isInf) then (0xFF, xs.map fun _ => 0, e.raise fNV)
  else
    let (n, d) := xs.foldl maxMag (0, 1)
    if n = 0 then (0, xs.map fun _ => 0, e)
    else
      let x := clampI (expo n d - emaxElem f) (-127) 127
      let (es, e) := mapEnv (fun v => mxElem f (v.scale2 (-x)) rm) xs e
      ((x + 127).toNat, es, e)

/-! ## DX blocks (R91 to R94) -/

/-- The DX formats. -/
inductive Dx where
  | dx8 | dx6 | dx4
deriving DecidableEq, Repr

def Dx.bits : Dx → Nat
  | dx8 => 8 | dx6 => 6 | dx4 => 4
/-- Fraction bits m of R91. -/
def Dx.m : Dx → Nat
  | dx8 => 5 | dx6 => 3 | dx4 => 1

/-- One element of DXDecodeBlock (R93). -/
def dxDecode (f : Dx) (ea eb e : Nat) : Val :=
  if ea = 0xFF ∨ eb = 0xFF then .nan false
  else
    let n := e % 2 ^ (f.m + 1)
    let sg := e / 2 ^ (f.m + 1) % 2 = 1
    let sel := e / 2 ^ (f.m + 2) % 2
    let ex : Int := (if sel = 0 then (ea : Int) else eb) - 127
    if n = 0 then .fin false 0 1 else (Val.fin sg n (2 ^ f.m)).scale2 ex

/-- c(v) of R94. -/
def dxC (v : Val) : Option Int :=
  match v with
  | .fin _ n d => if n = 0 then none else some (expo n d + 127)
  | _ => none

/-- One element of DXEncodeBlock under EA and EB. -/
def dxElem (f : Dx) (ea eb : Int) (rm : Rounding) (v : Val) (e : Env) : Nat × Env :=
  match v, dxC v with
  | .fin s n d, some c =>
    let sel : Nat := if c ≥ ea - 3 then 0 else 1
    let ex := if sel = 0 then ea else eb
    let (dr, e) := e.draw rm
    let (a, b) := scale n d (127 - ex + f.m)
    let k0 := roundInt a b rm s dr
    let e := if k0 * b = a then e else e.raise fNX
    let (k, e) := if k0 > 2 ^ (f.m + 1) - 1 then (2 ^ (f.m + 1) - 1, e.raise fNX) else (k0, e)
    (if k = 0 then 0 else sel * 2 ^ (f.m + 2) + (if s then 2 ^ (f.m + 1) else 0) + k, e)
  | _, _ => (0, e)

/-- DXEncodeBlock of R94: EA, EB and the elements. -/
def dxEncodeBlock (f : Dx) (xs : List Val) (rm : Rounding) (e : Env) : Nat × Nat × List Nat × Env :=
  if xs.any (fun v => v.isNaN || v.isInf) then (0xFF, 0xFF, xs.map fun _ => 0, e.raise fNV)
  else
    let cs := xs.filterMap dxC
    match cs with
    | [] => (0, 0, xs.map fun _ => 0, e)
    | c :: cs' =>
      let top := cs'.foldl max c
      let e := if top > 254 then e.raise fOF else e
      let ea := clampI top 0 254
      let low := cs.filter (· ≤ ea - 4)
      let eb := clampI (match low with | [] => ea - 4 | l :: ls => ls.foldl max l) 0 254
      let (es, e) := mapEnv (dxElem f ea eb rm) xs e
      (ea.toNat, eb.toNat, es, e)

/-! ## Sums and splits (R99 to R102) -/

/-- A value rounded into f and read back, as BlockStep does at each rounding. -/
def roundVal (f : Fp) (v : Val) (e : Env) : Val × Env :=
  let (b, fl) := encode f .rne v 0
  (decode f b, e.raise fl)

/-- IEEE addition in FP32 under RNE. -/
def addFp32 (a b : Val) (e : Env) : Val × Env :=
  let (v, f) := add a b .rne
  roundVal .fp32 v (e.raise f)

/-- Exact sum of finite values; +0 when it is zero. -/
def exactSum : List Val → Val
  | [] => .fin false 0 1
  | v :: vs =>
    match v, exactSum vs with
    | .fin s1 n1 d1, .fin s2 n2 d2 =>
      let r := addFin s1 n1 d1 s2 n2 d2 .rne
      if r.isZero then .fin false 0 1 else r
    | v, _ => v

/-- One block of BlockStep (R99): the exact products are summed, rounded once, and added into acc. -/
def blockStep (acc : Val) (products : List Val) (e : Env) : Val × Env :=
  if products.any (·.isNaN) ∨ (products.any (· = .inf true) ∧ products.any (· = .inf false)) then
    addFp32 acc (.nan false) (e.raise fNV)
  else match products.find? (·.isInf) with
    | some v => addFp32 acc v e
    | none =>
      let (s, e) := roundVal .fp32 (exactSum products) e
      addFp32 acc s e

/-- A product of R99: a NaN operand, or a zero times an infinity, gives NaN and raises NV. -/
def blockProduct (a b : Val) : Val := (mul a b).1

/-- Split3 of R101: hi, mid and lo as BF16 values. -/
def split3 (a : Val) : Val × Val × Val :=
  match a with
  | .fin s n d =>
    if n = 0 then (a, .fin false 0 1, .fin false 0 1)
    else
      let t (v : Val) : Val := decode .bf16 (encode .bf16 .rtz v 0).1
      let hi := t (.fin s n d)
      let r1 := (add (.fin s n d) hi.negate .rne).1
      let mid := t r1
      let lo := t (add r1 mid.negate .rne).1
      (hi, mid, lo)
  | v => (decode .bf16 (encode .bf16 .rne v 0).1, .fin false 0 1, .fin false 0 1)

/-- The products that one K index adds to a block in the split FP32 forms (R102). -/
def splitProducts (a b : Val) : List Val :=
  if a.isNaN || b.isNaN || a.isInf || b.isInf then [(mul a b).1]
  else
    let (a0, a1, a2) := split3 a
    let (b0, b1, b2) := split3 b
    let p (x y : Val) : Val := (mul x y).1
    [p a2 b0, p a1 b1, p a0 b2, p a1 b0, p a0 b1, p a0 b0]

/-- The FP64 step of R100: one fused multiply-add under RNE. -/
def fp64Step (acc a b : Val) (e : Env) : Val × Env :=
  let (v, f) := fma a b acc .rne
  roundVal .fp64 v (e.raise f)

/-! ## Storage formats (R83) -/

/-- The 5-bit format codes that name a format. -/
inductive Fmt where
  | fp (f : Fp) | mxint8 | dx (d : Dx) | int8 | int16 | int32 | e8m0
deriving DecidableEq, Repr

/-- A format code's format; none for the reserved codes 0x11 to 0x1F. -/
def fmtOf (c : Nat) : Option Fmt :=
  match c with
  | 0x00 => some (.fp .fp64) | 0x01 => some (.fp .fp32) | 0x02 => some (.fp .bf16) | 0x03 => some (.fp .fp16)
  | 0x04 => some (.fp .e5m2) | 0x05 => some (.fp .e4m3) | 0x06 => some (.fp .e3m2) | 0x07 => some (.fp .e2m3)
  | 0x08 => some (.fp .e2m1) | 0x09 => some .mxint8 | 0x0A => some (.dx .dx8) | 0x0B => some (.dx .dx6)
  | 0x0C => some (.dx .dx4) | 0x0D => some .int8 | 0x0E => some .int16 | 0x0F => some .int32 | 0x10 => some .e8m0
  | _ => none

/-- Bits per element of a format (R83). -/
def Fmt.bits : Fmt → Nat
  | .fp f => f.bits | .mxint8 => 8 | .dx d => d.bits | .int8 => 8 | .int16 => 16 | .int32 => 32 | .e8m0 => 8

/-- Whether a format is an integer. -/
def Fmt.isInt : Fmt → Bool
  | .int8 | .int16 | .int32 => true
  | _ => false

/-- The MX element kind of a format (R89). -/
def Fmt.mx : Fmt → Option MxFmt
  | .fp .e5m2 => some .e5m2 | .fp .e4m3 => some .e4m3 | .fp .e3m2 => some .e3m2
  | .fp .e2m3 => some .e2m3 | .fp .e2m1 => some .e2m1 | .mxint8 => some .mxint8
  | _ => none

/-- The value of a plain element (R84, R87, R88). -/
def Fmt.value (f : Fmt) (bits : Nat) : Val :=
  match f with
  | .fp g => decode g bits
  | .int8 => valInt (toSigned bits 8)
  | .int16 => valInt (toSigned bits 16)
  | .int32 => valInt (toSigned bits 32)
  | .e8m0 => if bits = 0xFF then .nan false else (Val.fin false 1 1).scale2 ((bits : Int) - 127)
  | .mxint8 => valInt (toSigned bits 8)
  | .dx d => dxDecode d 127 127 bits

end Sys2Proof.Num
end

