-- ==== Sys2Proof/Machine/State.lean ====
section
/-! DEFINITION. The state of one KX9 module, as plain data: everything the manual gives it. -/

namespace Sys2Proof.Machine

open Sys2Proof

/-- The entry under a key of a keyed list, or the default of its kind. -/
def tget {α : Type} (d : α) : Tbl α → Nat → α
  | [], _ => d
  | (k, v) :: t, i => if k = i then v else tget d t i

/-- Sets the entry under a key, keeping the keys strictly rising. -/
def tput {α : Type} : Tbl α → Nat → α → Tbl α
  | [], i, x => [(i, x)]
  | (k, v) :: t, i, x => if i < k then (i, x) :: (k, v) :: t else if i = k then (i, x) :: t else (k, v) :: tput t i x

/-- Removes the entry under a key. -/
def tdel {α : Type} (t : Tbl α) (i : Nat) : Tbl α := t.filter fun e => e.1 ≠ i

/-- The entry under a key, if it is listed. -/
def tfind {α : Type} : Tbl α → Nat → Option α
  | [], _ => none
  | (k, v) :: t, i => if k = i then some v else tfind t i

/-- A token of R11. -/
structure Token where
  payload : Quad := 0
  tag : BitVec 3 := 0
deriving DecidableEq, Repr, Inhabited

/-- A token in an input channel, visible to triggers from a cycle on (R12). -/
structure Arrived where
  tok : Token
  seen : Nat
deriving DecidableEq, Repr

/-- A token in an overflow ring (R169): the timestamp it carries (R312), and the cycle in which it has reached the ring. -/
structure Spilled where
  tok : Token
  ts : Stamp := 0
  at_ : Nat := 0
deriving DecidableEq, Repr, Inhabited

/-- An input channel: the head first, the first `reserved` tokens taken by instructions in flight (R13); the
positions freed in the last cycle that freed any (R12); the overflow ring of R169; the tokens consumed so far. -/
structure InChan where
  q : List Arrived := []
  reserved : Nat := 0
  freedAt : Nat := 0
  freedN : Nat := 0
  ring : List Spilled := []
  taken : Nat := 0
deriving DecidableEq, Repr, Inhabited

/-- One position of an output channel: its place in firing order and, once visible, its token with the cycle from
which it may leave and the timestamp it carries (R14, R312). -/
structure OutPos where
  ticket : Nat
  tok : Option Token
  since : Nat := 0
  ts : Stamp := 0
deriving DecidableEq, Repr

/-- An output channel: its positions in firing order, those freed in the last cycle that freed any (R12), and the tokens
that have left. -/
structure OutChan where
  q : List OutPos := []
  freedAt : Nat := 0
  freedN : Nat := 0
  left : Nat := 0
deriving DecidableEq, Repr, Inhabited

/-- The output channel an instruction's reply or result is written to, or the register (R148). -/
inductive Sink where
  | d (n : Fin 16)
  | out (ch : Fin 4) (ticket : Nat) (tag : BitVec 3)
  | pair (n : Fin 15)
  | lane (off : Nat)
  /-- A completion word of R23 for a command's register (R168). -/
  | word (n : Option (Fin 16))
  /-- The read of a rewire request; its completion word goes to a register (R367). -/
  | request (n : Fin 16)
  /-- A read of an engine (R194, R199). -/
  | engine
  | nul
deriving DecidableEq, Repr

/-- What a memory request does at its home (R157 to R161). -/
inductive MemOp where
  | load
  | store
  | add (w : LaneWidth)
  | fadd (w : LaneWidth)
  | atom (op : AtomOp)
  | cas
  | monitor
  | prefetch
deriving DecidableEq, Repr

/-- What an element asks of its ports at acceptance: an operation on the words at virtual addresses (R147). -/
structure MemSpec where
  op : MemOp
  posted : Bool := false
  reuse : Reuse := .normal
  noalloc : Bool := false
  /-- The accesses: lane, virtual address, bytes, operand, compare value. -/
  words : List (Nat × Nat × Nat × Quad × Quad)
  lanes : Nat := 1
  laneBits : Nat := 128
  sink : Sink
  cursor : Bool := false
deriving DecidableEq, Repr

/-- A wait and what completes it (R163 to R166, R168). -/
inductive WaitKind where
  | barFull (bar : Nat) (ph : BitVec 16) (late : Bool)
  | barPar (bar : Nat) (ph p0 : BitVec 16)
  | timeline (k : Fin 16) (v : Dword)
  | count (n : Nat)
  | fence (sc : Scope) (updates : List (Nat × Nat)) (done : Nat) (last : Quad) (lost : Bool)
  | arrive (bar : Nat) (n : Nat) (updates : List (Nat × Nat))
  | signal (k : Fin 16) (n : Dword) (updates : List (Nat × Nat))
deriving DecidableEq, Repr

/-- A register of R179 as sysrd and syswr name it. -/
inductive SysOp where
  | write (n : BitVec 16) (v : Dword)
  | eret
deriving DecidableEq, Repr

/-- Where an access is performed (R154, R288). -/
inductive Home where
  | slice (n : Nat)
  | cpad (core : Nat)
  | clus (cluster bank : Nat)
  | mpad (bank : Nat)
  | remote (mod : Nat)
  | host (port : Nat)
deriving DecidableEq, Repr

/-- A line of physical memory that a firing has translated: its home, its address, the peer's incarnation, and the port and window that
translated it (R215, R407). -/
structure Place where
  home : Home := .slice 0
  pa : Nat := 0
  inc : Nat := 0
  win : Option (Nat × Nat) := none
deriving DecidableEq, Repr

/-- A command as a queue holds it: the packet, its class and its completion register (R44). -/
structure Cmd where
  unit : Nat
  slot : Nat
  packet : List Quad
  sig : Bool
  creg : Option (Fin 16)
  conf : Bool := false
  tlNum : Dword := 0
  seen : Bool := false
  edge : Bool := false
  pts : Stamp := 0
  /-- Earlier updates of its issuer that it waits for (R149, R168). -/
  updates : List (Nat × Nat) := []
  /-- What the firing found for a walk's program and reply lines (R215). -/
  pas : List Place := []
  /-- The static fault of a token or command of an edge port (R205, R232). -/
  bad : Option Cause := none
  /-- The cycle in which it joined its queue. -/
  joined : Nat := 0
deriving DecidableEq, Repr, Inhabited

/-- What an instruction in flight does when it becomes visible (R19). -/
inductive Act where
  | d (n : Fin 16) (v : Quad)
  | a (n : Fin 4) (v : Word)
  | p (mask vals : BitVec 8)
  | lane (addr : Nat) (bytes : List Byte)
  | out (ch : Fin 4) (ticket : Nat) (t : Token)
  | mem (m : MemSpec)
  | wait (w : WaitKind) (sink : Sink)
  | initBar (bar : Nat) (e : Nat) (sink : Sink)
  | command (port : Nat) (c : Cmd)
  | jump (pc : Nat)
  | sys (o : SysOp)
  | sysread (n : BitVec 16) (sink : Sink)
  | rewire (addr : Dword) (sink : Sink)
  | layoutv (l : Nat) (sink : Sink)
  | doneReport
  | cursorStep
deriving DecidableEq, Repr

/-- An instruction between its firing and its V (R19, R21). -/
structure Flight where
  /-- The cycle of visibility. -/
  vis : Nat
  /-- The slot of an element; the address of a control element's word. -/
  slot : Nat
  word : Word
  /-- Input channels whose head token it reserved. -/
  consume : BitVec 4
  /-- Output positions it reserved, by channel and place. -/
  outs : List (Fin 4 × Nat)
  pset : BitVec 8
  pclr : BitVec 8
  pendD : BitVec 16
  pendA : BitVec 4
  pendP : BitVec 8
  pendLane : Bool
  flags : Num.Flags
  /-- The generator state after this instruction's draws, where it takes any (R97). -/
  srAfter : Option (BitVec 32)
  acts : List Act
  /-- Registers that stay pending after V, until a reply writes them (R20). -/
  keepD : BitVec 16
  /-- The radix walk of its acceptance has been waited for (R147, R408). -/
  walked : Bool := false
  /-- Lane 0, bits 63:0, of OPA and OPB as read at firing (R390). -/
  opa : Dword := 0
  opb : Dword := 0
  trap : Option Cause
deriving DecidableEq, Repr

/-- A deferred trap that waits for its element to run: the request's slot or address and word, the cause and the address (R151). -/
structure HeldTrap where
  slot : Nat
  word : Word := 0
  cause : Cause
  addr : Dword := 0
deriving DecidableEq, Repr, Inhabited

/-- The state of R8 that an element and a control element share. -/
structure Elem where
  slots : Tbl Word := []
  sloten : Word := 0
  trig : Tbl Dword := []
  p : BitVec 8 := 0
  d : Tbl Quad := []
  a : Tbl Word := []
  inq : Tbl InChan := []
  outq : Tbl OutChan := []
  lane : Tbl Byte := []
  fpctl : Word := 0
  fpflg : Word := 0
  srstate : Word := 1
  estat : Word := 0
  pendD : BitVec 16 := 0
  pendA : BitVec 4 := 0
  pendP : BitVec 8 := 0
  pendLane : Bool := false
  flights : List Flight := []
  /-- The V of the last instruction that became visible or was fired (R19). -/
  lastV : Nat := 0
  /-- The last cycle in which an instruction of this unit fired. -/
  firedAt : Option Nat := none
  /-- Places handed out to output positions so far. -/
  tickets : Nat := 0
  /-- Deferred traps held while the element does not run, the first to arrive first (R151). -/
  held : List HeldTrap := []
  /-- The last trap's virtual address, for the trap record (R378). -/
  faultAddr : Dword := 0
  faultWord : Word := 0
  deferred : Bool := false
  krf : Bool := false
  /-- Frozen out of Stopped (R24, R383). -/
  wasStopped : Bool := false
  /-- FIRES of the window, and whether the window is discarded for this element (R352). -/
  fires : Nat := 0
  unsettled : Bool := false
deriving DecidableEq, Repr, Inhabited

/-- An entry of a core's trap queue (R175): kind and source as in ECAUSE. -/
structure TrapEntry where
  kind : BitVec 2
  src : Nat
  cause : Cause
  repeats : Nat := 0
  deferred : Bool := false
  krf : Bool := false
  addr : Dword := 0
  detail : Quad := 0
  /-- The cycle of its arrival. -/
  since : Nat := 0
deriving DecidableEq, Repr, Inhabited

/-- A trap the control element has raised itself and not yet taken (R175). -/
structure OwnTrap where
  cause : Cause
  pc : Nat
  word : Word
  addr : Dword := 0
  detail : Quad := 0
  deferred : Bool := false
deriving DecidableEq, Repr

/-- A sleep in progress (R181): its mask, the cycle of its limit, the events seen. -/
structure Sleep where
  mask : BitVec 4
  limit : Option Nat
  seen : BitVec 4
  sink : Sink
  since : Nat
deriving DecidableEq, Repr

/-- What a control element holds beside R8 (R25, R179). -/
structure Ctl where
  pc : Nat := 0
  hnd : Bool := false
  msk : Bool := false
  tvec : Word := 0
  epc : Word := 0
  ecause : Dword := 0
  trbase : Word := 0
  eres : Bool := false
  sccur : Dword := 0
  scstr : Dword := 0
  sccnt : Dword := 0
  scbase : Dword := 0
  own : Option OwnTrap := none
  sleep : Option Sleep := none
  /-- Cycle from which the next instruction is considered (R171, R176). -/
  stall : Nat := 0
  /-- A control transfer, syswr or eret in flight holds what R173 and R171 make wait. -/
  stopped : Bool := false
  /-- The element or engine port whose trap is being handled. -/
  trapSrc : Option (BitVec 2 × Nat) := none
deriving DecidableEq, Repr, Inhabited

/-- A named barrier (R162). -/
structure Barrier where
  expected : Nat := 0
  arrived : Nat := 0
  phase : BitVec 16 := 0
  /-- The largest timestamp its arrivals carried (R312). -/
  ts : Stamp := 0
deriving DecidableEq, Repr, Inhabited

/-- A wait in progress (R163 to R166, R168): its issuer, and its destination; a remote wait's completion goes to the
command register of its sender. -/
structure Wait where
  unit : Nat
  kind : WaitKind
  sink : Sink
  slot : Nat := 0
  remote : Option (Nat × Nat × Option (Fin 16)) := none
  /-- The unit that now holds its destination, where a rewire has moved that to another core (R365). -/
  movedTo : Option UnitId := none
  /-- Its instruction, and lane 0 of its operands as read at firing (R390). -/
  word : Word := 0
  opa : Dword := 0
  opb : Dword := 0
  /-- The module whose remote command waits. -/
  peer : Option Nat := none
deriving DecidableEq, Repr

/-- A window entry (R404), its fields read once. -/
structure Win where
  rowlen : Nat := 0
  pitch : Nat := 0
  rsvd : Bool := false
  valid : Bool := false
  wr : Bool := false
  pitched : Bool := false
  rem : Bool := false
  mod : Nat := 0
  size : Nat := 0
  inc : Nat := 0
  pbase : Nat := 0
  vbase : Nat := 0
  /-- The valid mark of a remote entry for its target's link (R412). -/
  mark : Bool := true
deriving DecidableEq, Repr, Inhabited

/-- A physical range of writes, none when empty (R410). -/
abbrev Dirty := Option (Nat × Nat)

/-- A posted update that faulted in translation (R152, R391): state 1 waits for release, 2 is released. -/
structure Repair where
  state : Nat := 0
  unit : Nat := 0
  va : Nat := 0
  n : Nat := 0
  op : MemOp := .store
  data : Quad := 0
  cause : Cause := 0
  req : Nat := 0
  part : Nat := 0
  noalloc : Bool := false
deriving DecidableEq, Repr, Inhabited

/-- What a port counts for one issuer (R153). -/
structure Issuer where
  open_ : Nat := 0
  acked : Nat := 0
  last : Quad := 0
  lost : Bool := false
  /-- The place of the last acknowledgement among all the module has counted. -/
  stamp : Nat := 0
deriving DecidableEq, Repr, Inhabited

/-- A cached leaf translation, tagged by its partition (R408). -/
structure Leaf where
  part : Nat := 0
  vbase : Nat
  size : Nat
  pbase : Nat
  r : Bool
  w : Bool
deriving DecidableEq, Repr

/-- A memory port (R27, R404 to R410). -/
structure Port where
  wins : Tbl Win := []
  dirty : Tbl Dirty := []
  walkDirty : Dirty := none
  repairs : Tbl Repair := []
  issuers : Tbl Issuer := []
  tlb : List Leaf := []
deriving DecidableEq, Repr, Inhabited

/-- How far one access of a request has come. -/
inductive Phase where
  /-- A posted update whose radix walk ends in a cycle (R152, R408). -/
  | translating (due : Nat)
  | travelling (due : Nat)
  /-- Waiting at its home, since an access number, for HOLD or the chute (R298, R305). -/
  | queued (place : Nat)
  | missed (due : Nat)
  /-- Answered REPLAY, naming a new home (R305). -/
  | replay (due : Nat) (home : Home)
  /-- Diverted to the repair queue, or waiting behind a diverted update (R152, R317). -/
  | repair
  | replied (due : Nat)
  | done
deriving DecidableEq, Repr

/-- One access of a request: its physical address and home, its operand, and what its home answered. -/
structure Part where
  lane : Nat
  va : Nat
  pa : Nat
  n : Nat
  home : Home
  inc : Nat := 0
  data : Quad := 0
  compare : Quad := 0
  phase : Phase
  value : Quad := 0
  seq : BitVec 16 := 0
  ts : Stamp := 0
  rts : Stamp := 0
  port : Nat := 0
  /-- The port and window that translated it (R407). -/
  win : Option (Nat × Nat) := none
  noalloc : Bool := false
  cause : Cause := 0
  /-- The bytes of an access of more than 16: its operand, or what its home answered. -/
  bulk : List Byte := []
  /-- The line a leased home read, and its WTS (R315). -/
  line : List Byte := []
  wts : Stamp := 0
  /-- The exponents that a store of DX blocks sets, and their place in the line's (R92, R254). -/
  side : List Byte := []
  sideAt : Nat := 0
deriving DecidableEq, Repr

/-- A memory request of an element or control element in progress (R147 to R161). -/
structure Req where
  core : Nat
  unit : Nat
  slot : Nat
  word : Word := 0
  op : MemOp
  posted : Bool
  reuse : Reuse
  noalloc : Bool
  laneBits : Nat
  sink : Sink
  parts : List Part
  pts : Stamp
  /-- Elements' updates are awaited by releases, cwait and fence (R149, R165, R166). -/
  update : Bool
  /-- The cycle in which it was accepted. -/
  born : Nat := 0
  /-- Lane 0 of its operands as read at firing, and its place among the waits that its core has begun (R390). -/
  opa : Dword := 0
  opb : Dword := 0
  place : Nat := 0
  /-- The host port it came in by, and the partition tag it carries: 64 is that of no partition (R414, R439). -/
  link : Option Nat := none
  tag : Nat := 64
deriving DecidableEq, Repr

/-- Why an engine goes no further: a translation fault, a cause that ends its command, or data that it has asked for or must ask for. -/
inductive EngFault where
  | stop (cause : Cause) (va : Nat)
  | ends (cause : Cause)
  | wait
  | ask (va n : Nat) (rc : Reuse)
deriving DecidableEq, Repr

/-- What an engine's read has come to: on its way, its bytes with the timestamp they carry, or its fault. -/
inductive FetchAns where
  | waiting
  | got (bs : List Byte) (ts : Stamp)
  | fault (f : EngFault)
deriving DecidableEq, Repr

/-- A read that an engine has issued, in the order of issue (R199): its address and bytes, its request, and its answer; for a line that
the matrix node reads, its physical address, its home, and whether it is pinned there (R242). -/
structure Fetch where
  va : Nat
  n : Nat
  req : Nat := 0
  ans : FetchAns
  pa : Nat := 0
  home : Option Home := none
  pin : Bool := false
deriving DecidableEq, Repr

/-- A queue of engine commands (R167): 32 entries; entries taken at firing and not yet joined. -/
structure Queue where
  q : List Cmd := []
  taken : Nat := 0
  /-- The cycle in which it last accepted, and the issuer it took last. -/
  acceptAt : Option Nat := none
  lastIssuer : Nat := 64
deriving DecidableEq, Repr, Inhabited

/-- A completion on its way (R22, R23): its register and word, its number on a timeline, the scoreboard bit it clears,
and whether a nonzero cause is also raised (R195). -/
structure Completion where
  unit : Nat
  reg : Option (Fin 16)
  word : Quad
  tl : Option Nat := none
  num : Dword := 0
  ts : Stamp := 0
  due : Nat := 0
  psb : Option Nat := none
  trapf : Bool := false
deriving DecidableEq, Repr

/-- Where an edge or attachment ends (R61): an element input, an engine's edge port, the host sink. -/
inductive Dest where
  | elem (core el : Nat) (ch : Fin 4)
  | mn (core : Nat)
  | cp (core : Nat)
  | egress (part sink : Nat)
deriving DecidableEq, Repr

/-- A token an engine has produced for its attached input: the position its command has reached with it and the units
done (R195, R392); the walk whose reply it ends (R221). -/
structure OutTok where
  tok : Token
  pos : List Nat := []
  units : Nat := 0
  walk : Option Nat := none
deriving DecidableEq, Repr

structure EngOut where
  toks : List OutTok := []
  ts : Stamp := 0
deriving DecidableEq, Repr, Inhabited

/-- A stream engine, copy engine, partition network or intersection unit (R195, R392). The command it runs stands at the
head of its queue. -/
structure Engine where
  /-- 0 idle, 1 running, 2 stopped on a fault. -/
  state : Nat := 0
  cause : Cause := 0
  /-- The faulting virtual address. -/
  addr : Dword := 0
  count : Nat := 0
  pts : Stamp := 0
  /-- Copy engine: the generator and the flags so far. -/
  gen : Word := 1
  espf : BitVec 7 := 0
  /-- The position that the command has reached with what it has delivered (R392). -/
  pos : List Nat := []
  /-- Stream engine: the bound pattern and the base in force. -/
  pat : Nat := 0
  base : Nat := 0
  /-- COUNT and CAUSE with which the command ends once its tokens are delivered and its updates acknowledged. -/
  final : Option (Nat × Cause) := none
  /-- How far it has come beyond that position: where it reads next, and what it holds for its next token. -/
  tail : List Nat := []
deriving DecidableEq, Repr, Inhabited

/-- An adit walk in one of a core's 16 slots (R213 to R225, R393). -/
structure Walk where
  cur : Dword := 0
  key : Quad := 0
  w : List Dword := [0, 0, 0, 0]
  rbase : Dword := 0
  cmd : Cmd
  slim : Nat := 0
  nrule : Nat := 0
  skipix : Nat := 0
  loopix : Nat := 0
  entry : Nat := 0
  rmode : Bool := false
  trapf : Bool := false
  pol : Nat := 0
  step : Nat := 0
  rp : Nat := 0
  eq : Bool := false
  lt : Bool := false
  parked : Bool := false
  skipped : Bool := false
  rload : Nat := 0
  slice : Nat := 0
  cause : Cause := 0
  pts : Stamp := 0
  record : List Byte := []
  rules : List Word := []
  /-- What it waits for: 0 it runs, 1 a record's data, 2 its arrival at a slice, 3 its reply on the way to the core, 4 its
  reply's stores, 5 its reply's tokens, 6 its program from a peer. -/
  waiting : Nat := 0
  due : Nat := 0
  /-- The bytes on their way, a record's or the reply's, and the slice it moves to. -/
  incoming : List Byte := []
  target : Nat := 0
  /-- The load it moves for: physical address and bytes. -/
  load : Option (Nat × Nat) := none
  /-- It has waited for the translation whose fault it is to meet (R223). -/
  tried : Bool := false
  /-- Its place among the core's walks, for the oldest. -/
  age : Nat := 0
deriving DecidableEq, Repr

/-- The matrix node (R228 to R274, R394). Accumulator and FBUF bytes stand at row × 640 + column byte, GRM's at
row × 384 + column byte. -/
structure Node where
  acc0 : Tbl Byte := []
  acc1 : Tbl Byte := []
  /-- 0 FP32, 1 FP64, 2 INT32. -/
  mode0 : Nat := 0
  mode1 : Nat := 0
  md : Tbl (BitVec 256) := []
  mc : Tbl Word := []
  rmx : Tbl Word := []
  rsm : Tbl Word := []
  flg : BitVec 7 := 0
  /-- The last nonzero completion cause, and the tokens completed (R235). -/
  last : Cause := 0
  tokens : Nat := 0
  gen : Word := 1
  /-- The iteration registers of R270. -/
  itcap : Nat := 0
  ittol : Word := 0
  itcnt : Word := 0
  itprv : Word := 0x7f800000
  itres : Word := 0
  itstat : Word := 0
  fbuf : Tbl Byte := []
  grm : Tbl Byte := []
  /-- 0 not stopped, 1 stopped on a fault, 2 stopped under DTRAP, 3 stopped on a faulty edge token. -/
  stopped : Nat := 0
  cause : Cause := 0
  addr : Dword := 0
  /-- The head token has begun and not ended; its next K-block or row, what it has counted, its flags, its bytes. -/
  active : Bool := false
  next : Nat := 0
  count : Nat := 0
  opFlags : BitVec 7 := 0
  opBytes : Nat := 0
  /-- A resumed iteration goes on with its tolerance test (R273). -/
  tolerance : Bool := false
  /-- Pending CHAIN state of each issuer: the first nonzero cause and the flags so far (R230). -/
  chains : Tbl (Cause × BitVec 7) := []
  /-- MMA.C tokens ended for each COOPID; since when the head waits for its partners, and whether they are there (R257). -/
  coop : Tbl Nat := []
  coopSince : Option Nat := none
  matched : Bool := false
  /-- A part of the operation is under way, and ends when the node is no longer busy (R243, R260, R274); the cycle from which the node counts
  the multiply-adds of its operation, and how many it has begun. -/
  part : Bool := false
  busy : Nat := 0
  base : Nat := 0
  work : Nat := 0
  /-- Elements of its row that a store has issued (R259). -/
  col : Nat := 0
  /-- The banks as the operation found them, until it stops or is cut: one that ends with a cause leaves them so (R234). -/
  undo : Option (Tbl Byte × Tbl Byte) := none
deriving DecidableEq, Repr, Inhabited

/-- One core (R27). -/
structure Core where
  part : Option Nat := none
  launch : Option Nat := none
  /-- The number k of the level-1 instance the core holds (R341). -/
  image : Nat := 0
  /-- The stream patterns of the launch as relocated for that instance, by pattern number (R75, R341). -/
  streams : List (List Byte) := []
  /-- fe(row,col) under row × 8 + col, the control element under 64. -/
  elems : Tbl Elem := []
  ctl : Ctl := {}
  tl : Tbl Dword := []
  /-- Numbers handed out on each timeline, and those completed above its counter (R164). -/
  tlNext : Tbl Dword := []
  tlDone : Tbl (List Dword) := []
  /-- The largest timestamp that advances of each timeline carried (R312, R346). -/
  tlTs : Tbl Stamp := []
  bars : Tbl Barrier := []
  waits : Tbl Wait := []
  ports : Tbl Port := []
  queues : Tbl Queue := []
  /-- Commands outstanding that hold each bit of the port scoreboard (R187). -/
  psb : Tbl Nat := []
  trapq : List TrapEntry := []
  /-- Traps that its control element has taken since the core joined its partition (R378). -/
  tnum : Dword := 0
  /-- Completions on their way to their registers (R22). -/
  comps : Tbl (List Completion) := []
  engOut : Tbl EngOut := []
  engines : Tbl Engine := []
  /-- The reads that each engine has issued and not yet used, oldest first (R195, R199). -/
  fetches : Tbl (List Fetch) := []
  walks : Tbl Walk := []
  /-- Walks accepted by the core so far. -/
  walkAge : Nat := 0
  mn : Node := {}
  /-- Words of an incomplete command at the copy engine's edge port (R205). -/
  cpEdge : List Quad := []
  /-- The lane rule of the partition network (R207). -/
  laneSel : Bool := false
  laneShift : Nat := 0
  /-- Peer stores lost since the last PSIG (R430). -/
  peerLost : Nat := 0
  spares : Nat := 0
  retired : Bool := false
  /-- The core's clock (R312). -/
  clock : Stamp := 0
  /-- Stream detectors (R299): per requester, the last line and the length of its run. -/
  detect : Tbl (Nat × Nat) := []
  /-- Engines that have saved for the kerf in progress (R381). -/
  engSaved : List Nat := []
  /-- The launch-table entry of MP0 (R343): virtual base, bytes, physical base. -/
  lte : Option (Nat × Nat × Nat) := none
deriving DecidableEq, Repr, Inhabited

/-- One line of an L2 slice (The L2 slice of 16_memory_hierarchy.md). -/
structure Line where
  /-- Line address: physical address over 128. -/
  addr : Nat
  dirty : Bool := false
  part : Nat := 0
  pin : Nat := 0
  stock : Bool := false
  hot : Bool := false
  wts : Stamp := 0
  rts : Stamp := 0
  /-- The slice's use count at the line's last use. -/
  used : Nat := 0
  data : List Byte
  side : List Byte := []
deriving DecidableEq, Repr

/-- A write waiting in the chute for DRAM (R298): its line and the bytes it has merged. -/
structure ChuteEntry where
  addr : Nat
  part : Nat
  bytes : Tbl Byte
  /-- The exponents it has merged, for a DX view line (R92). -/
  side : Tbl Byte := []
deriving DecidableEq, Repr

/-- An armed monitor (R161): the request that waits, its line, its address and width; for a peer's, the module that waits. -/
structure Monitor where
  req : Nat
  line : Nat
  pa : Nat
  n : Nat
  peer : Option Nat := none
  /-- The partition tag of the request that armed it (R414). -/
  part : Nat := 0
deriving DecidableEq, Repr

/-- One L2 slice with its registers (R293 to R298, R314). -/
structure Slice where
  /-- Lines under set × 16 + way. -/
  lines : Tbl Line := []
  uses : Nat := 0
  mts : Stamp := 0
  seq : BitVec 16 := 0
  monitors : List Monitor := []
  chute : List ChuteEntry := []
  counters : Tbl (BitVec 4) := []
  /-- TCTLp without OCC, for each partition. -/
  tctl : Tbl Dword := []
  sctl : Dword := 0x80
  lctl : Dword := 8
  /-- The generators and flags of the format windows in this slice's controller. -/
  fwSeed : Tbl Word := []
  fwStat : Tbl (BitVec 7) := []
  /-- The ranges for which it has received WBINV: it serves of them only what is its own again (R305). -/
  closed : List (Nat × Nat) := []
  /-- The translations its adit engine caches, with their partitions (R220). -/
  tcache : List (Nat × Leaf) := []
  failed : Bool := false
deriving DecidableEq, Repr, Inhabited

/-- The home clock and sequence tag of an explicit home (R154, R313). -/
structure HomeClock where
  hclk : Stamp := 0
  seq : BitVec 16 := 0
deriving DecidableEq, Repr, Inhabited

/-- A dynamic edge or attachment of a placed graph (R61, R169). -/
structure Edge where
  src : Endpoint
  dst : Dest
  launch : Nat
  spill : Bool := false
  /-- Where the receiver's overflow ring lies in its cluster memory, and the tokens ever put there (R169). -/
  ringAt : Nat := 0
  spilled : Nat := 0
  /-- The cycle from which the head has been blocked, and whether the notice of a full ring has been given (R169). -/
  blocked : Option Nat := none
  noticed : Bool := false
  gated : Bool := false
  /-- A marker sent behind the sender's tokens and not yet arrived. -/
  marker : Bool := false
  back : Bool := false
  /-- TOK, FULL and EMPTY of the window, and whether it is discarded (R352). -/
  tok : Nat := 0
  full : Nat := 0
  empty : Nat := 0
  unsettled : Bool := false
deriving DecidableEq, Repr

/-- A token that a trigger has made (R318, R426): the first number of the host link's later requests, and the largest timestamp of the
link's earlier writes. -/
structure Rung where
  tok : Token
  after : Nat := 0
  ts : Stamp := 0
deriving DecidableEq, Repr, Inhabited

/-- A doorbell of a TDI (R426). -/
structure Doorbell where
  staging : Quad := 0
  toks : List Rung := []
  dropped : Nat := 0
deriving DecidableEq, Repr, Inhabited

/-- A partition (R413). -/
structure Partition where
  used : Bool := false
  cores : List Nat := []
  lead : Nat := 0
  secure : Bool := true
  /-- Its request and reply virtual channels, and the number of its own buffer-slot pool on each, in every router. -/
  channel : Nat := 2
  reply : Nat := 3
  pool : Nat := 0
  replyPool : Nat := 0
  /-- The 256 MiB units of global memory it owns. -/
  units : List Nat := []
  ptroot : Nat := 0
  keyix : Nat := 0
  logBase : Nat := 0
  logK : Nat := 8
  /-- Log entries ever appended, and those harvested (R410, R411). -/
  logTail : Nat := 0
  logHead : Nat := 0
  lseq : Word := 0
  ovf : Bool := false
  policy : Nat := 0
  handle : Nat := 0
  /-- QCTL and QSTAT (R349). -/
  ben : Bool := false
  debt : Nat := 0
  q : Nat := 0
  rem : Nat := 0
  clctl : Dword := 0x8802021001800000
  fdctl : Dword := 0xc000080000400000
  /-- The TDI's state: unlocked, locked, running, error (R425). -/
  tdi : Nat := 0
  /-- Doorbells: staging, tokens waiting, triggers dropped (R426). -/
  doorbells : Tbl Doorbell := []
  /-- The egress ring (R427): base and k, entries written and released. -/
  ring : Option (Nat × Nat) := none
  ringSeq : Nat := 0
  ringFreed : Nat := 0
  /-- Corrected soft errors, and resets since it was created (R407). -/
  soft : Nat := 0
  resets : Nat := 0
deriving DecidableEq, Repr, Inhabited

/-- What this module knows of a peer's link: whether it is up, and the peer's incarnation number (R412). -/
structure Link where
  up : Bool := true
  inc : Nat := 0
deriving DecidableEq, Repr, Inhabited

/-- The states of R344. -/
inductive Stage where
  | queued | waiting | ready | running | suspended | draining | complete | failed
deriving DecidableEq, Repr, Inhabited

/-- An operator as the layout record holds it (R370), with what its clone has dealt and joined (R359 to R361) and its
runs of windows (R355). -/
structure Op where
  cls : Nat := 0
  pin : Bool := false
  mode : Nat := 0
  nrep : Nat := 0
  drun : Nat := 0
  host : Nat × Nat := (0, 0)
  partner : Option Nat := none
  upper : Bool := false
  cutseq : Nat := 0
  dealer : Option (Nat × Nat) := none
  joiner : Option (Nat × Nat) := none
  reps : List (Nat × Nat) := []
  bases : List Nat := [0, 0, 0, 0, 0, 0, 0]
  fires : Nat := 0
  infull : Nat := 0
  outfull : Nat := 0
  dealt : Nat := 0
  /-- For each token between dealer and joiner: its replica, or 8 for replica 0's outputs of tokens consumed before the cut,
  and whether it ends a run. -/
  between : List (Nat × Bool) := []
  /-- The joiner's carry, and the cycle from which it stands. -/
  carry : Quad := 0
  carryAt : Nat := 0
  /-- The last token emitted (R361, R364). -/
  last : Quad := 0
  /-- For each replica, the cycle from which the dealer has held a token for it, and from which its own output has been held, for want of a
  free position (R169, R359). -/
  dealHeld : Tbl Nat := []
  joinHeld : Tbl Nat := []
  cloneRun : Nat := 0
  idleRun : Nat := 0
deriving DecidableEq, Repr, Inhabited

/-- A rewire in progress (R365): who asked, what for, the elements it takes, and how far it is. -/
structure Rewire where
  kind : Nat
  opa : Nat
  opb : Nat := 0
  repl : Nat := 0
  drun : Nat := 0
  asker : Option (Nat × Sink) := none
  els : List (Nat × Nat) := []
  gated : Bool := false
  moved : Bool := false
deriving DecidableEq, Repr

/-- A kerf in progress (R381). -/
structure Kerf where
  begun : Nat
  status : Cause := 0
deriving DecidableEq, Repr

/-- A launch (R337 to R346). -/
structure Launch where
  session : Nat := 0
  part : Nat := 0
  /-- The loader's own copy of the object (R82). -/
  object : List Byte := []
  args : List Dword := []
  stage : Stage := .queued
  held : Bool := false
  broke : Bool := false
  placed : Bool := false
  ran : Bool := false
  /-- The module core of each level-1 instance. -/
  cores : List Nat := []
  ndone : Nat := 0
  /-- Core-cycles charged against BUDGET, and BUDGET itself in units of 65,536. -/
  charged : Nat := 0
  budget : Nat := 0
  readySince : Option Nat := none
  /-- Its place in submission order. -/
  place : Nat := 0
  queue : Nat := 0
  prio : Nat := 0
  /-- The instance handle, the layout version and the cycle of the last rewire (R369). -/
  inst : Nat := 0
  version : Word := 0
  rwcyc : Nat := 0
  ops : List Op := []
  rewire : Option Rewire := none
  waitingRewires : List Rewire := []
  kerf : Option Kerf := none
  /-- Where its save area, ring space, placement map, table block and data blocks lie; a data block is a record, an
instance or repeat, and an address. -/
  save : Nat := 0
  rings : Nat := 0
  map : Nat := 0
  table : Nat := 0
  blocks : List (Nat × Nat × Nat) := []
  /-- Every range of memory the scheduler set aside for it: base and bytes. -/
  regions : List (Nat × Nat) := []
  lost : Nat := 0
  /-- The largest timestamp of what it waited for and of the clocks that its cores left with (R312, R346). -/
  ts : Stamp := 0
  /-- A save image stands in its save area: what is kept with it of each level-1 instance, the scratchpads and cluster blocks,
  the edges with instances for cores, the requests that wait (instance, number, request), and the cycle of the cut. -/
  imaged : Bool := false
  saved : Tbl Core := []
  pads : Tbl (Tbl Byte) := []
  clus : List (Nat × Nat × List Byte) := []
  edges : List Edge := []
  monitors : List (Nat × Nat × Req) := []
  cutAt : Nat := 0
deriving DecidableEq, Repr, Inhabited

/-- An object the root holds for a session (R82 step 1). -/
structure Held where
  session : Nat
  object : List Byte
deriving DecidableEq, Repr

/-- A policy under a handle (R81, R417). -/
structure Policy where
  session : Nat
  block : List Byte
deriving DecidableEq, Repr

/-- What a peer is answered: cause, bytes, and the timestamps of R312. -/
structure PeerReply where
  code : Cause
  data : List Byte := []
  seq : BitVec 16 := 0
  ts : Stamp := 0
  wts : Stamp := 0
  rts : Stamp := 0
deriving DecidableEq, Repr

/-- What the host is told (R416): a status code, with the handle or the bytes that go with it. -/
structure Status where
  code : Cause
  handle : Nat := 0
  data : List Byte := []
deriving DecidableEq, Repr

/-- A harvest that waits for the acknowledgement of the writes translated before it (R411): the partition, the tail of its log, the first
request made afterwards, and the cycle of its reset. -/
structure Harvest where
  part : Nat
  tail : Nat
  limit : Nat
  cycle : Nat
deriving DecidableEq, Repr

/-- The root, the mailbox and bring-up (R416, R432 to R435). -/
structure Root where
  stage : Nat := 1
  badstk : Byte := 0
  spareChannels : Tbl Nat := []
  featack : BitVec 256 := 0
  /-- The last sequence number of each open session; session 0 is the hypervisor's. -/
  sessions : Tbl Dword := [(0, 0)]
  keyed : List (Nat × Nat) := []
  attested : Nat := 0
  objects : Tbl Held := []
  policies : Tbl Policy := []
  nextHandle : Nat := 1
  /-- Whether a partition has ever been created (R432). -/
  created : Bool := false
  flash : List Byte := []
  /-- The boot firmware has been verified (R433). -/
  booted : Bool := false
  status : List Status := []
  quiesced : List Nat := []
  /-- Harvests that wait for acknowledgements (R411). -/
  harvests : List Harvest := []
deriving DecidableEq, Repr, Inhabited

/-- Who performs the instruction that a step runs. -/
inductive Actor where
  | none
  | unit (u : UnitId) (slot : Nat) (word : Word)
  | engine (core port : Nat)
  | walk (core slot : Nat)
deriving DecidableEq, Repr

/-- What the machine does next: a unit takes its turn, an engine takes the command at its queue's head, a walk takes
its next rule, or an event happens. -/
inductive Action where
  | turn (u : UnitId)
  | engine (core port : Nat)
  | walk (core slot : Nat)
  | event (i : Instr)
deriving DecidableEq, Repr

/-- A request of a peer that waits for a domain change or a quiesced stack (R305, R435). -/
structure PeerAsk where
  mod : Nat
  inc : BitVec 16
  pa : Nat
  ts : Stamp
  op : PeerOp
deriving DecidableEq, Repr

/-- A change of interleave domains in progress (R305). -/
structure Change where
  lo : Nat
  hi : Nat
  pending : List Nat
  rts : Stamp := 0
  begun : Nat := 0
deriving DecidableEq, Repr

/-- The state of one module. -/
structure State where
  /-- Cycles since module reset (R179). -/
  cycle : Nat
  /-- What remains to happen in this cycle, in order. -/
  agenda : List Action
  /-- What the outside world does next: one entry is taken each cycle. -/
  inbox : List Instr
  actor : Actor
  /-- Memory by physical address: DRAM, MPAD, CLUS, CPAD and host memory. -/
  mem : Tbl Byte
  /-- DRAM lines that read as poisoned (R415). -/
  poison : List Nat
  cores : Tbl Core
  slices : Tbl Slice
  /-- Explicit homes, under a number of their own. -/
  homes : Tbl HomeClock
  reqs : Tbl Req
  nextReq : Nat
  /-- Numbers handed out to order acknowledgements (R165), queued requests (R305) and waits. -/
  stamps : Nat
  edges : List Edge
  /-- Interleave-domain entries as R291 lays them out. -/
  idt : Tbl Quad
  /-- Format windows in use, and the registers of the others as they were left (R300). -/
  fw : Tbl FormatWindow
  fwIdle : Tbl FormatWindow
  parts : Tbl Partition
  links : Tbl Link
  launches : Tbl Launch
  root : Root
  /-- The partition served last (R347). -/
  served : Nat
  /-- Launches submitted, and instance handles drawn. -/
  submitted : Nat
  /-- This module's identifier, if it has joined a domain, and its incarnation (R412, R429). -/
  moduleId : Option Nat
  inc : BitVec 16
  /-- The clocks of the host link, and of the port of each peer (R312). -/
  hostClock : Stamp
  peerClock : Tbl Stamp
  /-- Rewire requests whose reads have returned: core, the command's sink, and the 64 bytes (R183, R367). -/
  asks : List (Nat × Sink × List Byte)
  /-- Requests of peers that wait, in the order of their arrival. -/
  peerAsks : List PeerAsk
  /-- What this module has answered to requests of other modules (R412). -/
  sent : List (Nat × PeerReply)
  /-- The ranges of a domain change in progress, the slices that have not yet reported, and the largest RTS (R305). -/
  change : Option Change
deriving DecidableEq, Repr

/-- IDT0 after reset: all slices, over global memory and the views (R291). -/
def resetIdt : Quad := .ofNat 128 ((2 ^ 41 - 1) * 2 ^ 87 + 9 * 2 ^ 74 + 2 ^ 72 + 0x5FFFF * 2 ^ 20)

/-- IDT1 to IDT15 after reset: not valid, HMASK all ones and LOG2N 9 (R291). -/
def resetIdtRest : Quad := .ofNat 128 ((2 ^ 41 - 1) * 2 ^ 87 + 9 * 2 ^ 74)

/-- The registers of a format window after reset: SEED 1, not valid, the rest 0 (R300). -/
def resetFw : FormatWindow :=
  { seed := 1, part := 0, stfmt := 0, cfmt := 0, rm := 0, trapen := false, scaled := false, vbase := 0, sbase := 0, xbase := 0, nline := 0 }

/-- The machine right after reset: nothing has a value the manual does not give. The root's boot from flash is what
happens next (R433, log entry 2). -/
def State.reset : State :=
  { cycle := 0, agenda := [.event (.powerOn true)], inbox := [], actor := .none, mem := [], poison := [], cores := [],
    slices := [], homes := [], reqs := [], nextReq := 0, stamps := 0, edges := [], idt := (0, resetIdt) :: (List.range 15).map fun i => (i + 1, resetIdtRest), fw := [], fwIdle := [],
    parts := [], links := [], launches := [], root := {}, served := 63, submitted := 0, moduleId := none, inc := 0,
    hostClock := 0, peerClock := [], asks := [], peerAsks := [], sent := [], change := none }

/-- Why a step stops with a fault. The manual gives every case an effect, so no instruction raises one: the type has
no constructor. -/
inductive Fault where
deriving DecidableEq, Repr

/-- Why a step has no meaning. -/
inductive Refusal where
  /-- Raised by an arm of exec whose instruction has no meaning yet; safe, since nothing is proved of it. -/
  | notModelled (mnemonic : String)
deriving DecidableEq, Repr

/-- The three outcomes of a step of this machine. -/
abbrev Outcome := Host.Outcome State Fault Refusal

end Sys2Proof.Machine
end

