-- ==== Sys2Proof/Machine/Ops.lean ====
section
/-! DEFINITION. The named operations over cores, elements, channels and registers: what reads and writes them,
taking an exception (R175, R176) and returning from one (R177). -/

namespace Sys2Proof.Machine

open Sys2Proof

/-! ## Homes of the parts of the state -/

def getCore (s : State) (k : Nat) : Core := tget {} s.cores k
def setCore (s : State) (k : Nat) (c : Core) : State := { s with cores := tput s.cores k c }

/-- The control element's index among a core's units. -/
def ceIx : Nat := 64
def isCe (u : UnitId) : Bool := u.ix = ceIx

def getElem (s : State) (u : UnitId) : Elem := tget {} (getCore s u.core).elems u.ix
def setElem (s : State) (u : UnitId) (e : Elem) : State :=
  let c := getCore s u.core
  setCore s u.core { c with elems := tput c.elems u.ix e }

def getCtl (s : State) (k : Nat) : Ctl := (getCore s k).ctl
def setCtl (s : State) (k : Nat) (x : Ctl) : State := setCore s k { getCore s k with ctl := x }

def Core.port (c : Core) (n : Nat) : Port := tget {} c.ports n
def Core.setPort (c : Core) (n : Nat) (p : Port) : Core := { c with ports := tput c.ports n p }
def Core.queue (c : Core) (n : Nat) : Queue := tget {} c.queues n
def Core.setQueue (c : Core) (n : Nat) (q : Queue) : Core := { c with queues := tput c.queues n q }
/-- A barrier; one at which nothing has arrived carries no timestamp beyond the core's own. -/
def Core.bar (c : Core) (n : Nat) : Barrier := tget { ts := c.clock } c.bars n
def Core.setBar (c : Core) (n : Nat) (b : Barrier) : Core := { c with bars := tput c.bars n b }
def Core.timeline (c : Core) (n : Nat) : Dword := tget 0 c.tl n

def getSlice (s : State) (n : Nat) : Slice := tget {} s.slices n
def setSlice (s : State) (n : Nat) (x : Slice) : State := { s with slices := tput s.slices n x }

/-! ## Little-endian bytes (R5) -/

/-- The number formed by bytes, lowest first. -/
def leNat : List Byte → Nat
  | [] => 0
  | b :: bs => b.toNat + 256 * leNat bs

/-- The n low bytes of a number, lowest first. -/
def leBytes : Nat → Nat → List Byte
  | 0, _ => []
  | n + 1, x => .ofNat 8 x :: leBytes n (x / 256)

/-! ## Memory

One list of cells, addresses strictly rising, no cell equal to what an unlisted address reads as (0x00, log
entry 3). -/

/-- What an address with no cell reads as. -/
def unlisted : Byte := 0

namespace Memory

def read (m : Tbl Byte) (a : Nat) : Byte := tget unlisted m a

/-- Writing what an unlisted address reads as removes the cell. -/
def write : Tbl Byte → Nat → Byte → Tbl Byte
  | [], a, b => if b = unlisted then [] else [(a, b)]
  | (k, v) :: t, a, b =>
    if a < k then (if b = unlisted then (k, v) :: t else (a, b) :: (k, v) :: t)
    else if a = k then (if b = unlisted then t else (a, b) :: t)
    else (k, v) :: write t a b

/-- The canonical form from a lower bound on: keys rising above it, no listed default. -/
def wfFrom : Nat → Tbl Byte → Bool
  | _, [] => true
  | lo, (k, v) :: t => lo ≤ k && v ≠ unlisted && wfFrom (k + 1) t

/-- The canonical form. -/
def wf (m : Tbl Byte) : Bool := wfFrom 0 m

def readN (m : Tbl Byte) (a : Nat) : Nat → List Byte
  | 0 => []
  | n + 1 => read m a :: readN m (a + 1) n

def writeN (m : Tbl Byte) (a : Nat) : List Byte → Tbl Byte
  | [] => m
  | b :: bs => writeN (write m a b) (a + 1) bs

end Memory

/-! ## Elements -/

namespace Elem

def dreg (e : Elem) (n : Nat) : Quad := tget 0 e.d n
def setD (e : Elem) (n : Nat) (v : Quad) : Elem := { e with d := tput e.d n v }
def areg (e : Elem) (n : Nat) : Word := tget 0 e.a n
def setA (e : Elem) (n : Nat) (v : Word) : Elem := { e with a := tput e.a n v }
def pred (e : Elem) (n : Fin 8) : Bool := e.p.getLsbD n
def inCh (e : Elem) (n : Nat) : InChan := tget {} e.inq n
def setIn (e : Elem) (n : Nat) (c : InChan) : Elem := { e with inq := tput e.inq n c }
def outCh (e : Elem) (n : Nat) : OutChan := tget {} e.outq n
def setOut (e : Elem) (n : Nat) (c : OutChan) : Elem := { e with outq := tput e.outq n c }
def slot (e : Elem) (n : Nat) : Word := tget 0 e.slots n
def trigger (e : Elem) (n : Nat) : Dword := tget 0 e.trig n

/-- ESTAT.RUN (R17, R24): 0 Unconfigured, 1 Running, 2 Stopped, 3 Frozen. -/
def run (e : Elem) : Nat := e.estat.toNat % 4
def fslot (e : Elem) : Nat := e.estat.toNat / 2 ^ 8 % 32
def cause (e : Elem) : Nat := e.estat.toNat / 2 ^ 16 % 2 ^ 10
def setRun (e : Elem) (r : Nat) : Elem := { e with estat := .ofNat 32 (e.estat.toNat / 4 * 4 + r) }
/-- Stopped, with the slot and cause of the trap (R21). -/
def stop (e : Elem) (slot cause : Nat) : Elem := { e with estat := .ofNat 32 (cause % 1024 * 2 ^ 16 + slot % 32 * 2 ^ 8 + 2) }

/-- FPCTL.RM (R17). -/
def rm (e : Elem) : Rounding :=
  match e.fpctl.toNat % 8 with
  | 0 => .rne | 1 => .rtz | 2 => .rup | 3 => .rdn | _ => .sr

/-- The generator state as the instructions fired so far leave it: that of the last of them that takes draws (R97). -/
def srNow (e : Elem) : BitVec 32 := ((e.flights.filterMap (·.srAfter)).getLast?).getD e.srstate

/-- Bytes of the lane slice from an offset on. -/
def laneRead (e : Elem) (a n : Nat) : List Byte := Memory.readN e.lane a n
def laneWrite (e : Elem) (a : Nat) (bs : List Byte) : Elem := { e with lane := Memory.writeN e.lane a bs }

end Elem

/-- The head token that triggers see in a cycle (R12, R13). -/
def InChan.head (c : InChan) (cyc : Nat) : Option Token :=
  match c.q.drop c.reserved with
  | a :: _ => if a.seen ≤ cyc then some a.tok else none
  | [] => none

/-- Whether an output channel has a free position in a cycle (R12, R18). -/
def OutChan.free (c : OutChan) (cyc : Nat) : Bool :=
  c.q.length + (if c.freedAt = cyc then c.freedN else 0) < 2

/-- Whether the upstream sender sees a free position of an input channel in a cycle (R12). -/
def InChan.room (c : InChan) (cyc : Nat) : Bool :=
  c.q.length + (if c.freedAt = cyc then c.freedN else 0) < 4

/-- Takes the n-th position of an input channel away and says so to the sender from the next cycle on. -/
def InChan.remove (c : InChan) (cyc : Nat) : InChan :=
  { c with q := c.q.tail, reserved := c.reserved - 1, taken := c.taken + 1, freedAt := cyc, freedN := (if c.freedAt = cyc then c.freedN else 0) + 1 }

/-- Puts a token at the end of an input channel; triggers see it from the next cycle on (R12). -/
def InChan.deliver (c : InChan) (t : Token) (cyc : Nat) : InChan := { c with q := c.q ++ [⟨t, cyc + 1⟩] }

/-! ## Timestamps (R312, R314) -/

/-- Serial order of 48-bit timestamps. -/
def tsLt (t u : Stamp) : Bool := 1 ≤ (u - t).toNat && (u - t).toNat ≤ 2 ^ 47 - 1
def tsMax (t u : Stamp) : Stamp := if tsLt t u then u else t

def raiseClock (s : State) (core : Nat) (ts : Stamp) : State :=
  let c := getCore s core
  setCore s core { c with clock := tsMax c.clock ts }

/-! ## Trap queue (R175) -/

/-- A source's raise joins its waiting entry, or makes one. An element that stops while its entry holds the
overflow notice replaces the notice. -/
def raiseInto : List TrapEntry → TrapEntry → List TrapEntry
  | [], t => [t]
  | x :: xs, t =>
    if x.kind = t.kind ∧ x.src = t.src then
      if x.cause = 0x104 ∧ t.cause ≠ 0x104 then { t with repeats := min 255 (x.repeats + 1), since := x.since } :: xs
      else { x with repeats := min 255 (x.repeats + 1) } :: xs
    else x :: raiseInto xs t

def raiseTrap (s : State) (core : Nat) (t : TrapEntry) : State :=
  let c := getCore s core
  setCore s core { c with trapq := raiseInto c.trapq { t with since := s.cycle } }

/-- The order of sources whose entries arrived in one cycle: elements, then ports, then the root (R175). -/
def TrapEntry.rank (t : TrapEntry) : Nat :=
  match t.kind.toNat with
  | 1 => t.src
  | 2 => 64 + t.src
  | _ => 128 + t.src

/-- Puts events at the front of the agenda. -/
def nextUp (s : State) (is : List Instr) : State := { s with agenda := is.map Action.event ++ s.agenda }

/-- The instruction at a slot or address traps: every instruction its unit fired after it is cancelled with it, an
element stops and its trap is queued, a control element's own trap is taken at once (R21, R175). -/
def trapUnit (s : State) (u : UnitId) (slot : Nat) (word : Word) (cause : Cause) (addr : Dword) (detail : Quad)
    (deferred : Bool) : State :=
  let e := getElem s u
  if isCe u then
    let x := getCtl s u.core
    nextUp (setCtl s u.core { x with own := some ⟨cause, slot, word, addr, detail, deferred⟩ }) [.trapTaken u.core]
  else
    let e := { e.stop slot cause with faultAddr := addr, faultWord := word, deferred := deferred }
    raiseTrap (setElem s u e) u.core { kind := 1, src := u.ix, cause := cause, deferred := deferred, addr := addr }

/-! ## Taking and returning from a trap (R175 to R177, R378) -/

/-- A byte address of a core's scratchpad in the physical map (R288). -/
def cpadPa (core off : Nat) : Nat := 0x420000000000 + core * 2 ^ 19 + off

/-- ECAUSE (R179). -/
def ecauseWord (kind : BitVec 2) (src : Nat) (cause : Cause) (repeats : Nat) (deferred : Bool) : Dword :=
  .ofNat 64 (repeats % 256 * 2 ^ 32 + deferred.toNat * 2 ^ 24 + kind.toNat * 2 ^ 22 + src % 64 * 2 ^ 16 + cause % 1024)

/-- The trap record's 64 bytes (R378). -/
def trapRecord (ecause : Dword) (epc word : Word) (addr : Dword) (fslot row col flg : Nat) (detail : Quad)
    (cycle : Nat) (tnum : Dword) : List Byte :=
  leBytes 8 ecause.toNat ++ leBytes 4 epc.toNat ++ leBytes 4 word.toNat ++ leBytes 8 addr.toNat
    ++ [.ofNat 8 fslot, .ofNat 8 row, .ofNat 8 col, .ofNat 8 flg] ++ leBytes 4 0
    ++ leBytes 16 detail.toNat ++ leBytes 8 cycle ++ leBytes 8 tnum.toNat

/-- The highest TRBASE whose record fits the scratchpad (R179). -/
def trbaseMax : Nat := 0x5FFC0

/-- Enters the handler: the record at TRBASE, ECAUSE, ERES clear, HND set, the PC at TVEC, the first instruction
eight cycles later (R176). -/
def enterHandler (s : State) (core : Nat) (src : BitVec 2 × Nat) (ecause : Dword) (epc word : Word) (addr : Dword)
    (fslot row col flg : Nat) (detail : Quad) : State :=
  let x := getCtl s core
  let x := { x with ecause := ecause, epc := epc, eres := false, hnd := true, pc := x.tvec.toNat, own := none,
                    stall := s.cycle + 8, trapSrc := some src }
  let n := (getCore s core).tnum + 1
  let rec_ := trapRecord ecause epc word addr fslot row col flg detail s.cycle n
  let s := { s with mem := Memory.writeN s.mem (cpadPa core x.trbase.toNat) rec_ }
  setCore s core { getCore s core with ctl := x, tnum := n }

/-- A Stopped or Frozen unit runs again (R24). A deferred trap that it holds is delivered then (R151): it stops with it, and
what else it holds waits for the next time. -/
def letRun (s : State) (u : UnitId) : State :=
  let e := getElem s u
  match e.held with
  | [] => setElem s u (e.setRun 1)
  | h :: hs =>
    let s := setElem s u { e.setRun 1 with held := hs }
    if isCe u then
      setCtl s u.core { getCtl s u.core with own := some ⟨h.cause, (getCtl s u.core).pc, h.word, h.addr, .ofNat 128 h.slot, true⟩ }
    else trapUnit s u h.slot h.word h.cause h.addr 0 true

/-- Returns from the handler: the PC at EPC, HND clear, and a trapped element runs again unless ERES.ACT is set
(R177); the notice 0x104 changes no run state (R169). -/
def leaveHandler (s : State) (core : Nat) : State :=
  let x := getCtl s core
  let s := setCtl s core { x with hnd := false, pc := x.epc.toNat, trapSrc := none }
  match x.trapSrc with
  | some (1, el) =>
    let u : UnitId := ⟨core, el⟩
    let e := getElem s u
    if isCe u || x.eres || e.run ≠ 2 || x.ecause.toNat % 1024 = 0x104 then s else letRun s u
  | _ => s

end Sys2Proof.Machine
end

