-- ==== Sys2Proof/Machine/Flags.lean ====
section
/-! DEFINITION. Flags: FPCTL, FPFLG and SRSTATE (R17), the trap an enabled flag raises (R105), predicates (R19,
R110), and the compare flags of a walk (R216). -/

namespace Sys2Proof.Machine

open Sys2Proof

/-- The flags of an instruction merged into FPFLG when its effects become visible (R104). -/
def mergeFlags (fpflg : Word) (f : Num.Flags) : Word := fpflg ||| f.setWidth 32

/-- FPCTL's enables TNX, TUF, TOF, TDZ, TNV (bits 12 down to 8) as FPFLG orders the flags NX, UF, OF, DZ, NV (R17). -/
def enables (fpctl : Word) : BitVec 5 := (fpctl.extractLsb' 8 5).reverse

/-- The cause an instruction traps with when it raises a flag whose enable is set: 0x040 + n for the highest such
flag n (R105). SAT and CFG have no enable. -/
def flagTrap (fpctl : Word) (f : Num.Flags) : Option Cause :=
  let m := enables fpctl &&& f.setWidth 5
  if m.getLsbD 4 then some 0x044
  else if m.getLsbD 3 then some 0x043
  else if m.getLsbD 2 then some 0x042
  else if m.getLsbD 1 then some 0x041
  else if m.getLsbD 0 then some 0x040
  else none

/-- A write to FPCTL: TNV to TNX are written, and RM unless it is 5 to 7, which sets FPFLG.CFG (R17). -/
def writeFpctl (e : Elem) (v : Word) : Elem :=
  let en : Word := v &&& 0x1F00
  if v.toNat % 8 ≤ 4 then { e with fpctl := en ||| (v &&& 7) }
  else { e with fpctl := en ||| (e.fpctl &&& 7), fpflg := e.fpflg ||| 0x40 }

/-- A write of ones clears flags (R17). -/
def writeFpflg (e : Elem) (v : Word) : Elem := { e with fpflg := e.fpflg &&& ~~~(v &&& 0x7F) }

/-- A write of zero stores 1 (R17). -/
def srValue (v : Word) : Word := if v = 0 then 1 else v
def writeSrstate (e : Elem) (v : Word) : Elem := { e with srstate := srValue v }

/-- The trigger's update of the predicates: a set bit wins over a cleared one (R19). -/
def predUpdate (p pclr pset : BitVec 8) : BitVec 8 := (p &&& ~~~pclr) ||| pset

/-- An instruction's own predicate write, applied after the update, bit for bit (R19, R110). -/
def predWrite (p mask vals : BitVec 8) : BitVec 8 := (p &&& ~~~mask) ||| (vals &&& mask)

/-- The predicate bit of Pn. -/
def predBit (n : Fin 8) : BitVec 8 := 1#8 <<< n.val

/-- Per-lane comparison results reduced by MODE (R113). -/
def reduceMode (m : Reduce) (cs : List Bool) : Bool :=
  match m with
  | .all => cs.all id
  | .any => cs.any id
  | .lane0 => cs.headD false

/-- The trigger's predicate test (R18 condition 2). -/
def predTest (p pmask pval : BitVec 8) : Bool := (p &&& pmask) = (pval &&& pmask)

end Sys2Proof.Machine
end

