-- ==== Sys2Proof/Machine/Operands.lean ====
section
/-! DEFINITION. Operands: lanes (R5, R38), the operand forms of R35 and R36, the tag rule (R37), what an instruction
needs before it fires (R18), and firing itself (R13, R14, R18, R19). -/

namespace Sys2Proof.Machine

open Sys2Proof

/-! ## Lanes -/

/-- Lane width in bits of a lane type (R38). -/
def LaneType.width : LaneType → Nat
  | .i64x2 | .n64x2 | .f64x2 => 64
  | .i32x4 | .n32x4 | .f32x4 => 32
  | .i16x8 | .n16x8 | .bf16x8 | .f16x8 => 16
  | .i8x16 | .n8x16 => 8
  | .s128 => 128

/-- The i types are signed (R104). -/
def LaneType.signed (t : LaneType) : Bool := t.isSignedInt

/-- The format of a floating-point lane type. -/
def LaneType.fp? : LaneType → Option Num.Fp
  | .f64x2 => some .fp64 | .f32x4 => some .fp32 | .bf16x8 => some .bf16 | .f16x8 => some .fp16
  | _ => none

/-- n lanes of w bits of a number, lane 0 least significant (R5). -/
def splitLanes (w : Nat) : Nat → Nat → List Nat
  | 0, _ => []
  | n + 1, x => x % 2 ^ w :: splitLanes w n (x / 2 ^ w)

/-- The number whose w-bit lanes are given, lane 0 least significant. -/
def joinLanes (w : Nat) : List Nat → Nat
  | [] => 0
  | x :: xs => x % 2 ^ w + 2 ^ w * joinLanes w xs

def lanes (w : Nat) (q : Quad) : List Nat := splitLanes w (128 / w) q.toNat
def ofLanes (w : Nat) (xs : List Nat) : Quad := .ofNat 128 (joinLanes w xs)

/-- The low 64 bits: lane 0 of a 64-bit operand. -/
def lo64 (q : Quad) : Nat := q.toNat % 2 ^ 64

/-! ## Operand forms -/

/-- The channel an operand reads. -/
def Src.chan : Src → Option (Fin 4)
  | .inp n | .pk n => some n
  | _ => none

/-- The channel an operand consumes (R13). -/
def Src.eats : Src → Option (Fin 4)
  | .inp n => some n
  | _ => none

/-- The byte offset in the lane slice that operand codes 0x1D and 0x1E reach (R15). -/
def laneOff (e : Elem) (n : Fin 2) : Nat := (e.areg n).toNat / 16 % 512 * 16

/-- A 16-byte word of the lane slice. -/
def laneWord (e : Elem) (n : Fin 2) : Quad := .ofNat 128 (leNat (e.laneRead (laneOff e n) 16))

/-- The head token an operand reads, a zero token where there is none. -/
def headTok (e : Elem) (cyc : Nat) (n : Fin 4) : Token := ((e.inCh n).head cyc).getD {}

/-- The value a source operand reads at firing (R35, R36). -/
def readSrc (e : Elem) (cyc : Nat) : Src → Quad
  | .d n => e.dreg n
  | .inp n | .pk n => (headTok e cyc n).payload
  | .zero => 0
  | .ls n => laneWord e n
  | .ones => BitVec.allOnes 128

/-- The value of DST read as a third source (R33). -/
def readDst (e : Elem) : Dst → Quad
  | .d n => e.dreg n
  | .ls n => laneWord e n
  | _ => 0

/-- The tag rule of R37 for a result whose first operand is given. -/
def tagOf (e : Elem) (cyc : Nat) (a : Src) : BitVec 3 :=
  match Src.chan a with
  | some n => (headTok e cyc n).tag
  | none => 0

/-- The effect of writing a result to a destination (R35, R36): the ticket is the place of its output position. -/
def dstActs (e : Elem) (ticket : Nat) (d : Dst) (tag : BitVec 3) (v : Quad) : List Act :=
  match d with
  | .d n => [.d n v]
  | .out c => [.out c ticket ⟨v, tag⟩]
  | .ls n => [.lane (laneOff e n) (leBytes 16 v.toNat)]
  | .nul => []

/-- Where a reply goes (R148). -/
def replySink (ticket : Nat) (d : Dst) (tag : BitVec 3) : Sink :=
  match d with
  | .d n => .d n
  | .out c => .out c ticket tag
  | .ls _ | .nul => .nul

/-- The register that stays pending until the reply (R20). -/
def Dst.bits : Dst → BitVec 16
  | .d n => 1#16 <<< n.val
  | _ => 0

/-! ## What an instruction needs -/

/-- The operands, registers, predicates, outputs and queue that conditions 4 to 8 of R18 look at. -/
structure Need where
  srcs : List Src := []
  /-- D registers read beside the sources: packets, index and compare registers. -/
  dregs : BitVec 16 := 0
  wD : BitVec 16 := 0
  aR : BitVec 4 := 0
  aW : BitVec 4 := 0
  pR : BitVec 8 := 0
  pW : BitVec 8 := 0
  outs : List (Fin 4) := []
  laneR : Bool := false
  laneW : Bool := false
  /-- Lane-slice operand codes whose A register is range-checked at firing (R15). -/
  ls : List (Fin 2) := []
  /-- The queue a command is for, its class, and whether it waits for room. -/
  port : Option (Nat × Bool × Bool) := none
  /-- The configuration queue (R185). -/
  config : Bool := false
  /-- The scoreboard bits that must be clear (R187). -/
  psb : List Nat := []
  /-- Names a system register (R173). -/
  sysreg : Bool := false
deriving DecidableEq, Repr

def dbit (n : Nat) : BitVec 16 := 1#16 <<< n
def abit (n : Nat) : BitVec 4 := 1#4 <<< n

/-- Adds a source operand's needs. -/
def Need.src (n : Need) (a : Src) : Need :=
  match a with
  | .d k => { n with srcs := a :: n.srcs, dregs := n.dregs ||| dbit k }
  | .ls k => { n with srcs := a :: n.srcs, aR := n.aR ||| abit k, laneR := true, ls := k :: n.ls }
  | _ => { n with srcs := a :: n.srcs }

/-- Adds a destination operand's needs. -/
def Need.dst (n : Need) (d : Dst) : Need :=
  match d with
  | .d k => { n with wD := n.wD ||| dbit k }
  | .out c => { n with outs := c :: n.outs }
  | .ls k => { n with aR := n.aR ||| abit k, laneW := true, ls := k :: n.ls }
  | .nul => n

/-- Adds DST as a third source (R33). -/
def Need.third (n : Need) (d : Dst) : Need :=
  match d with
  | .d k => { n with dregs := n.dregs ||| dbit k }
  | .ls _ => { n with laneR := true }
  | _ => n

def need1 (d : Dst) (a : Src) : Need := (({} : Need).src a).dst d
def need2 (d : Dst) (a b : Src) : Need := ((({} : Need).src a).src b).dst d
def need3 (d : Dst) (a b : Src) : Need := (need2 d a b).third d
def needP (p : Fin 8) (a b : Src) : Need := { (({} : Need).src a).src b with pW := predBit p }

/-- The packet registers D(a) to D(a + n) of R44. -/
def packetBits (a n : Nat) : BitVec 16 := .ofNat 16 ((2 ^ (n + 1) - 1) * 2 ^ a)

/-- The target of fwd: the base output and two bits of OPB (R107). -/
def fwdTarget (base : Fin 4) (b : Quad) : Fin 4 := Fin.ofNat 4 (base.val + b.toNat % 4)

/-- The outputs a mask selects. -/
def maskOuts (m : BitVec 4) : List (Fin 4) := ([0, 1, 2, 3] : List (Fin 4)).filter fun n => m.getLsbD n

/-- RESUME and ABORT to an engine take no queue entry (R195, R213, R259). -/
def noEntry (port : Nat) (w : Quad) : Bool :=
  (port ≤ 7 || (12 ≤ port && port ≤ 16)) && (w.toNat % 256 = 0x0D || w.toNat % 256 = 0x0E)

/-- What an element's or control element's instruction needs. -/
def needOf (e : Elem) (cyc : Nat) (i : Instr) : Need :=
  match i with
  | .nop => {}
  | .mov d a | .tagget d a | .tagset d a _ | .done d a => need1 d a
  | .movi d _ | .lit _ d _ => ({} : Need).dst d
  | .fwd n a b => { (({} : Need).src a).src b with outs := [fwdTarget n (readSrc e cyc b)] }
  | .dup m a => { ({} : Need).src a with outs := maskOuts m }
  | .drop a => ({} : Need).src a
  | .pset p _ => { pW := predBit p }
  | .psetNz p a | .psetZ p a => { ({} : Need).src a with pW := predBit p }
  | .plog p a b _ => { pW := predBit p, pR := predBit a ||| predBit b }
  | .sel d a b p _ => { need2 d a b with pR := predBit p }
  | .add _ d a b | .sub _ d a b | .mul _ d a b | .mulh _ d a b | .div _ d a b | .rem _ d a b | .and _ d a b
  | .or _ d a b | .xor _ d a b | .andn _ d a b | .shl _ d a b | .shr _ d a b | .sha _ d a b | .rot _ d a b
  | .min _ d a b | .max _ d a b | .adds _ d a b | .subs _ d a b | .lea _ d a b | .dot4 _ d a b | .bfx _ d a b
  | .shuf _ d a b | .bcast _ d a b | .ext _ d a b | .pack _ d a b | .vcomb _ d a b | .pscan _ d a b | .lscan _ d a b
  | .mskidx _ d a b | .fadd _ d a b | .fsub _ d a b | .fmul _ d a b | .fmin _ d a b | .fmax _ d a b | .fdiv _ d a b
  | .split3 _ d a b | .fdot2 _ d a b | .qmxEnc _ d a b | .dqmx _ d a b => need2 d a b
  | .mad _ d a b | .ins _ d a b | .fma _ d a b | .fms _ d a b | .fnma _ d a b => need3 d a b
  | .addi d a _ | .shli d a _ _ | .shri d a _ _ | .abs _ d a | .neg _ d a | .clz _ d a | .popc _ d a | .rsum _ d a
  | .rmax _ d a | .rmin _ d a | .unpkLo _ d a | .unpkHi _ d a | .vconf _ d a | .fabs _ d a | .fneg _ d a
  | .fsqrt _ d a | .cvt _ _ _ d a | .cvti _ _ _ d a | .cvtf _ _ _ d a | .qmxScale _ d a | .fclass _ d a | .frcp _ d a
  | .frsq _ d a | .fexp2 _ d a | .flog2 _ d a | .fsig _ d a | .ftanh _ d a | .fsin _ d a | .fcos _ d a => need1 d a
  | .cmpEq _ _ p a b | .cmpLt _ _ p a b | .cmpLe _ _ p a b | .fcmpEq _ _ p a b | .fcmpLt _ _ p a b
  | .fcmpLe _ _ p a b | .fcmpUn _ _ p a b => needP p a b
  | .lsld _ m d n => { ({} : Need).dst d with aR := (({} : Need).dst d).aR ||| abit n, laneR := true, aW := if m = .none then 0 else abit n }
  | .lsst _ m n b => { ({} : Need).src b with aR := (({} : Need).src b).aR ||| abit n, laneW := true, aW := if m = .none then 0 else abit n }
  | .lsldx _ d n b => { (({} : Need).src b).dst d with aR := ((({} : Need).src b).dst d).aR ||| abit n, laneR := true }
  | .lsstx _ k n b => { ({} : Need).src b with aR := (({} : Need).src b).aR ||| abit n, laneW := true,
                                               dregs := (({} : Need).src b).dregs ||| dbit k }
  | .aset n a _ => { ({} : Need).src a with aW := abit n }
  | .aadd n a _ => { ({} : Need).src a with aR := (({} : Need).src a).aR ||| abit n, aW := abit n }
  | .ldq _ _ d a b | .stq _ _ d a b | .ldqx _ _ d a b | .monarm _ d a b | .atom _ d a b => need2 d a b
  | .stqp _ _ a b => (({} : Need).src a).src b
  | .stqx _ _ k a b => { (({} : Need).src a).src b with dregs := ((({} : Need).src a).src b).dregs ||| dbit k }
  | .pref _ a => ({} : Need).src a
  | .cas _ k a b => { (({} : Need).src a).src b with dregs := ((({} : Need).src a).src b).dregs ||| dbit k, wD := dbit k }
  | .barArr d a => need1 d a
  | .barArrN d a b | .barArrInit d a b | .barWaitPar d a b => need2 d a b
  | .barWaitFull d a b p => { need2 d a b with pW := if p = 0 then 0 else predBit p }
  | .tlWait _ d a | .tlSig _ d a => need1 d a
  | .cwait d _ | .fence _ d => ({} : Need).dst d
  | .send p a n sg nb =>
    { dregs := packetBits a n, port := if noEntry p (e.dreg a) then none else some (p, sg, nb.isNone),
      pW := match nb with | some k => predBit k | none => 0 }
  | .sendw p a n sg nb c =>
    { dregs := packetBits a n, wD := dbit c, port := if noEntry p (e.dreg a) then none else some (p, sg, !nb) }
  | .cfgEng p a n c => { dregs := packetBits a n, wD := dbit c, port := some (p, false, true) }
  | .cfgFab a n c | .cfgPhase a n c => { dregs := packetBits a n, wD := dbit c, config := true }
  | .sbind se a n c => { dregs := packetBits a n, wD := dbit c, psb := [se.val, 8, 9, 10, 11, 16],
                         port := some (se, false, true) }
  | .br _ | .sysTrap _ => {}
  | .sysEret => { sysreg := true }
  | .sysCall d a => need1 (.d d) a
  | .sysRet a => ({} : Need).src a
  | .sysSysrd d a => { need1 d a with sysreg := true }
  | .sysSyswr a b => { (({} : Need).src a).src b with sysreg := true }
  | .sysSleep d a b => need2 d a b
  | .sysScnext d p => { wD := dbit d ||| dbit (d.val + 1), pW := predBit p, sysreg := true }
  | .sysRewire d a => need1 (.d d) a
  | .sysLayoutv d a => need1 d a
  | .loop d _ => { dregs := dbit d, wD := dbit d }
  | _ => {}

/-! ## Trigger entries (R39) -/

def trigPset (t : Dword) : BitVec 8 := t.extractLsb' 56 8
def trigPclr (t : Dword) : BitVec 8 := t.extractLsb' 48 8
def trigPmask (t : Dword) : BitVec 8 := t.extractLsb' 40 8
def trigPval (t : Dword) : BitVec 8 := t.extractLsb' 32 8
def trigDrp (t : Dword) : BitVec 4 := t.extractLsb' 24 4
/-- The channel condition CCn of R39: NEED, MODE and TAG. -/
def trigNeed (t : Dword) (n : Nat) : Bool := t.getLsbD (6 * n + 5)
def trigMode (t : Dword) (n : Nat) : Nat := (t.extractLsb' (6 * n + 3) 2).toNat
def trigTag (t : Dword) (n : Nat) : BitVec 3 := t.extractLsb' (6 * n) 3

/-- One channel condition (R18 condition 3, R39). -/
def chanTest (e : Elem) (cyc : Nat) (t : Dword) (n : Fin 4) : Bool :=
  !trigNeed t n ||
    match (e.inCh n).head cyc with
    | none => false
    | some k =>
      match trigMode t n with
      | 0 => true
      | 1 => k.tag = trigTag t n
      | 2 => k.tag ≥ trigTag t n
      | _ => false

/-- The trigger entry that gates a word: a control element has none. -/
def gate (e : Elem) (ce : Bool) (word : Word) : Dword := if ce then 0 else e.trigger (trgOf word.toNat)

/-- Conditions 2 and 3 of R18; the predicates tested or updated must not be pending (condition 6). -/
def triggered (e : Elem) (cyc : Nat) (t : Dword) : Bool :=
  predTest e.p (trigPmask t) (trigPval t) && ([0, 1, 2, 3] : List (Fin 4)).all (chanTest e cyc t)

/-! ## Readiness (R18 conditions 4 to 8, R26) -/

/-- The channels an instruction consumes: its consume operands and its trigger's DRP bits (R13, R39). -/
def eaten (need : Need) (t : Dword) : BitVec 4 :=
  need.srcs.foldl (fun m a => match Src.eats a with | some n => m ||| abit n | none => m) (trigDrp t)

/-- The channels an instruction reads or consumes (R18 condition 4). -/
def touched (need : Need) (t : Dword) : BitVec 4 :=
  need.srcs.foldl (fun m a => match Src.chan a with | some n => m ||| abit n | none => m) (trigDrp t)

/-- Conditions 4 to 7 of R18. -/
def operandsReady (e : Elem) (cyc : Nat) (need : Need) (t : Dword) : Bool :=
  (([0, 1, 2, 3] : List (Fin 4)).all fun n => !(touched need t).getLsbD n || ((e.inCh n).head cyc).isSome)
    && need.outs.all (fun n => (e.outCh n).free cyc)
    && (e.pendD &&& (need.dregs ||| need.wD)) = 0
    && (e.pendA &&& (need.aR ||| need.aW)) = 0
    && (e.pendP &&& (trigPmask t ||| trigPset t ||| trigPclr t ||| need.pR ||| need.pW)) = 0
    && !((need.laneR || need.laneW) && e.pendLane)

/-- Free entries of a queue: 32 in all, those taken at firing counted (R167). -/
def Queue.freeEntries (q : Queue) : Nat := 32 - (q.q.length + q.taken)

/-- Whether a queue has an entry that a command may use: the 4 reserved ones are for the signal class (R44). -/
def Queue.hasRoom (q : Queue) (sig : Bool) : Bool := if sig then q.freeEntries > 0 else q.freeEntries > 4

/-- The configuration queue stands under port 20; it has 8 entries (R185). -/
def configPort : Nat := 20
def Queue.configRoom (q : Queue) : Bool := q.q.length + q.taken < 8

/-- Commands outstanding on a scoreboard bit (R187). -/
def Core.psbBusy (c : Core) (n : Nat) : Bool := tget 0 c.psb n ≠ 0

/-- A syswr or eret of this control element not yet visible (R173). -/
def sysInFlight (e : Elem) : Bool :=
  e.flights.any fun f => f.acts.any fun a => match a with | .sys _ => true | _ => false

/-- A control transfer not yet visible (R171). -/
def jumpInFlight (e : Elem) : Bool :=
  e.flights.any fun f => f.acts.any fun a => match a with | .jump _ | .sys .eret => true | _ => false

/-- A port whose head command makes no progress until the control element sends a RESUME or ABORT (R189). -/
def Core.parked (c : Core) (port : Nat) : Bool :=
  if port = 12 then c.mn.stopped ≠ 0
  else if port = 16 then
    c.walks.length ≥ 16 &&
      c.walks.any fun w => w.2.parked && c.walks.all fun v => w.2.age ≤ v.2.age
  else (tget {} c.engines port : Engine).state = 2

/-- A blocking command of the control element that would wait for itself (R189). -/
def Core.deadlocked (c : Core) (ce : Bool) (port : Nat) : Bool := ce && (c.ctl.hnd || c.ctl.msk) && c.parked port

/-- The scoreboard bit that a configuration command sets at its V (R187): a phase command sets none. -/
def cmdBit (port : Nat) (packet : List Quad) : Option Nat :=
  if port < 16 then some port else if (packet.getD 0 0).toNat / 2 ^ 64 ≠ 0 then some 16 else none

/-- A cfg or sbind that has fired and will set a scoreboard bit at its V: what waits for the bit waits for it too (R187). -/
def Core.psbComing (c : Core) (n : Nat) : Bool :=
  (tget {} c.elems ceIx : Elem).flights.any fun f => f.acts.any fun a =>
    match a with | .command p m => m.conf && cmdBit p m.packet = some n | _ => false

/-- Condition 8 of R18 but for arbitration; a command that traps 0x305 does not wait. The SIG bit, not the code, says which
entries a command may use: where the two differ, it fires and traps 0x00E (R44; DESIGN CHOICE, log entry 44). -/
def queueReady (c : Core) (ce : Bool) (need : Need) : Bool :=
  (match need.port with
    | some (p, sg, wait) => !wait || (c.queue p).hasRoom sg || c.deadlocked ce p
    | none => true)
  && (!need.config || (c.queue configPort).configRoom)
  && need.psb.all fun n => !c.psbBusy n && !c.psbComing n

/-- Whether a unit can fire at all: it runs, it has not fired in this cycle, and a control element is neither
sleeping, nor stalled by a control transfer or a trap (R18, R24, R26, R171, R176). -/
def unitReady (s : State) (u : UnitId) : Bool :=
  let e := getElem s u
  e.run = 1 && e.firedAt ≠ some s.cycle &&
    (!isCe u ||
      let x := getCtl s u.core
      !x.stopped && x.own.isNone && x.sleep.isNone && x.stall ≤ s.cycle && !jumpInFlight e)

/-- All of R18 but arbitration, for the instruction of a word: a fabric element's trigger, its operands and its queue. -/
def ready (s : State) (u : UnitId) (word : Word) (i : Instr) : Bool :=
  let e := getElem s u
  let t := gate e (isCe u) word
  let need := needOf e s.cycle i
  unitReady s u && triggered e s.cycle t && operandsReady e s.cycle need t && queueReady (getCore s u.core) (isCe u) need
    && !(need.sysreg && sysInFlight e)

/-! ## Firing -/

/-- What an instruction that fires will do at its V. -/
structure Fired where
  acts : List Act
  flags : Num.Flags := 0
  sr : Option (BitVec 32) := none
  keepD : BitVec 16 := 0
  /-- Destination registers that it leaves alone after all (R182). -/
  spare : BitVec 16 := 0
  /-- What happens in the firing cycle itself: an engine accepts RESUME or ABORT (R195), a sleep begins (R181). -/
  events : List Instr := []
  sleep : Option Sleep := none
deriving DecidableEq, Repr

/-- What an instruction computes at firing: its effects, or the cause it traps with at firing, with the faulting
address. -/
abbrev Firing := Except (Cause × Dword) Fired

/-- Reserves the positions an instruction needs in its outputs (R14). -/
def reserveOuts (e : Elem) (outs : List (Fin 4)) (ticket : Nat) : Elem :=
  outs.foldl (fun (e : Elem) (n : Fin 4) => let c := e.outCh n; e.setOut n { c with q := c.q ++ [{ ticket := ticket, tok := none }] }) e

/-- Reserves the head tokens an instruction consumes (R13). -/
def reserveIns (e : Elem) (m : BitVec 4) : Elem :=
  ([0, 1, 2, 3] : List (Fin 4)).foldl (fun (e : Elem) (n : Fin 4) =>
    if m.getLsbD n then let c := e.inCh n; e.setIn n { c with reserved := c.reserved + 1 } else e) e

/-- The number of words an instruction's address advances by (R26). -/
def Instr.bytes : Instr → Nat
  | .lit _ _ _ => 8
  | _ => 4

/-- The last V of the unit: that of the instruction it fired last (R19). -/
def Elem.prevV (e : Elem) : Nat :=
  match e.flights.getLast? with
  | some f => f.vis
  | none => e.lastV

/-- Lane 0, bits 63:0, of the n-th source operand as read at firing (R390). -/
def laneOp (e : Elem) (cyc : Nat) (need : Need) (n : Nat) : Dword :=
  match need.srcs.reverse[n]? with
  | some a => (readSrc e cyc a).setWidth 64
  | none => 0

/-- The element with an instruction between its firing and its V: operands reserved, pending bits set (R18, R19). -/
def launchFlight (e : Elem) (cyc slot : Nat) (word : Word) (t : Dword) (need : Need) (lat : Nat) (r : Fired) : Elem :=
  let f : Flight :=
    { vis := max (cyc + lat) e.prevV, slot := slot, word := word, consume := eaten need t,
      outs := need.outs.map fun n => (n, e.tickets), pset := trigPset t, pclr := trigPclr t,
      pendD := need.wD &&& ~~~r.spare, pendA := need.aW, pendP := trigPset t ||| trigPclr t ||| need.pW, pendLane := need.laneW,
      flags := r.flags, srAfter := r.sr, acts := r.acts, keepD := r.keepD,
      opa := laneOp e cyc need 0, opb := laneOp e cyc need 1, trap := flagTrap e.fpctl r.flags }
  let e := reserveIns (reserveOuts e need.outs e.tickets) f.consume
  { e with flights := e.flights ++ [f], firedAt := some cyc, tickets := e.tickets + 1, pendD := e.pendD ||| f.pendD,
           pendA := e.pendA ||| f.pendA, pendP := e.pendP ||| f.pendP, pendLane := e.pendLane || f.pendLane }

/-- Lane-slice operand codes whose A register lies beyond the slice (R15). -/
def laneFault (e : Elem) (need : Need) : Bool := need.ls.any fun n => (e.areg n).toNat ≥ 2 ^ 13

/-- Commands take their queue entries at firing (R167). -/
def takeEntries (s : State) (u : UnitId) (acts : List Act) : State :=
  acts.foldl (fun s a =>
    match a with
    | .command p _ =>
      let c := getCore s u.core
      let q := c.queue p
      setCore s u.core (c.setQueue p { q with taken := q.taken + 1, acceptAt := some s.cycle, lastIssuer := u.ix })
    | _ => s) s

/-- The instruction fires: it traps at firing, or it is in flight until its V. A control element's PC moves on. -/
def fireAt (s : State) (u : UnitId) (slot : Nat) (word : Word) (i : Instr) (lat : Nat)
    (f : Elem → Nat → Firing) : State :=
  let e := getElem s u
  let t := gate e (isCe u) word
  let need := needOf e s.cycle i
  let trap (c : Cause) (a : Dword) : State :=
    trapUnit (setElem s u { e with firedAt := some s.cycle }) u slot word c a 0 false
  if laneFault e need then trap 0x081 0
  else match f e e.tickets with
    | .error (c, a) => trap c a
    | .ok r =>
      let s := takeEntries (setElem s u (launchFlight e s.cycle slot word t need lat r)) u r.acts
      let s := nextUp s r.events
      if isCe u then
        let x := getCtl s u.core
        setCtl s u.core { x with pc := slot + Instr.bytes i, sleep := r.sleep <|> x.sleep }
      else s

/-- An element's or control element's instruction: where its unit is not ready it waits, and nothing changes (R18). -/
def fire (s : State) (i : Instr) (lat : Nat) (f : Elem → Nat → Firing) : Outcome :=
  match s.actor with
  | .unit u slot word => .next (if ready s u word i then fireAt s u slot word i lat f else s)
  | _ => .next s

/-- What a computing instruction reads at firing: its operands, its rounding mode and its generator. -/
structure Reads where
  e : Elem
  cyc : Nat

def Reads.v (r : Reads) (a : Src) : Quad := readSrc r.e r.cyc a
def Reads.rm (r : Reads) : Rounding := r.e.rm

/-- The generator as an instruction's draws leave it, if it takes any: a draw always changes it (R97). -/
def drawn (e : Elem) (sr : BitVec 32) : Option (BitVec 32) := if sr = e.srNow then none else some sr

/-- Fires an instruction whose one result goes to a destination, with the tag of its first operand (R37). -/
def fireTo (s : State) (i : Instr) (lat : Nat) (d : Dst) (a : Src) (f : Reads → Num.Env → Quad × Num.Env) : Outcome :=
  fire s i lat fun e ticket =>
    let (v, env) := f ⟨e, s.cycle⟩ { flags := 0, sr := e.srNow }
    .ok { acts := dstActs e ticket d (tagOf e s.cycle a) v, flags := env.flags, sr := drawn e env.sr }

/-- As fireTo, for an instruction that raises no flag and takes no draw. -/
def fireQ (s : State) (i : Instr) (lat : Nat) (d : Dst) (a : Src) (f : Reads → Quad) : Outcome :=
  fireTo s i lat d a fun r env => (f r, env)

/-- Fires an instruction that writes one predicate (R110). -/
def fireP (s : State) (i : Instr) (lat : Nat) (p : Fin 8) (f : Reads → Num.Env → Bool × Num.Env) : Outcome :=
  fire s i lat fun e _ =>
    let (b, env) := f ⟨e, s.cycle⟩ { flags := 0, sr := e.srNow }
    .ok { acts := [.p (predBit p) (if b then predBit p else 0)], flags := env.flags, sr := drawn e env.sr }

end Sys2Proof.Machine
end

