-- ==== Sys2Proof/Machine/Int.lean ====
section
/-! DEFINITION. Integer and address arithmetic, and the integer comparisons (R104, R113 to R119). -/

namespace Sys2Proof.Machine

open Sys2Proof

/-- A lane as an integer: two's complement in the i types, unsigned in the n types (R104). -/
def laneInt (t : LaneType) (x : Nat) : Int := if LaneType.signed t then Num.toSigned x (LaneType.width t) else x

/-- The low bits of an integer result (R104). -/
def wrapLane (t : LaneType) (k : Int) : Nat := Num.wrap k (LaneType.width t)

/-- lane[i] <- f(a[i], b[i]). -/
def map2 (w : Nat) (f : Nat → Nat → Nat) (a b : Quad) : Quad := ofLanes w (List.zipWith f (lanes w a) (lanes w b))

/-- lane[i] <- f(a[i]). -/
def map1 (w : Nat) (f : Nat → Nat) (a : Quad) : Quad := ofLanes w ((lanes w a).map f)

/-- A two-source lane instruction of one cycle. -/
def lane2 (s : State) (i : Instr) (t : LaneType) (d : Dst) (a b : Src) (f : Nat → Nat → Nat) : Outcome :=
  fireQ s i 1 d a fun r => map2 (LaneType.width t) f (r.v a) (r.v b)

/-- A one-source lane instruction of one cycle. -/
def lane1 (s : State) (i : Instr) (t : LaneType) (d : Dst) (a : Src) (f : Nat → Nat) : Outcome :=
  fireQ s i 1 d a fun r => map1 (LaneType.width t) f (r.v a)

def execAdd (t : LaneType) (d : Dst) (a b : Src) (s : State) : Outcome :=
  lane2 s (.add t d a b) t d a b fun x y => wrapLane t (x + y)

def execSub (t : LaneType) (d : Dst) (a b : Src) (s : State) : Outcome :=
  lane2 s (.sub t d a b) t d a b fun x y => wrapLane t ((x : Int) - y)

/-- addi: every 64-bit lane plus a signed immediate (R117). -/
def execAddi (d : Dst) (a : Src) (i : BitVec 9) (s : State) : Outcome :=
  fireQ s (.addi d a i) 1 d a fun r => map1 64 (fun x => Num.wrap (x + i.toInt) 64) (r.v a)

def execMul (t : LaneType) (d : Dst) (a b : Src) (s : State) : Outcome :=
  lane2 s (.mul t d a b) t d a b fun x y => wrapLane t (x * y)

/-- mulh: the high half of the exact product (R114). -/
def execMulh (t : LaneType) (d : Dst) (a b : Src) (s : State) : Outcome :=
  lane2 s (.mulh t d a b) t d a b fun x y =>
    wrapLane t ((laneInt t x * laneInt t y).fdiv (2 ^ LaneType.width t : Nat))

/-- mad: DST is a third source (R119). -/
def execMad (t : LaneType) (d : Dst) (a b : Src) (s : State) : Outcome :=
  fireQ s (.mad t d a b) 1 d a fun r =>
    let w := LaneType.width t
    map2 w (fun x y => wrapLane t (x + y)) (readDst r.e d) (map2 w (fun x y => wrapLane t (x * y)) (r.v a) (r.v b))

/-- One quotient of R115: towards zero; all ones by zero. -/
def quotient (t : LaneType) (x y : Nat) : Nat :=
  if y = 0 then 2 ^ LaneType.width t - 1 else wrapLane t ((laneInt t x).tdiv (laneInt t y))

/-- One remainder of R115: the sign of the dividend; the dividend by zero. -/
def remainder (t : LaneType) (x y : Nat) : Nat :=
  if y = 0 then x else wrapLane t ((laneInt t x).tmod (laneInt t y))

/-- DZ, once, when any lane divides by zero (R115). -/
def zeroFlag (t : LaneType) (b : Quad) : Num.Flags := if (lanes (LaneType.width t) b).any (· = 0) then Num.fDZ else 0

def execDiv (t : LaneType) (d : Dst) (a b : Src) (s : State) : Outcome :=
  fireTo s (.div t d a b) 16 d a fun r env =>
    (map2 (LaneType.width t) (quotient t) (r.v a) (r.v b), env.raise (zeroFlag t (r.v b)))

def execRem (t : LaneType) (d : Dst) (a b : Src) (s : State) : Outcome :=
  fireTo s (.rem t d a b) 16 d a fun r env =>
    (map2 (LaneType.width t) (remainder t) (r.v a) (r.v b), env.raise (zeroFlag t (r.v b)))

def execAnd (t : LaneType) (d : Dst) (a b : Src) (s : State) : Outcome :=
  fireQ s (.and t d a b) 1 d a fun r => r.v a &&& r.v b
def execOr (t : LaneType) (d : Dst) (a b : Src) (s : State) : Outcome :=
  fireQ s (.or t d a b) 1 d a fun r => r.v a ||| r.v b
def execXor (t : LaneType) (d : Dst) (a b : Src) (s : State) : Outcome :=
  fireQ s (.xor t d a b) 1 d a fun r => r.v a ^^^ r.v b
def execAndn (t : LaneType) (d : Dst) (a b : Src) (s : State) : Outcome :=
  fireQ s (.andn t d a b) 1 d a fun r => r.v a &&& ~~~(r.v b)

/-- Shifts of a w-bit lane by a whole lane's count (R116). -/
def shiftLeft (w x c : Nat) : Nat := if c ≥ w then 0 else x * 2 ^ c % 2 ^ w
def shiftRight (w x c : Nat) : Nat := if c ≥ w then 0 else x / 2 ^ c
def shiftArith (w x c : Nat) : Nat := Num.wrap ((Num.toSigned x w).fdiv (2 ^ min c w : Nat)) w
def rotateLeft (w x c : Nat) : Nat := (x * 2 ^ (c % w) + x / 2 ^ (w - c % w)) % 2 ^ w

def execShl (t : LaneType) (d : Dst) (a b : Src) (s : State) : Outcome :=
  lane2 s (.shl t d a b) t d a b (shiftLeft (LaneType.width t))
def execShr (t : LaneType) (d : Dst) (a b : Src) (s : State) : Outcome :=
  lane2 s (.shr t d a b) t d a b (shiftRight (LaneType.width t))
def execSha (t : LaneType) (d : Dst) (a b : Src) (s : State) : Outcome :=
  lane2 s (.sha t d a b) t d a b (shiftArith (LaneType.width t))
def execRot (t : LaneType) (d : Dst) (a b : Src) (s : State) : Outcome :=
  lane2 s (.rot t d a b) t d a b (rotateLeft (LaneType.width t))

def ShiftWidth.bits : ShiftWidth → Nat | .w64 => 64 | .w32 => 32 | .w16 => 16 | .w8 => 8

def execShli (d : Dst) (a : Src) (w : ShiftWidth) (c : BitVec 7) (s : State) : Outcome :=
  fireQ s (.shli d a w c) 1 d a fun r =>
    map1 (ShiftWidth.bits w) (fun x => shiftLeft (ShiftWidth.bits w) x c.toNat) (r.v a)
def execShri (d : Dst) (a : Src) (w : ShiftWidth) (c : BitVec 7) (s : State) : Outcome :=
  fireQ s (.shri d a w c) 1 d a fun r =>
    map1 (ShiftWidth.bits w) (fun x => shiftRight (ShiftWidth.bits w) x c.toNat) (r.v a)

def execMin (t : LaneType) (d : Dst) (a b : Src) (s : State) : Outcome :=
  lane2 s (.min t d a b) t d a b fun x y => if laneInt t x ≤ laneInt t y then x else y
def execMax (t : LaneType) (d : Dst) (a b : Src) (s : State) : Outcome :=
  lane2 s (.max t d a b) t d a b fun x y => if laneInt t x ≤ laneInt t y then y else x

def execAbs (t : LaneType) (d : Dst) (a : Src) (s : State) : Outcome :=
  lane1 s (.abs t d a) t d a fun x => wrapLane t (laneInt t x).natAbs
def execNeg (t : LaneType) (d : Dst) (a : Src) (s : State) : Outcome :=
  lane1 s (.neg t d a) t d a fun x => wrapLane t (-(x : Int))

/-- Leading zero bits of a w-bit lane (R118). -/
def leadingZeros (w x : Nat) : Nat := if x = 0 then w else w - 1 - Nat.log2 x
/-- One bits among the low w bits. -/
def ones : Nat → Nat → Nat
  | 0, _ => 0
  | w + 1, x => x % 2 + ones w (x / 2)

def execClz (t : LaneType) (d : Dst) (a : Src) (s : State) : Outcome :=
  lane1 s (.clz t d a) t d a (leadingZeros (LaneType.width t))
def execPopc (t : LaneType) (d : Dst) (a : Src) (s : State) : Outcome :=
  lane1 s (.popc t d a) t d a (ones (LaneType.width t))

/-- The per-lane results of a comparison (R113). -/
def compareLanes (t : LaneType) (f : Int → Int → Bool) (a b : Quad) : List Bool :=
  List.zipWith (fun x y => f (laneInt t x) (laneInt t y)) (lanes (LaneType.width t) a) (lanes (LaneType.width t) b)

def execCmpEq (t : LaneType) (m : Reduce) (p : Fin 8) (a b : Src) (s : State) : Outcome :=
  fireP s (.cmpEq t m p a b) 1 p fun r env => (reduceMode m (compareLanes t (fun x y => x = y) (r.v a) (r.v b)), env)
def execCmpLt (t : LaneType) (m : Reduce) (p : Fin 8) (a b : Src) (s : State) : Outcome :=
  fireP s (.cmpLt t m p a b) 1 p fun r env => (reduceMode m (compareLanes t (fun x y => x < y) (r.v a) (r.v b)), env)
def execCmpLe (t : LaneType) (m : Reduce) (p : Fin 8) (a b : Src) (s : State) : Outcome :=
  fireP s (.cmpLe t m p a b) 1 p fun r env => (reduceMode m (compareLanes t (fun x y => x ≤ y) (r.v a) (r.v b)), env)

/-- SatInt of each lane's result, and SAT on any clamp (R88, R114). -/
def satLanes (t : LaneType) (xs : List Int) (env : Num.Env) : List Nat × Num.Env :=
  let rs := xs.map fun k => Num.satInt k (LaneType.width t) (LaneType.signed t)
  (rs.map fun r => wrapLane t r.1, env.raise (rs.foldl (fun f r => f ||| r.2) 0))

/-- The integers of two operands combined lane by lane. -/
def zipInt (t : LaneType) (f : Int → Int → Int) (a b : Quad) : List Int :=
  List.zipWith (fun x y => f (laneInt t x) (laneInt t y)) (lanes (LaneType.width t) a) (lanes (LaneType.width t) b)

def execAdds (t : LaneType) (d : Dst) (a b : Src) (s : State) : Outcome :=
  fireTo s (.adds t d a b) 1 d a fun r env =>
    let (xs, env) := satLanes t (zipInt t (· + ·) (r.v a) (r.v b)) env
    (ofLanes (LaneType.width t) xs, env)
def execSubs (t : LaneType) (d : Dst) (a b : Src) (s : State) : Outcome :=
  fireTo s (.subs t d a b) 1 d a fun r env =>
    let (xs, env) := satLanes t (zipInt t (· - ·) (r.v a) (r.v b)) env
    (ofLanes (LaneType.width t) xs, env)

/-- lea: every 64-bit lane of OPA plus OPB's, shifted (R119). -/
def execLea (sh : Fin 16) (d : Dst) (a b : Src) (s : State) : Outcome :=
  fireQ s (.lea sh d a b) 1 d a fun r => map2 64 (fun x y => (x + y * 2 ^ sh.val) % 2 ^ 64) (r.v a) (r.v b)

/-- The sum of four byte products for each 32-bit lane (R119). -/
def dot4Sum : List Int → List Int
  | x :: y :: z :: w :: xs => (x + y + z + w) :: dot4Sum xs
  | _ => []

def execDot4 (sg : Bool) (d : Dst) (a b : Src) (s : State) : Outcome :=
  let t : LaneType := if sg then .i8x16 else .n8x16
  fireQ s (.dot4 sg d a b) 1 d a fun r =>
    ofLanes 32 ((dot4Sum (zipInt t (· * ·) (r.v a) (r.v b))).map fun k => Num.wrap k 32)

/-- One lane of bfx (R119): the field of len bits from pos on, extended by the type. -/
def extractField (t : LaneType) (pos len x : Nat) : Nat :=
  let w := LaneType.width t
  let n := min len w
  if n = 0 then 0
  else
    let f := Num.wrap ((laneInt t x).fdiv (2 ^ pos : Nat)) n
    if LaneType.signed t then wrapLane t (Num.toSigned f n) else f

def execBfx (t : LaneType) (d : Dst) (a b : Src) (s : State) : Outcome :=
  fireQ s (.bfx t d a b) 1 d a fun r =>
    let c := (r.v b).toNat
    map1 (LaneType.width t) (extractField t (c % 256) (c / 256 % 256)) (r.v a)

end Sys2Proof.Machine
end

