-- ==== Sys2Proof/Machine/LaneSlice.lean ====
section
/-! DEFINITION. The lane-slice accesses and the A registers (R155, R156). -/

namespace Sys2Proof.Machine

open Sys2Proof

def Width.bytes : Width → Nat | .w128 => 16 | .w64 => 8 | .w32 => 4 | .w16 => 2
def LaneWidth.bytes : LaneWidth → Nat | .w64 => 8 | .w32 => 4 | .w16 => 2 | .w8 => 1
/-- Lanes of a lane width in 128 bits. -/
def LaneWidth.count (w : LaneWidth) : Nat := 16 / LaneWidth.bytes w

/-- The check of one lane-slice address: 0x081 beyond 8 KiB, 0x083 misaligned (R155). -/
def laneCheck (a n : Nat) : Option Cause := if a ≥ 2 ^ 13 then some 0x081 else if a % n ≠ 0 then some 0x083 else none

/-- The first fault among lane addresses, in rising lane order. -/
def laneChecks (n : Nat) : List Nat → Option Cause
  | [] => none
  | a :: as => match laneCheck a n with
    | some c => some c
    | none => laneChecks n as

/-- The A register after the access (R155): plus or minus the access bytes, or unchanged. -/
def bumpActs (e : Elem) (b : Bump) (n : Fin 4) (bytes : Nat) : List Act :=
  match b with
  | .none => []
  | .inc => [.a n (e.areg n + .ofNat 32 bytes)]
  | .dec => [.a n (e.areg n - .ofNat 32 bytes)]

def execLsld (w : Width) (b : Bump) (d : Dst) (n : Fin 4) (s : State) : Outcome :=
  fire s (.lsld w b d n) 1 fun e ticket =>
    let a := (e.areg n).toNat
    let k := Width.bytes w
    match laneCheck a k with
    | some c => .error (c, 0)
    | none => .ok { acts := dstActs e ticket d 0 (.ofNat 128 (leNat (e.laneRead a k))) ++ bumpActs e b n k }

def execLsst (w : Width) (b : Bump) (n : Fin 4) (v : Src) (s : State) : Outcome :=
  fire s (.lsst w b n v) 1 fun e _ =>
    let a := (e.areg n).toNat
    let k := Width.bytes w
    match laneCheck a k with
    | some c => .error (c, 0)
    | none => .ok { acts := [.lane a (leBytes k (readSrc e s.cycle v).toNat)] ++ bumpActs e b n k }

/-- The byte addresses of the lanes of an index register (R155). -/
def laneAddrs (base : Nat) (w : LaneWidth) (idx : Quad) : List Nat :=
  (lanes (8 * LaneWidth.bytes w) idx).map fun i => base + i * LaneWidth.bytes w

def execLsldx (w : LaneWidth) (d : Dst) (n : Fin 4) (idx : Src) (s : State) : Outcome :=
  fire s (.lsldx w d n idx) 1 fun e ticket =>
    let k := LaneWidth.bytes w
    let as := laneAddrs (e.areg n).toNat w (readSrc e s.cycle idx)
    match laneChecks k as with
    | some c => .error (c, 0)
    | none => .ok { acts := dstActs e ticket d 0 (ofLanes (8 * k) (as.map fun a => leNat (e.laneRead a k))) }

/-- lsstx: lanes written in rising order, so that a later lane wins (R155). -/
def execLsstx (w : LaneWidth) (idx : Fin 16) (n : Fin 4) (v : Src) (s : State) : Outcome :=
  fire s (.lsstx w idx n v) 1 fun e _ =>
    let k := LaneWidth.bytes w
    let as := laneAddrs (e.areg n).toNat w (e.dreg idx)
    match laneChecks k as with
    | some c => .error (c, 0)
    | none => .ok { acts := (List.zip as (lanes (8 * k) (readSrc e s.cycle v))).map fun p => .lane p.1 (leBytes k p.2) }

def execAset (n : Fin 4) (a : Src) (i : BitVec 9) (s : State) : Outcome :=
  fire s (.aset n a i) 1 fun e _ => .ok { acts := [.a n ((readSrc e s.cycle a).setWidth 32 + i.signExtend 32)] }

def execAadd (n : Fin 4) (a : Src) (i : BitVec 9) (s : State) : Outcome :=
  fire s (.aadd n a i) 1 fun e _ =>
    .ok { acts := [.a n (e.areg n + (readSrc e s.cycle a).setWidth 32 + 16 * i.signExtend 32)] }

end Sys2Proof.Machine
end

