-- ==== Sys2Proof/Machine/MemAccess.lean ====
section
/-! DEFINITION. Memory instructions at firing: their addresses are checked, and what they ask of the memory ports at
their V is set down (R147 to R161). -/

namespace Sys2Proof.Machine

open Sys2Proof

/-- The address checks of R150 for one access of n bytes: 0x085 before 0x084. -/
def addrCheck (va n : Nat) : Option Cause :=
  if va ≥ 2 ^ 56 then some 0x085 else if va % n ≠ 0 then some 0x084 else none

/-- The first fault among several accesses, in lane order. -/
def addrChecks (n : Nat) : List Nat → Option (Cause × Dword)
  | [] => none
  | a :: as => match addrCheck a n with
    | some c => some (c, .ofNat 64 a)
    | none => addrChecks n as

/-- A one-access instruction: its operation at the address in OPA lane 0. -/
def fireMem (s : State) (i : Instr) (lat n : Nat) (a : Src) (d : Dst) (keep : Bool) (mk : Elem → MemSpec) : Outcome :=
  fire s i lat fun e ticket =>
    let va := lo64 (readSrc e s.cycle a)
    match addrChecks n [va] with
    | some f => .error f
    | none =>
      let m := mk e
      .ok { acts := [.mem { m with sink := replySink ticket d (tagOf e s.cycle a),
                                   words := m.words.map fun w => (w.1, va, n, w.2.2.2.1, w.2.2.2.2) }],
            keepD := if keep then Dst.bits d else 0 }

/-- The one access of an instruction, its operand and its compare value. -/
def oneWord (data compare : Quad) : List (Nat × Nat × Nat × Quad × Quad) := [(0, 0, 0, data, compare)]

/-- The low n bytes of an operand. -/
def lowBytes (n : Nat) (q : Quad) : Quad := .ofNat 128 (q.toNat % 2 ^ (8 * n))

def execLdq (w : Width) (rc : Reuse) (d : Dst) (a ord : Src) (s : State) : Outcome :=
  fireMem s (.ldq w rc d a ord) 2 (Width.bytes w) a d true fun _ =>
    { op := .load, reuse := rc, words := oneWord 0 0, sink := .nul }

def execStq (w : Width) (na : Bool) (d : Dst) (a b : Src) (s : State) : Outcome :=
  fireMem s (.stq w na d a b) 2 (Width.bytes w) a d true fun e =>
    { op := .store, noalloc := na, words := oneWord (lowBytes (Width.bytes w) (readSrc e s.cycle b)) 0, sink := .nul }

def execStqp (w : Width) (na : Bool) (a b : Src) (s : State) : Outcome :=
  fireMem s (.stqp w na a b) 1 (Width.bytes w) a .nul false fun e =>
    { op := .store, posted := true, noalloc := na,
      words := oneWord (lowBytes (Width.bytes w) (readSrc e s.cycle b)) 0, sink := .nul }

/-- The accesses of a gather or scatter: a lane whose index is all ones makes none (R158). -/
def laneWords (base : Nat) (w : LaneWidth) (idx data : Quad) : List (Nat × Nat × Nat × Quad × Quad) :=
  let k := LaneWidth.bytes w
  let is := lanes (8 * k) idx
  let ds := lanes (8 * k) data
  (List.range is.length).filterMap fun j =>
    let i := is.getD j 0
    if i = 2 ^ (8 * k) - 1 then none else some (j, (base + i * k) % 2 ^ 64, k, .ofNat 128 (ds.getD j 0), 0)

def execLdqx (w : LaneWidth) (rc : Reuse) (d : Dst) (a idx : Src) (s : State) : Outcome :=
  fire s (.ldqx w rc d a idx) 2 fun e ticket =>
    let k := LaneWidth.bytes w
    let ws := laneWords (lo64 (readSrc e s.cycle a)) w (readSrc e s.cycle idx) 0
    match addrChecks k (ws.map (·.2.1)) with
    | some f => .error f
    | none =>
      .ok { acts := [.mem { op := .load, reuse := rc, words := ws, lanes := 16 / k, laneBits := 8 * k,
                            sink := replySink ticket d (tagOf e s.cycle a) }],
            keepD := Dst.bits d }

def execStqx (w : LaneWidth) (op : ScatterOp) (idx : Fin 16) (a b : Src) (s : State) : Outcome :=
  fire s (.stqx w op idx a b) 2 fun e _ =>
    let k := LaneWidth.bytes w
    let ws := laneWords (lo64 (readSrc e s.cycle a)) w (e.dreg idx) (readSrc e s.cycle b)
    let m : MemOp := match op with | .st => .store | .add => .add w | .fadd => .fadd w
    match addrChecks k (ws.map (·.2.1)) with
    | some f => .error f
    | none => .ok { acts := [.mem { op := m, posted := true, words := ws, lanes := 16 / k, laneBits := 8 * k, sink := .nul }] }

def execMonarm (w32 : Bool) (d : Dst) (a b : Src) (s : State) : Outcome :=
  let n := if w32 then 4 else 8
  fireMem s (.monarm w32 d a b) 2 n a d true fun e =>
    { op := .monitor, words := oneWord 0 (lowBytes n (readSrc e s.cycle b)), sink := .nul }

/-- pref never traps: a misaligned or too large address drops it (R157). -/
def execPref (rc : Reuse) (a : Src) (s : State) : Outcome :=
  fire s (.pref rc a) 1 fun e _ =>
    let va := lo64 (readSrc e s.cycle a)
    .ok { acts := if va ≥ 2 ^ 56 ∨ va % 128 ≠ 0 then [] else
            [.mem { op := .prefetch, reuse := rc, words := [(0, va, 128, 0, 0)], sink := .nul }] }

/-- Bytes of an atomic's word (R159). -/
def AtomOp.bytes : AtomOp → Nat
  | .addI32 | .faddF32 | .fmaxF32 => 4
  | .xchgB128 | .addI32x4 => 16
  | _ => 8

/-- atom with DST 0x1F is posted (R148, R152). -/
def execAtom (op : AtomOp) (d : Dst) (a b : Src) (s : State) : Outcome :=
  let n := AtomOp.bytes op
  fireMem s (.atom op d a b) 2 n a d true fun e =>
    { op := .atom op, posted := d = .nul, words := oneWord (lowBytes n (readSrc e s.cycle b)) 0, sink := .nul }

def CasWidth.bytes : CasWidth → Nat | .w64 => 8 | .w32 => 4 | .w128 => 16

/-- cas: DST is the compare value and the destination (R160). -/
def execCas (w : CasWidth) (d : Fin 16) (a b : Src) (s : State) : Outcome :=
  let n := CasWidth.bytes w
  fireMem s (.cas w d a b) 2 n a (.d d) true fun e =>
    { op := .cas, words := oneWord (lowBytes n (readSrc e s.cycle b)) (lowBytes n (e.dreg d)), sink := .nul }

end Sys2Proof.Machine
end

