-- ==== Sys2Proof/Machine/FormatView.lean ====
section
/-! DEFINITION. What the memory controllers do with a format window: decoding storage into a view line and encoding a
view line back (R300 to R304). -/

namespace Sys2Proof.Machine

open Sys2Proof

/-- Bits of a number from a place on, w of them, out of bytes taken lowest first (R89). -/
def packed (w : Nat) (n : Nat) (bs : List Byte) : List Nat := splitLanes w n (leNat bs)
def packBytes (w : Nat) (xs : List Nat) : List Byte := leBytes ((w * xs.length + 7) / 8) (joinLanes w xs)

/-- The formats a view line holds: CFMT of R300. -/
def cacheFmt (c : BitVec 3) : Num.Fmt :=
  match c.toNat with
  | 0 => .fp .fp32 | 1 => .fp .bf16 | 2 => .dx .dx8 | 3 => .dx .dx6 | _ => .dx .dx4

/-- Elements of a view line (R302). -/
def viewElems (c : BitVec 3) : Nat := match c.toNat with | 0 => 32 | 1 => 64 | 2 => 128 | 3 => 160 | _ => 256

/-- Blocks of 32. -/
def chunks32 : Nat → List Nat → List (List Nat)
  | 0, _ => []
  | n + 1, xs => xs.take 32 :: chunks32 n (xs.drop 32)

/-- One stored block: its elements' values under its scale bytes, and BNAN for a scale of 0xFF (R89, R93, R303). -/
def decodeBlock (f : Num.Fmt) (scaled : Bool) (sc : List Byte) (xs : List Nat) : List Num.Val × Num.Flags :=
  let b0 := (sc.getD 0 0).toNat
  let b1 := (sc.getD 1 0).toNat
  match f with
  | .dx d => (xs.map (Num.dxDecode d b0 b1), if b0 = 0xFF ∨ b1 = 0xFF then Num.fBNAN else 0)
  | f =>
    if scaled then
      match f.mx with
      | some m => (xs.map (Num.mxDecode m b0), if b0 = 0xFF then Num.fBNAN else 0)
      | none => (xs.map f.value, 0)
    else (xs.map f.value, Num.sigNV (xs.map f.value))

/-- Scale bytes of one block of 32 (R89, R92). -/
def scaleBytes (f : Num.Fmt) : Nat := match f with | .dx _ => 2 | _ => 1

/-- The values that stored bytes hold, block by block, and the flags of reading them. -/
def decodeBlocks (f : Num.Fmt) (scaled : Bool) : List Byte → List (List Nat) → List Num.Val × Num.Flags
  | _, [] => ([], 0)
  | sc, b :: bs =>
    let (vs, fl) := decodeBlock f scaled sc b
    let (ws, fm) := decodeBlocks f scaled (sc.drop (scaleBytes f)) bs
    (vs ++ ws, fl ||| fm)

/-- A block of values as elements and scale bytes of a format (R90, R94). -/
def encodeBlock (f : Num.Fmt) (scaled : Bool) (rm : Rounding) (vs : List Num.Val) (env : Num.Env) :
    List Nat × List Byte × Num.Env :=
  match f with
  | .dx d =>
    let (ea, eb, es, env) := Num.dxEncodeBlock d vs rm env
    (es, [.ofNat 8 ea, .ofNat 8 eb], env)
  | .fp g =>
    match (if scaled then f.mx else none) with
    | some m =>
      let (x, es, env) := Num.mxEncodeBlock m vs rm env
      (es, [.ofNat 8 x], env)
    | none =>
      let (es, env) := Num.mapEnv (Num.enc g rm) vs env
      (es, [], env)
  | .mxint8 =>
    let (x, es, env) := Num.mxEncodeBlock .mxint8 vs rm env
    (es, [.ofNat 8 x], env)
  | _ => (vs.map fun _ => 0, [], env)

/-- Values encoded block by block, n blocks of 32. -/
def encodeBlocks (f : Num.Fmt) (scaled : Bool) (rm : Rounding) : Nat → List Num.Val → Num.Env →
    List Nat × List Byte × Num.Env
  | 0, _, env => ([], [], env)
  | n + 1, vs, env =>
    let (es, sc, env) := encodeBlock f scaled rm (vs.take 32) env
    let (fs, sd, env) := encodeBlocks f scaled rm n (vs.drop 32) env
    (es ++ fs, sc ++ sd, env)

/-- The window that holds a view line, and the line's number in it. -/
def findView : Tbl FormatWindow → Nat → Option (Nat × FormatWindow × Nat)
  | [], _ => none
  | (w, fw) :: t, addr =>
    let base := fw.vbase.toNat / 128
    if base ≤ addr ∧ addr < base + fw.nline.toNat then some (w, fw, addr - base) else findView t addr

def FormatWindow.fmt (fw : FormatWindow) : Num.Fmt := (Num.fmtOf fw.stfmt.toNat).getD (.fp .fp32)

/-- Where the elements of view line j are stored, and their bytes; where their scales are, and how many bytes. -/
def viewStorage (fw : FormatWindow) (j : Nat) : Nat × Nat × Nat × Nat :=
  let n := viewElems fw.cfmt
  let f := FormatWindow.fmt fw
  (fw.sbase.toNat + j * n * f.bits / 8, n * f.bits / 8,
   fw.xbase.toNat + j * (n / 32) * scaleBytes f, n / 32 * scaleBytes f)

/-- Bytes made up to a length with zeros (R92). -/
def padTo (n : Nat) (bs : List Byte) : List Byte := bs ++ List.replicate (n - bs.length) 0

/-- The 128 bytes and the sidecar that a view-line miss forms from the bytes in DRAM, unused bytes zero, with the flags it raises
(R92, R302, R303). -/
def viewFill (mem : Tbl Byte) (fw : FormatWindow) (j : Nat) : List Byte × List Byte × Num.Flags :=
  let n := viewElems fw.cfmt
  let f := FormatWindow.fmt fw
  let (sb, sl, xb, xl) := viewStorage fw j
  let xs := packed f.bits n (Memory.readN mem sb sl)
  let sc := if fw.scaled then Memory.readN mem xb xl else []
  let (vs, fl) := decodeBlocks f fw.scaled sc (chunks32 (n / 32) xs)
  let (es, side, env) := encodeBlocks (cacheFmt fw.cfmt) false .rne (n / 32) vs { flags := fl, sr := 1 }
  (padTo 128 (packBytes (cacheFmt fw.cfmt).bits es), if side.isEmpty then [] else padTo 16 side, env.flags)

/-- What a dirty view line leaves in DRAM, the flags it raises and the window's generator afterwards (R302, R98). -/
def viewWriteback (mem : Tbl Byte) (fw : FormatWindow) (j : Nat) (data side : List Byte) (seed : BitVec 32) :
    Tbl Byte × Num.Flags × BitVec 32 :=
  let n := viewElems fw.cfmt
  let f := FormatWindow.fmt fw
  let c := cacheFmt fw.cfmt
  let (sb, _, xb, xl) := viewStorage fw j
  let xs := packed c.bits n data
  if f = c then
    (Memory.writeN (Memory.writeN mem sb (packBytes f.bits xs)) xb (side.take xl), 0, seed)
  else
    let (vs, fl) := decodeBlocks c false side (chunks32 (n / 32) xs)
    let (es, sc, env) := encodeBlocks f fw.scaled (if fw.rm = 4 then .sr else .rne) (n / 32) vs { flags := fl, sr := seed }
    (Memory.writeN (Memory.writeN mem sb (packBytes f.bits es)) xb sc, env.flags, env.sr)

end Sys2Proof.Machine
end

