-- ==== Sys2Proof/Machine/Homes.lean ====
section
/-! DEFINITION. The homes: the physical map (R288), interleave domains (R290, R291), the L2 slices with their lines,
leases, chute and stockpile (R292 to R299, R312), and the explicit homes (R313). -/

namespace Sys2Proof.Machine

open Sys2Proof

/-! ## The physical map -/

inductive Space where
  | global | view | mpad (bank : Nat) | clus (cluster bank : Nat) | cpad (core off : Nat) | host | nowhere
deriving DecidableEq, Repr

/-- The space a module-local physical address falls in (R288). -/
def spaceOf (pa : Nat) : Space :=
  if pa ≤ 0x03FFFFFFFFFF then .global
  else if 0x400000000000 ≤ pa ∧ pa ≤ 0x40001FFFFFFF then .mpad (pa / 2 ^ 22 % 128)
  else if 0x410000000000 ≤ pa ∧ pa ≤ 0x41001FFFFFFF then .clus (pa / 2 ^ 22 % 128) (pa / 2 ^ 8 % 16)
  else if 0x420000000000 ≤ pa ∧ pa ≤ 0x42003FFFFFFF then
    (if pa % 2 ^ 19 < 0x60000 then .cpad (pa / 2 ^ 19 % 2048) (pa % 2 ^ 19) else .nowhere)
  else if 0x500000000000 ≤ pa ∧ pa ≤ 0x5FFFFFFFFFFF then .view
  else if 0x800000000000 ≤ pa ∧ pa ≤ 0xFFFFFFFFFFFF then .host
  else .nowhere

/-- Fold of R290: the exclusive-or of the k-bit groups of x; g groups are enough for its bits. -/
def foldXor (k : Nat) : Nat → Nat → Nat
  | 0, _ => 0
  | g + 1, x => (x % 2 ^ k) ^^^ foldXor k g (x / 2 ^ k)

/-- Fold(PA<47:7>, 10). -/
def fold10 (line : Nat) : Nat := foldXor 10 5 (line % 2 ^ 41)

/-- Fields of an interleave-domain entry (R291). -/
def idtField (e : Quad) (hi lo : Nat) : Nat := e.toNat / 2 ^ lo % 2 ^ (hi + 1 - lo)
def idtValid (e : Quad) : Bool := idtField e 72 72 = 1
def idtHold (e : Quad) : Bool := idtField e 73 73 = 1
def idtCovers (e : Quad) (pa : Nat) : Bool :=
  idtValid e && idtField e 19 0 ≤ pa / 2 ^ 28 && pa / 2 ^ 28 ≤ idtField e 39 20

def findIdt (t : Tbl Quad) (pa : Nat) : Option Quad := (t.find? fun e => idtCovers e.2 pa).map (·.2)

/-- The home slice an entry gives a line address (R291). -/
def idtHome (e : Quad) (line : Nat) : Nat :=
  idtField e 86 78 + foldXor 10 5 (line % 2 ^ 41 &&& idtField e 127 87) / 2 ^ (10 - idtField e 77 74)

/-- Host addresses below this leave by host port 0, the rest by port 1: the spec does not say which port an address takes
(DESIGN CHOICE, log entry 45). -/
def hostSplit : Nat := 0xC00000000000

/-- The home of a physical address, or the cause that R289 gives. -/
def homeOf (s : State) (pa : Nat) : Except Cause Home :=
  match spaceOf pa with
  | .global | .view =>
    match findIdt s.idt pa with
    | some e => .ok (.slice (idtHome e (pa / 128)))
    | none => .error 0x095
  | .mpad b => .ok (.mpad b)
  | .clus c b => .ok (.clus c b)
  | .cpad c _ => .ok (.cpad c)
  | .host => .ok (.host (if pa < hostSplit then 0 else 1))
  | .nowhere => .error 0x094

/-- The controller slice of a global line, fixed at bring-up (R292). -/
def controllerOf (line : Nat) : Nat := fold10 line / 2

/-- The router of a core's cluster and of a slice (R3), and the hops between two routers (R438). -/
def routerOfCore (core : Nat) : Nat :=
  let c := core / 16
  let l := c % 16
  if l < 8 then c / 16 * 8 + l else 64 + c / 16 * 8 + (l - 8)
def routerOfSlice (n : Nat) : Nat := n / 4
def hops (a b : Nat) : Nat := if a = b then 0 else if a % 64 / 8 = b % 64 / 8 then 1 else 2

/-- The stack in which a home or a core lies (R2, R3). -/
def stackOfRouter (r : Nat) : Nat := r % 64 / 8
def stackOf : Home → Option Nat
  | .slice n => some (stackOfRouter (routerOfSlice n))
  | .mpad b => some (stackOfRouter b)
  | .cpad k => some (k / 256)
  | .clus c _ => some (c / 16)
  | .remote _ | .host _ => none

/-- Requests to a quiesced stack are held at the sending router (R435). -/
def heldByService (s : State) (h : Home) : Bool := (stackOf h).any fun k => s.root.quiesced.contains k

/-- Cycles from a core's acceptance of a request to its performance at a home, one way (R7, R439). -/
def travel (core : Nat) : Home → Nat
  | .slice n => 30 + 12 * hops (routerOfCore core) (routerOfSlice n)
  | .mpad b => 30 + 12 * hops (routerOfCore core) b
  | .cpad _ => 3
  | .clus _ b =>
    let l := core % 16
    let d := if l ≤ b then b - l else l - b
    7 + min d (16 - d)
  | .host p => 30 + 12 * hops (routerOfCore core) (if p = 0 then 0 else 64) + Config.hostCycles p
  | .remote _ => 0

/-- The router of a home. -/
def routerOfHome : Home → Nat
  | .slice n => routerOfSlice n
  | .mpad b => b
  | .cpad k => routerOfCore k
  | .clus c b => routerOfCore (c * 16 + b)
  | .host p => if p = 0 then 0 else 64
  | .remote _ => 0

/-- Cycles from a host port's receipt of a request to its performance at a home (R439): port 0 stands at router 0, port 1 at 64. -/
def hostTravel (port : Nat) (h : Home) : Nat := 30 + 12 * hops (if port = 0 then 0 else 64) (routerOfHome h)

/-- Cycles from a request's acceptance to its performance at a home, one way. -/
def Req.travel (r : Req) (h : Home) : Nat :=
  match r.link with
  | some p => hostTravel p h
  | none => Machine.travel r.core h

/-- The partition tag that a request carries (R414). -/
def Req.own (s : State) (r : Req) : Nat :=
  match r.link with
  | some _ => r.tag
  | none => ((getCore s r.core).part).getD 0

/-- Whether every write that the host link received before a request number has been performed (R318). -/
def hostDone (s : State) (limit : Nat) : Bool :=
  !(s.reqs.any fun e => e.1 < limit && e.2.link.isSome && e.2.op = .store &&
      e.2.parts.any fun p => match p.phase with | .replied _ | .done => false | _ => true)

/-! ## Worlds (R414) -/

/-- The partition that owns a physical byte. -/
def ownerOf (s : State) (pa : Nat) : Option Nat :=
  (s.parts.find? fun e => e.2.used && match spaceOf pa with
    | .global => e.2.units.contains (pa / 2 ^ 28)
    | .view => (match findView s.fw (pa / 128) with | some (_, fw, _) => fw.part.toNat = e.1 | none => false)
    | .mpad b => e.2.cores.any fun k => routerOfCore k = b
    | .clus c _ => e.2.cores.any fun k => k / 16 = c
    | .cpad k _ => (getCore s k).part = some e.1
    | .host | .nowhere => false).map (·.1)

/-- The partition tag of a request from outside every partition. -/
def noPart : Nat := 64

/-- The secure partition to which a byte belongs. -/
def secureOwner (s : State) (pa : Nat) : Option Nat := (ownerOf s pa).filter fun p => (tget {} s.parts p : Partition).secure

/-- The secure partition to which a byte belongs, for a requester that is not secure. -/
def foreignTo (s : State) (p pa : Nat) : Option Nat :=
  if p < noPart ∧ (tget {} s.parts p : Partition).secure then none else secureOwner s pa

/-- The index of a unit among the regions of its partition, which goes with the region when it moves (DEDUCED, log entry 49). -/
def Partition.region (p : Partition) (unit : Nat) : Nat := p.units.idxOf unit

/-- The ciphertext of a byte of a secure unit, as DRAM stores it: under its partition's key, the tweak formed from the unit's region index
and the offset within the unit. -/
def cipherByte (s : State) (p pa : Nat) : Byte :=
  let x : Partition := tget {} s.parts p
  Config.xtsByte x.keyix (x.region (pa / 2 ^ 28)) (pa % 2 ^ 28) (Memory.readN s.mem (pa / 16 * 16) 16)

/-- The 16-byte blocks of some units in which memory lists a byte. -/
def listedBlocks (m : Tbl Byte) (units : List Nat) : List Nat :=
  ((m.filter fun c => units.contains (c.1 / 2 ^ 28)).map fun c => c.1 / 16).eraseDups

/-- Stored bytes read under another key: each block of the units is what `f` makes of it, by address. -/
def recode (m : Tbl Byte) (units : List Nat) (f : Nat → List Byte → Byte) : Tbl Byte :=
  (listedBlocks m units).foldl (fun t b =>
    let old := Memory.readN m (16 * b) 16
    Memory.writeN t (16 * b) ((List.range 16).map fun i => f (16 * b + i) old)) m

/-- What DRAM holds of a secure partition's units, when the partition is gone (R414). -/
def sealUnits (m : Tbl Byte) (p : Partition) : Tbl Byte :=
  if p.secure then recode m p.units fun pa old => Config.xtsByte p.keyix (p.region (pa / 2 ^ 28)) (pa % 2 ^ 28) old else m

/-- What a new secure partition reads of what DRAM holds in its units (R414). -/
def openUnits (m : Tbl Byte) (p : Partition) : Tbl Byte :=
  if p.secure then recode m p.units fun pa old => Config.xtsPlain p.keyix (p.region (pa / 2 ^ 28)) (pa % 2 ^ 28) old else m

/-! ## Explicit homes (R313) -/

def homeKey : Home → Nat
  | .cpad c => c
  | .clus c b => 4096 + c * 16 + b
  | .mpad b => 8192 + b
  | .host p => 9000 + p
  | .slice n => 10000 + n
  | .remote m => 20000 + m

/-- One access of an explicit home: its clock rises past the request's, and the access takes the new clock. -/
def homeTick (s : State) (h : Home) (pts : Stamp) : State × Stamp :=
  let k := homeKey h
  let c : HomeClock := tget {} s.homes k
  let t := tsMax c.hclk pts + 1
  ({ s with homes := tput s.homes k { c with hclk := t } }, t)

/-- The next sequence tag of an explicit home (R154). -/
def homeSeq (s : State) (h : Home) : State × BitVec 16 :=
  let k := homeKey h
  let c : HomeClock := tget {} s.homes k
  ({ s with homes := tput s.homes k { c with seq := c.seq + 1 } }, c.seq)

/-! ## Slice registers (R294, R314) -/

def Slice.tctlOf (sl : Slice) (p : Nat) : Nat := (tget 0xFFFF00000000 sl.tctl p).toNat
def Slice.wmask (sl : Slice) (p : Nat) : Nat := sl.tctlOf p % 2 ^ 16
def Slice.spq (sl : Slice) (p : Nat) : Nat := sl.tctlOf p / 2 ^ 20 % 2 ^ 12
def Slice.soft (sl : Slice) (p : Nat) : Nat := sl.tctlOf p / 2 ^ 32 % 2 ^ 16
def Slice.spways (sl : Slice) : Nat := sl.sctl.toNat % 8
def Slice.spthr (sl : Slice) : Nat := sl.sctl.toNat / 16 % 16
/-- TCTLp.OCC. -/
def Slice.occ (sl : Slice) (p : Nat) : Nat := (sl.lines.filter fun l => l.2.part = p).length
/-- The lease L (R314). -/
def Slice.lease (sl : Slice) : Stamp := .ofNat 48 (2 ^ (sl.lctl.toNat % 16))

/-! ## Lines -/

/-- The line of partition p at a line address, with its place (R293). -/
def Slice.hit (sl : Slice) (p addr : Nat) : Option (Nat × Line) := sl.lines.find? fun l => l.2.addr = addr && l.2.part = p
/-- The line at an address, whoever filled it. -/
def Slice.anyLine (sl : Slice) (addr : Nat) : Option (Nat × Line) := sl.lines.find? fun l => l.2.addr = addr

/-- The bytes of a chute entry laid over a line's bytes. -/
def overlay (bs : List Byte) (t : Tbl Byte) : List Byte := t.foldl (fun bs e => bs.set e.1 e.2) bs

/-- The bytes of a line as DRAM gives them: decoded for a view line, merged with what waits in the chute (R298,
R302). The flags are those of the decoding, with the window. -/
def dramLine (s : State) (sl : Slice) (addr : Nat) : List Byte × List Byte × Option (Nat × Num.Flags) :=
  let (bs, side, fl) := match (if spaceOf (addr * 128) = .view then findView s.fw addr else none) with
    | some (w, fw, j) =>
      let (d, sd, f) := viewFill s.mem fw j
      (d, sd, some (w, f))
    | none => (Memory.readN s.mem (addr * 128) 128, [], none)
  match sl.chute.find? (·.addr = addr) with
  | some c => (overlay bs c.bytes, if c.side.isEmpty then side else overlay (padTo 16 side) c.side, fl)
  | none => (bs, side, fl)

/-- Raises a window's flags in a slice's controller (R300). -/
def Slice.raiseFw (sl : Slice) (w : Nat) (f : Num.Flags) : Slice := { sl with fwStat := tput sl.fwStat w (tget 0 sl.fwStat w ||| f) }

/-- A line and its sidecar as its controller gives them; the flags of a decoding go to the window's (R302). -/
def fetchLine (s : State) (n addr : Nat) : State × List Byte × List Byte :=
  let sl := getSlice s n
  let (bs, side, fl) := dramLine s sl addr
  (match fl with | some (w, f) => setSlice s n (sl.raiseFw w f) | none => s, bs, side)

/-- Writes a line's bytes to DRAM, re-encoding a view line into its storage; clean copies of the storage lines it
writes are invalidated (R302). -/
def storeLine (s : State) (n addr : Nat) (data side : List Byte) : State :=
  if spaceOf (addr * 128) = .view then
    match findView s.fw addr with
    | some (w, fw, j) =>
      let sl := getSlice s n
      let seed := tget fw.seed sl.fwSeed w
      let (mem, fl, seed) := viewWriteback s.mem fw j data side seed
      let s := setSlice { s with mem := mem } n ({ sl with fwSeed := tput sl.fwSeed w seed }.raiseFw w fl)
      let (sb, len, _, _) := viewStorage fw j
      { s with slices := s.slices.map fun e => (e.1, { e.2 with lines := e.2.lines.filter fun l =>
          l.2.dirty || !(sb / 128 ≤ l.2.addr && l.2.addr ≤ (sb + len - 1) / 128) }) }
    | none => s
  else { s with mem := Memory.writeN s.mem (addr * 128) data, poison := s.poison.filter (· ≠ addr) }

/-- A line leaves the slice: written back when dirty, and MTS keeps its lease (R312). -/
def evict (s : State) (n key : Nat) : State :=
  match tfind (getSlice s n).lines key with
  | none => s
  | some l =>
    let s := if l.dirty then storeLine s n l.addr l.data l.side else s
    let sl := getSlice s n
    setSlice s n { sl with lines := tdel sl.lines key, mts := tsMax sl.mts l.rts }

/-- The ways a partition's fills may use in a set, and whose line is not pinned (R295). -/
def fillWays (sl : Slice) (p set : Nat) : List Nat :=
  ((List.range 16).filter fun w => sl.wmask p / 2 ^ w % 2 = 1 && w < 16 - sl.spways).filter fun w =>
    match tfind sl.lines (set * 16 + w) with
    | some l => l.pin = 0
    | none => true

/-- The least recently used of some lines' places. -/
def oldest (sl : Slice) : List Nat → Option Nat
  | [] => none
  | k :: ks => match oldest sl ks with
    | none => some k
    | some j =>
      let use (i : Nat) : Nat := ((tfind sl.lines i).map (·.used)).getD 0
      if use k ≤ use j then some k else some j

/-- The victim of a fill (R295): its place, and the places whose hot bit is cleared in choosing it; none when the fill
goes through the chute. -/
def victim (sl : Slice) (p set : Nat) : Option (Nat × List Nat) :=
  let c := (fillWays sl p set).map (set * 16 + ·)
  match c with
  | [] => none
  | _ =>
    match c.find? fun k => (tfind sl.lines k).isNone with
    | some k => some (k, [])
    | none =>
      let own := c.filter fun k => ((tfind sl.lines k).map (·.part)) = some p
      let c := if sl.soft p ≠ 0xFFFF ∧ sl.occ p ≥ sl.soft p ∧ own ≠ [] then own else c
      match oldest sl (c.filter fun k => ((tfind sl.lines k).map (·.hot)) = some false) with
      | some k => some (k, [])
      | none => (oldest sl c).map fun k => (k, c)

/-- Whether a fill with a reuse class allocates (R295, R298). -/
def allocates (rc : Reuse) (noalloc : Bool) : Bool := !noalloc && rc ≠ .stream

/-- Drains the chute's entry of a line to DRAM (R298). -/
def drainLine (s : State) (n addr : Nat) : State :=
  let sl := getSlice s n
  match sl.chute.find? (·.addr = addr) with
  | none => s
  | some _ =>
    let (s, bs, side) := fetchLine s n addr
    let s := storeLine s n addr bs side
    let sl := getSlice s n
    setSlice s n { sl with chute := sl.chute.filter (·.addr ≠ addr) }

/-- Fills a line of partition p from DRAM (R293, R295): the place it now has, or none when the fill goes no-allocate
through the chute. A copy that another partition filled is written back and invalidated first. -/
def fillLine (s : State) (n p addr : Nat) (rc : Reuse) (noalloc : Bool) : State × Option Nat :=
  let s := match (getSlice s n).anyLine addr with
    | some (k, l) => if l.part = p then s else evict s n k
    | none => s
  if !allocates rc noalloc then (s, none)
  else
    let s := drainLine s n addr
    match victim (getSlice s n) p (Config.l2Set addr % 2048) with
    | none => (s, none)
    | some (k, cold) =>
      let sl := getSlice s n
      let s := setSlice s n { sl with lines := cold.foldl (fun t i =>
        match tfind t i with | some l => tput t i { l with hot := false } | none => t) sl.lines }
      let s := evict s n k
      let (s, bs, side) := fetchLine s n addr
      let sl := getSlice s n
      let l : Line := { addr := addr, part := p, hot := rc = .hot, wts := sl.mts, rts := sl.mts,
                        used := sl.uses + 1, data := bs, side := side }
      (setSlice s n { sl with lines := tput sl.lines k l, uses := sl.uses + 1 }, some k)

/-- Counts a `.pin` load or prefetch of a line (R297). -/
def countPin (s : State) (n addr : Nat) : State :=
  let sl := getSlice s n
  let k := fold10 addr
  let c := tget 0 sl.counters k
  setSlice s n { sl with counters := tput sl.counters k (if c = 15 then 15 else c + 1) }

/-- Moves a line into the stockpile ways of its set when R297 takes it. -/
def stock (s : State) (n key : Nat) : State :=
  let sl := getSlice s n
  match tfind sl.lines key with
  | none => s
  | some l =>
    let held := (sl.lines.filter fun e => e.2.stock && e.2.part = l.part).length
    let set := key / 16
    let ways := ((List.range 16).filter fun w => w ≥ 16 - sl.spways).map (set * 16 + ·)
    if l.stock ∨ sl.spways = 0 ∨ sl.spq l.part = 0 ∨ (tget 0 sl.counters (fold10 l.addr)).toNat < sl.spthr then s
    else
      let stocked := ways.filter fun k => ((tfind sl.lines k).map (·.stock)) = some true
      let target :=
        if held < sl.spq l.part then
          match ways.find? fun k => !(((tfind sl.lines k).map (·.stock)) = some true) with
          | some k => some k
          | none => oldest sl stocked
        else oldest sl (stocked.filter fun k => ((tfind sl.lines k).map (·.part)) = some l.part)
      match target with
      | none => s
      | some k =>
        let s := if k = key then s else evict s n k
        let sl := getSlice s n
        setSlice s n { sl with lines := tput (tdel sl.lines key) k { l with stock := true } }

/-! ## Performing accesses at a slice (R312) -/

/-- What a home answers. -/
structure Answer where
  value : List Byte := []
  seq : BitVec 16 := 0
  ts : Stamp := 0
  rts : Stamp := 0
  wts : Stamp := 0
  line : List Byte := []
  /-- The exponents of a DX line (R92). -/
  side : List Byte := []
  cause : Cause := 0
deriving DecidableEq, Repr

/-- Marks a line used, unless the request is no-allocate (R295, R298). -/
def Slice.touch (sl : Slice) (key : Nat) (l : Line) (keep : Bool) : Slice :=
  if keep then { sl with lines := tput sl.lines key l }
  else { sl with lines := tput sl.lines key { l with used := sl.uses + 1 }, uses := sl.uses + 1 }

/-- Read(pts) of a resident line. -/
def readResident (s : State) (n key : Nat) (l : Line) (off len : Nat) (pts : Stamp) (keep : Bool) : State × Answer :=
  let sl := getSlice s n
  let rts := tsMax (tsMax l.rts (l.wts + sl.lease)) (pts + sl.lease)
  let l := { l with rts := rts }
  (setSlice s n (sl.touch key l keep),
   { value := (l.data.drop off).take len, seq := sl.seq - 1, ts := tsMax pts l.wts, rts := rts, wts := l.wts,
     line := l.data, side := l.side })

/-- Read(pts) of a line that is not kept: it is filled, read and evicted at once (R298). -/
def readThrough (s : State) (n addr off len : Nat) (pts : Stamp) : State × Answer :=
  let (s, bs, side) := fetchLine s n addr
  let sl := getSlice s n
  let rts := tsMax (tsMax sl.mts (sl.mts + sl.lease)) (pts + sl.lease)
  (setSlice s n { sl with mts := tsMax sl.mts rts },
   { value := (bs.drop off).take len, seq := sl.seq - 1, ts := tsMax pts sl.mts, rts := rts, wts := sl.mts,
     line := bs, side := side })

/-- A monitor's wake-up word (R161). -/
def wakeWord (reason : Nat) (seq : BitVec 16) (value : Nat) : Quad :=
  .ofNat 128 (reason * 2 ^ 112 + seq.toNat * 2 ^ 96 + value % 2 ^ 64)

def Req.answer (r : Req) (lane : Nat) (f : Part → Part) : Req :=
  { r with parts := r.parts.map fun p => if p.lane = lane then f p else p }

/-- Completes a monitor's request; a peer's wake-up word is sent to it. -/
def completeMonitor (s : State) (m : Monitor) (word : Quad) (ts : Stamp) : State :=
  match m.peer with
  | some k => { s with sent := s.sent ++ [(k, { code := 0, data := leBytes 16 word.toNat, ts := ts })] }
  | none =>
  match tfind s.reqs m.req with
  | none => s
  | some r =>
    let due := s.cycle + (match r.parts with | p :: _ => r.travel p.home | [] => 0)
    { s with reqs := tput s.reqs m.req (r.answer 0 fun p => { p with value := word, ts := ts, phase := .replied due }) }

/-- Every dirty line of a unit is written back. -/
def flushUnit (s : State) (unit : Nat) : State :=
  (s.slices.map (·.1)).foldl (fun s k =>
    (((getSlice s k).lines.filter fun l => l.2.dirty && l.2.addr * 128 / 2 ^ 28 = unit).map (·.1)).foldl (fun s l => evict s k l) s) s

/-- A requester that is not secure reads a secure unit: the bytes of DRAM as they are stored, L2 not asked (R414). -/
def readCipher (s : State) (q pa len : Nat) (pts : Stamp) : State × Answer :=
  let s := flushUnit s (pa / 2 ^ 28)
  (s, { value := (List.range len).map fun i => cipherByte s q (pa + i), ts := pts, rts := pts, wts := pts })

/-- What a monitor reads of the line whose bytes are given: one of a requester that is not secure, on a secure unit, reads what DRAM
stores (R319, R414). -/
def monitorSees (s : State) (m : Monitor) (line : List Byte) : State × Nat :=
  match foreignTo s m.part m.pa with
  | some q => let (s, a) := readCipher s q m.pa m.n 0; (s, leNat a.value)
  | none => (s, leNat ((line.drop (m.pa % 128)).take m.n))

/-- The monitors of a line complete at a write to it (R161): each request's wake-up word is formed from the line as it
now stands. -/
def wakeLine (s : State) (n addr : Nat) (bytes : List Byte) (seq : BitVec 16) (ts : Stamp) : State :=
  let sl := getSlice s n
  let (hit, rest) := sl.monitors.partition (·.line = addr)
  hit.foldl (fun s m => let (s, v) := monitorSees s m bytes; completeMonitor s m (wakeWord 1 seq v) ts)
    (setSlice s n { sl with monitors := rest })

/-- The bytes of a list replaced from an offset on. -/
def splice (bs : List Byte) (off : Nat) (new : List Byte) : List Byte := bs.take off ++ new ++ bs.drop (off + new.length)

/-- Write(pts) of a resident line (R293, R312). -/
def writeResident (s : State) (n key : Nat) (l : Line) (off : Nat) (new : List Byte) (pts : Stamp) (keep : Bool) :
    State × Answer :=
  let sl := getSlice s n
  let wts := tsMax pts (l.rts + 1)
  let l := { l with wts := wts, rts := wts, dirty := true, data := splice l.data off new }
  let sl := { sl.touch key l keep with seq := sl.seq + 1 }
  let seq := sl.seq - 1
  (wakeLine (setSlice s n sl) n l.addr l.data seq wts, { seq := seq, ts := wts, rts := wts })

/-- Bytes put into a table from a place on. -/
def putBytes (t : Tbl Byte) (off : Nat) (new : List Byte) : Tbl Byte :=
  (List.zip (List.range new.length) new).foldl (fun t e => tput t (off + e.1) e.2) t

/-- Merges bytes into the chute's entry of a line (R298). -/
def chuteMerge (c : List ChuteEntry) (addr p off : Nat) (new : List Byte) : List ChuteEntry :=
  if c.any (·.addr = addr) then c.map fun e => if e.addr = addr then { e with bytes := putBytes e.bytes off new } else e
  else c ++ [{ addr := addr, part := p, bytes := putBytes [] off new }]

/-- Sets the exponents of blocks of a DX line from a sidecar byte on: in the line where it is held, else in what waits for DRAM in the
chute (R92, R298). -/
def setSide (s : State) (n addr off : Nat) (side : List Byte) : State :=
  let sl := getSlice s n
  match sl.anyLine addr with
  | some (k, l) => setSlice s n { sl with lines := tput sl.lines k { l with side := splice (padTo 16 l.side) off side } }
  | none => setSlice s n { sl with chute := sl.chute.map fun e =>
      if e.addr = addr then { e with side := putBytes e.side off side } else e }

/-- A no-allocate write that misses: it merges into the chute and is acknowledged (R298). -/
def writeThrough (s : State) (n p addr off : Nat) (new : List Byte) (pts : Stamp) : State × Answer :=
  let sl := getSlice s n
  let wts := tsMax pts (sl.mts + 1)
  let sl := { sl with chute := chuteMerge sl.chute addr p off new, mts := wts, seq := sl.seq + 1 }
  let s := setSlice s n sl
  let (bs, _, _) := dramLine s sl addr
  (wakeLine s n addr bs (sl.seq - 1) wts, { seq := sl.seq - 1, ts := wts, rts := wts })

/-- Makes a line resident, if its fill allocates: its place, and whether it was there. -/
def ensureLine (s : State) (n p addr : Nat) (rc : Reuse) (noalloc : Bool) : State × Option (Nat × Line) :=
  let s := if rc = .pin then countPin s n addr else s
  match (getSlice s n).hit p addr with
  | some (k, _) =>
    let s := stock s n k
    (s, (getSlice s n).hit p addr)
  | none =>
    match fillLine s n p addr rc noalloc with
    | (s, some k) =>
      let s := stock s n k
      (s, (getSlice s n).hit p addr)
    | (s, none) => (s, none)

/-- A read of a slice, performed now, a miss filled at once. -/
def sliceRead (s : State) (n p pa len : Nat) (rc : Reuse) (noalloc : Bool) (pts : Stamp) : State × Answer :=
  let addr := pa / 128
  if s.poison.contains addr ∧ ((getSlice s n).hit p addr).isNone then (s, { cause := 0x097, ts := pts })
  else match ensureLine s n p addr rc noalloc with
    | (s, some (k, l)) => readResident s n k l (pa % 128) len pts noalloc
    | (s, none) => readThrough s n addr (pa % 128) len pts

/-- A write of a slice, performed now. -/
def sliceWrite (s : State) (n p pa : Nat) (new : List Byte) (rc : Reuse) (noalloc : Bool) (pts : Stamp) :
    State × Answer :=
  let addr := pa / 128
  match ensureLine s n p addr rc noalloc with
  | (s, some (k, l)) => writeResident s n k l (pa % 128) new pts noalloc
  | (s, none) => writeThrough s n p addr (pa % 128) new pts

/-! ## Any home -/

/-- A read performed now at the home of a physical address for a partition. -/
def performRead (s : State) (h : Home) (p pa len : Nat) (rc : Reuse) (noalloc : Bool) (pts : Stamp) : State × Answer :=
  match foreignTo s p pa with
  | some q => readCipher s q pa len pts
  | none =>
  match h with
  | .slice n => sliceRead s n p pa len rc noalloc pts
  | h =>
    let (s, t) := homeTick s h pts
    (s, { value := Memory.readN s.mem pa len, ts := t, rts := t })

/-- A write performed now at the home of a physical address for a partition. -/
def performWrite (s : State) (h : Home) (p pa : Nat) (new : List Byte) (rc : Reuse) (noalloc : Bool) (pts : Stamp) :
    State × Answer :=
  if (foreignTo s p pa).isSome then (s, { cause := 0x34A, ts := pts })
  else
  match h with
  | .slice n => sliceWrite s n p pa new rc noalloc pts
  | .host _ => ({ s with mem := Memory.writeN s.mem pa new }, { ts := pts, rts := pts })
  | h =>
    let (s, t) := homeTick s h pts
    let (s, q) := homeSeq s h
    ({ s with mem := Memory.writeN s.mem pa new }, { seq := q, ts := t, rts := t })

/-- The bytes that the coherent system holds at an address, without performing an access: the line where one is
cached, otherwise DRAM with the chute. -/
def peek (s : State) (pa len : Nat) : List Byte :=
  match homeOf s pa with
  | .ok (.slice n) =>
    let sl := getSlice s n
    let addr := pa / 128
    let bs := match sl.anyLine addr with
      | some (_, l) => l.data
      | none => (dramLine s sl addr).1
    (bs.drop (pa % 128)).take len
  | _ => Memory.readN s.mem pa len

end Sys2Proof.Machine
end

