-- ==== Sys2Proof/Machine/Translate.lean ====
section
/-! DEFINITION. Translation: window entries (R404), the launch-table entry (R343), the radix walk (R408, R409), the
reach of a core (R289), and the dirty ranges (R410). -/

namespace Sys2Proof.Machine

open Sys2Proof

/-- How an access uses the bytes at its address. -/
inductive Use where
  | read | write | both
deriving DecidableEq, Repr

def Use.reads (u : Use) : Bool := u ≠ .write
def Use.writes (u : Use) : Bool := u ≠ .read

/-- Where an access goes: a physical address at a home, through a port and perhaps a window; a remote access names its
module and incarnation. -/
structure Route where
  pa : Nat
  home : Home
  inc : Nat := 0
  port : Nat
  win : Option Nat := none
deriving DecidableEq, Repr

/-- The result of a translation. -/
inductive Xlate where
  | ok (r : Route)
  | fault (port : Nat) (cause : Cause)
deriving DecidableEq, Repr

def Win.covers (w : Win) (va : Nat) : Bool := w.valid && w.vbase ≤ va && va < w.vbase + w.size

/-- The physical address of R404. -/
def Win.pa (w : Win) (va : Nat) : Nat :=
  let o := va - w.vbase
  if w.pitched then w.pbase + o / w.rowlen * w.pitch + o % w.rowlen else w.pbase + o

/-- An access that crosses the end of an entry or of a row (R404). -/
def Win.crosses (w : Win) (va n : Nat) : Bool :=
  let o := va - w.vbase
  o + n > w.size || (w.pitched && o % w.rowlen + n > w.rowlen)

/-- The first window entry of a core that covers an address, MP0 to MP3 in order (R150). -/
def findWin (c : Core) (va : Nat) : Option (Nat × Nat × Win) :=
  [0, 1, 2, 3].findSome? fun p => ((c.port p).wins.find? fun w => w.2.covers va).map fun w => (p, w.1, w.2)

/-- Whether a core may reach a physical address, and where its home is (R289). -/
def reach (s : State) (core pa : Nat) : Except Cause Home :=
  match spaceOf pa with
  | .cpad c _ => if c = core then .ok (.cpad c) else .error 0x094
  | .clus c b => if c = core / 16 then .ok (.clus c b) else .error 0x094
  | _ => homeOf s pa

/-- Use of a remote entry (R412): with its mark set it is used; otherwise 0x3A1 while its module cannot be reached, and 0x3A2 once
that has come back with another incarnation. -/
def remoteUse (s : State) (w : Win) : Option Cause :=
  let l : Link := tget {} s.links w.mod
  if w.mark then none else if !l.up then some 0x3A1 else if l.inc ≠ w.inc then some 0x3A2 else none

/-- The partition a core belongs to; partition 0 where none has been given. -/
def partOf (s : State) (core : Nat) : Nat := ((getCore s core).part).getD 0

/-- Translation through a window entry: 0x091 before 0x094. -/
def winRoute (s : State) (core va n : Nat) (use : Use) (p k : Nat) (w : Win) : Xlate :=
  if use.writes && !w.wr then .fault p 0x091
  else if w.crosses va n then .fault p 0x094
  else if w.rem then
    match remoteUse s w with
    | some c => .fault p c
    | none => .ok { pa := w.pa va, home := .remote w.mod, inc := w.inc, port := p, win := some k }
  else match reach s core (w.pa va) with
    | .ok h => .ok { pa := w.pa va, home := h, port := p, win := some k }
    | .error c => .fault p c

/-- A table entry of R408. -/
def pteField (e hi lo : Nat) : Nat := e / 2 ^ lo % 2 ^ (hi + 1 - lo)

/-- The levels of the table: index bits, entries' pages and next tables' alignment (R408). -/
def levelShift : Nat → Nat | 3 => 43 | 2 => 30 | 1 => 21 | _ => 16
def levelEntries : Nat → Nat | 3 => 8192 | 2 => 8192 | 1 => 512 | _ => 32
def nextAlign : Nat → Nat | 3 => 2 ^ 16 | 2 => 2 ^ 12 | 1 => 2 ^ 8 | _ => 1

/-- Data in DRAM that reads as poisoned, and of which no slice holds a line (R415, R419). -/
def poisonAt (s : State) (pa : Nat) : Bool :=
  s.poison.contains (pa / 128) && match homeOf s pa with
    | .ok (.slice n) => ((getSlice s n).anyLine (pa / 128)).isNone
    | _ => false

/-- The walk from a level down: the first fault, or the leaf (R408). Table entries are read as the coherent system
holds them. -/
def walkTable (s : State) (secure : Bool) (va : Nat) (use : Use) : Nat → Nat → Except Cause Leaf
  | lvl, table =>
    let e := leNat (peek s (table + va / 2 ^ levelShift lvl % levelEntries lvl * 8) 8)
    let addr := pteField e 47 8 * 256
    let leaf := lvl = 0 || pteField e 1 1 = 1
    if poisonAt s (table + va / 2 ^ levelShift lvl % levelEntries lvl * 8) then .error 0x097
    else if pteField e 0 0 = 0 then .error 0x090
    else if pteField e 63 48 ≠ 0 ∨ pteField e 7 5 ≠ 0 ∨ (lvl = 3 ∧ pteField e 1 1 = 1)
      ∨ addr % (if leaf then 2 ^ levelShift lvl else nextAlign lvl) ≠ 0 then .error 0x092
    else if leaf then
      let r := pteField e 2 2 = 1
      let w := pteField e 3 3 = 1
      if use.reads && !r then .error 0x096
      else if use.writes && !w then .error 0x091
      else if (pteField e 4 4 = 1) ≠ secure then .error 0x094
      else .ok { vbase := va / 2 ^ levelShift lvl * 2 ^ levelShift lvl, size := 2 ^ levelShift lvl, pbase := addr, r := r, w := w }
    else match lvl with
      | 0 => .error 0x092
      | l + 1 => walkTable s secure va use l addr

/-- Cycles of a walk that starts behind a router: a system read for each level it comes to, at the home of the table's line
(R223, R408). -/
def walkCost (s : State) (router va : Nat) : Nat → Nat → Nat
  | lvl, table =>
    let pa := table + va / 2 ^ levelShift lvl % levelEntries lvl * 8
    let e := leNat (peek s pa 8)
    let here := 60 + 24 * match homeOf s pa with | .ok (.slice n) => hops router (routerOfSlice n) | _ => 0
    let addr := pteField e 47 8 * 256
    if pteField e 0 0 = 0 ∨ pteField e 63 48 ≠ 0 ∨ pteField e 7 5 ≠ 0 ∨ pteField e 1 1 = 1 ∨ addr % nextAlign lvl ≠ 0 then here
    else match lvl with
      | 0 => here
      | l + 1 => here + walkCost s router va l addr

/-- A cached leaf translation of MP0, of the core's partition, that allows the access. -/
def findLeaf (c : Core) (va : Nat) (use : Use) : Option Leaf :=
  (c.port 0).tlb.find? fun l => l.part = c.part.getD 0 && l.vbase ≤ va && va < l.vbase + l.size && (!use.reads || l.r) && (!use.writes || l.w)

/-- The radix walk of MP0 for an address, through its cache (R408). -/
def walkLeaf (s : State) (core va : Nat) (use : Use) : Except Cause Leaf :=
  match findLeaf (getCore s core) va use with
  | some l => .ok l
  | none =>
    let p : Partition := tget {} s.parts (partOf s core)
    walkTable s p.secure va use 3 p.ptroot

/-- The physical address that the launch-table entry gives (R343). -/
def ltePa (c : Core) (va : Nat) : Option Nat :=
  match c.lte with
  | some (vb, sz, pb) => if vb ≤ va ∧ va < vb + sz then some (pb + (va - vb)) else none
  | none => none

/-- Translation of an access of n bytes (R150): windows, then the launch-table entry, then the walk. -/
def translate (s : State) (core va n : Nat) (use : Use) : Xlate :=
  let c := getCore s core
  match findWin c va with
  | some (p, k, w) => winRoute s core va n use p k w
  | none =>
    match ltePa c va with
    | some pa =>
      if use.writes then .fault 0 0x091
      else match reach s core pa with
        | .ok h => .ok { pa := pa, home := h, port := 0 }
        | .error x => .fault 0 x
    | none =>
      match walkLeaf s core va use with
      | .error x => .fault 0 x
      | .ok l =>
        let pa := l.pbase + (va - l.vbase)
        match reach s core pa with
        | .ok h => .ok { pa := pa, home := h, port := 0 }
        | .error x => .fault 0 x

/-- The leaf a walk has found joins MP0's 64 translations, the oldest leaving (R408, log entry 9). -/
def cacheLeaf (s : State) (core va : Nat) (use : Use) : State :=
  let c := getCore s core
  match findWin c va, ltePa c va, findLeaf c va use with
  | none, none, none =>
    match walkLeaf s core va use with
    | .ok l =>
      let p := c.port 0
      setCore s core (c.setPort 0 { p with tlb := (p.tlb ++ [{ l with part := partOf s core }]).drop (p.tlb.length + 1 - 64) })
    | .error _ => s
  | _, _, _ => s

/-- Cycles that acceptance waits for the translation of an address: none on a window, 4 on a cached leaf, and those
of the walk otherwise (R147, R408). -/
def walkCycles (s : State) (core va : Nat) (use : Use) : Nat :=
  let c := getCore s core
  if (findWin c va).isSome || (ltePa c va).isSome then 0
  else if (findLeaf c va use).isSome then 4
  else
    walkCost s (routerOfCore core) va 3 (tget {} s.parts (partOf s core) : Partition).ptroot

/-- A dirty range takes in the bytes of a write when it is translated (R410). -/
def widen (d : Dirty) (lo hi : Nat) : Dirty :=
  match d with
  | none => some (lo, hi)
  | some (a, b) => some (min a lo, max b hi)

def noteWrite (s : State) (core : Nat) (r : Route) (n : Nat) : State :=
  let c := getCore s core
  let p := c.port r.port
  let p := match r.win with
    | some k => { p with dirty := tput p.dirty k (widen (tget none p.dirty k) r.pa (r.pa + n - 1)) }
    | none => { p with walkDirty := widen p.walkDirty r.pa (r.pa + n - 1) }
  setCore s core (c.setPort r.port p)

/-- A remote entry whose use succeeds has its mark set again (R412). -/
def markRemote (s : State) (core : Nat) (r : Route) : State :=
  match r.home, r.win with
  | .remote _, some k =>
    let c := getCore s core
    let p := c.port r.port
    setCore s core (c.setPort r.port { p with wins := p.wins.map fun e => if e.1 = k then (k, { e.2 with mark := true }) else e })
  | _, _ => s

end Sys2Proof.Machine
end

