-- ==== Sys2Proof/Machine/Waits.lean ====
section
/-! DEFINITION. Replies into their destinations (R20, R148), barriers (R162, R163), timelines (R164), and what
releases and waits do when they complete (R149, R163 to R166). -/

namespace Sys2Proof.Machine

open Sys2Proof

/-- An access that no home knows of yet: a posted update in translation, diverted, or held behind a diverted one. -/
def Part.unplaced (p : Part) : Bool :=
  match p.phase with
  | .repair | .translating _ => true
  | _ => false

/-! ## Replies -/

/-- Puts a reply into the output position that was reserved for it (R14, R148). -/
def OutChan.put (c : OutChan) (ticket : Nat) (t : Token) (cyc : Nat) (ts : Stamp) : OutChan :=
  { c with q := c.q.map fun p => if p.ticket = ticket ∧ p.tok.isNone then { p with tok := some t, since := cyc, ts := ts } else p }

/-- Writes a reply to its destination, whose pending bit clears (R20, R148). -/
def writeSink (s : State) (u : UnitId) (k : Sink) (v : Quad) : State :=
  let e := getElem s u
  match k with
  | .d n => setElem s u { e.setD n v with pendD := e.pendD &&& ~~~(dbit n) }
  | .out c ticket tag => setElem s u (e.setOut c ((e.outCh c).put ticket ⟨v, tag⟩ s.cycle (getCore s u.core).clock))
  | .pair n => setElem s u { e.setD n v with pendD := e.pendD &&& ~~~(dbit n) }
  | .lane off => setElem s u { e.laneWrite off (leBytes 16 v.toNat) with pendLane := false }
  | .word (some n) => setElem s u { e.setD n v with pendD := e.pendD &&& ~~~(dbit n) }
  | .request n => setElem s u { e.setD n v with pendD := e.pendD &&& ~~~(dbit n) }
  | .word none | .engine | .nul => s

/-- Writes the 32 bytes of a schedule entry to two registers (R182). -/
def writePair (s : State) (u : UnitId) (n : Fin 15) (lo hi : Quad) : State :=
  let e := getElem s u
  setElem s u { (e.setD n lo).setD (n.val + 1) hi with pendD := e.pendD &&& ~~~(dbit n ||| dbit (n.val + 1)) }

/-! ## Sleep (R181) -/

/-- An event that a sleeping control element may be waiting for: bit 0 a timeline, 1 a barrier, 2 the doorbell, 3 a
rewire. The wake word takes in the enabled events of the cycle so far; a Frozen control element sleeps on (R384). -/
def sleepEvent (s : State) (core bit : Nat) : State :=
  let x := getCtl s core
  match x.sleep with
  | some z =>
    if z.mask.getLsbD bit ∧ (getElem s ⟨core, ceIx⟩).run = 1 then
      { setCtl s core { x with sleep := some { z with seen := z.seen ||| 1#4 <<< bit } } with
        agenda := s.agenda ++ [.event (.sleepWake core)] }
    else s
  | none => s

/-- The wake word: the enabled events seen, TIMEOUT and TRAP. -/
def wakeUp (s : State) (core : Nat) (timeout trap : Bool) : State :=
  let x := getCtl s core
  match x.sleep with
  | some z =>
    let s := setCtl s core { x with sleep := none }
    writeSink s ⟨core, ceIx⟩ z.sink (.ofNat 128 (z.seen.toNat + 16 * timeout.toNat + 32 * trap.toNat))
  | none => s

/-! ## Barriers and timelines -/

/-- Arrivals reach the expected count, and the phase advances as often as they do (R162); fuel is enough for a count of
4,095. -/
def advancePhase : Nat → Barrier → Barrier
  | 0, b => b
  | n + 1, b =>
    if b.expected = 0 ∨ b.arrived < b.expected then b
    else advancePhase n { b with arrived := b.arrived - b.expected, phase := b.phase + 1 }

/-- Counts c arrivals. -/
def Barrier.arrive (b : Barrier) (c : Nat) (ts : Stamp) : Barrier :=
  advancePhase (b.arrived + c) { b with arrived := b.arrived + c, ts := tsMax b.ts ts }

/-- The arrival word: the phase at which the arrival was counted, and TRIP (R162). -/
def arrivalWord (before after : BitVec 16) : Quad :=
  .ofNat 128 (before.toNat + (if before ≠ after then 2 ^ 16 else 0))

/-- Whether the phase ph has passed (R163). -/
def phasePassed (phase ph : BitVec 16) : Bool := 1 ≤ (phase - ph).toNat && (phase - ph).toNat ≤ 0x7FFF

/-- The phase word of a wait (R163). -/
def phaseWord (phase : BitVec 16) (late : Bool) : Quad := .ofNat 128 (phase.toNat + (if late then 2 ^ 16 else 0))

/-- Numbers completed above a counter that now follow it without a gap. -/
def runUp : Nat → Dword → List Dword → Dword × List Dword
  | 0, c, l => (c, l)
  | k + 1, c, l => if l.contains (c + 1) then runUp k (c + 1) (l.filter (· ≠ c + 1)) else (c, l)

/-- The n-th command on a timeline has completed; the counter reaches the highest number below which all have (R164). -/
def Core.completeTl (c : Core) (k : Nat) (n : Dword) : Core :=
  let l := n :: tget [] c.tlDone k
  let (v, rest) := runUp l.length (c.timeline k) l
  { c with tl := tput c.tl k v, tlDone := tput c.tlDone k rest }

/-! ## Posted updates outstanding (R153) -/

/-- The unacknowledged posted updates of an issuer, over the four ports. -/
def openUpdates (c : Core) (u : Nat) : Nat :=
  ([0, 1, 2, 3] : List Nat).foldl (fun n p => n + (tget {} (c.port p).issuers u : Issuer).open_) 0

/-- What a cwait returns: acknowledgements since the last one, the last of them, and whether any was lost. -/
def cwaitSum (c : Core) (u : Nat) : Nat × Quad × Bool :=
  let is : List Issuer := ([0, 1, 2, 3] : List Nat).map fun p => tget {} (c.port p).issuers u
  let last := is.foldl (fun (b : Issuer) i => if i.acked > 0 ∧ (b.acked = 0 ∨ b.stamp < i.stamp) then i else b) {}
  (is.foldl (fun n i => n + i.acked) 0, if last.acked > 0 then last.last else 0, is.any (·.lost))

def clearCwait (c : Core) (u : Nat) : Core :=
  ([0, 1, 2, 3] : List Nat).foldl (fun c p =>
    let q := c.port p
    match tfind q.issuers u with
    | some i => c.setPort p { q with issuers := tput q.issuers u { i with acked := 0, lost := false } }
    | none => c) c

/-- The word of R154: KIND, HOME and SEQ, COUNT, CAUSE. -/
def ackWord (esp : Quad) (count : Nat) (lost : Bool) : Quad :=
  esp ||| .ofNat 128 (min count 0xFFFF * 2 ^ 16 + (if lost then 0x3A3 else 0))

/-- KIND, HOME and SEQ of an acknowledgement from a home (R154). -/
def homeBits (h : Home) (seq : BitVec 16) : Quad :=
  let (kind, home) : Nat × Nat := match h with
    | .slice n => (0, n)
    | .cpad _ => (1, 0)
    | .clus _ b => (2, b)
    | .mpad b => (3, b)
    | .remote _ => (4, 0)
    | .host _ => (5, 0)
  .ofNat 128 (kind * 2 ^ 57 + home % 2 ^ 9 * 2 ^ 48 + (if kind = 5 then 0 else seq.toNat) * 2 ^ 32)

/-- Whether a home lies within a fence's scope (R166). -/
def inScope (sc : Scope) (h : Home) : Bool :=
  match sc, h with
  | .lane, _ => false
  | _, .cpad _ => true
  | .core, _ => false
  | _, .clus _ _ => true
  | .cluster, _ => false
  | _, .mpad _ | _, .slice _ => true
  | .module, _ => false
  | _, .remote _ => true
  | .domain, _ => false
  | .system, .host _ => true

/-- The updates of an issuer that are not yet acknowledged, and lie within a scope; an update in its radix walk or in the repair queue
has no home yet, and every scope but the lane's awaits it until its home is known (R152, R166). -/
def outstanding (s : State) (core u : Nat) (ok : Home → Bool) (lane : Bool) : List (Nat × Nat) :=
  s.reqs.flatMap fun e =>
    if e.2.core = core ∧ e.2.unit = u ∧ e.2.update then
      (e.2.parts.filter fun p => p.phase ≠ .done && (if p.unplaced then !lane else ok p.home)).map fun p => (e.1, p.lane)
    else []

/-! ## Waits -/

/-- Whether a wait's condition holds. -/
def waitHolds (c : Core) (u : Nat) : WaitKind → Bool
  | .barFull b ph _ => phasePassed (c.bar b).phase ph
  | .barPar b ph p0 => p0.getLsbD 0 ≠ ph.getLsbD 0 || (c.bar b).phase ≠ p0
  | .timeline k v => v.toNat ≤ (c.timeline k).toNat
  | .count n => openUpdates c u ≤ n
  | .fence _ us _ _ _ | .arrive _ _ us | .signal _ _ us => us.isEmpty

/-- The events of a core's waits whose conditions hold. -/
def heldWaits (s : State) (core : Nat) : List Instr :=
  let c := getCore s core
  (c.waits.filter fun w => waitHolds c w.2.unit w.2.kind).map fun w => .waitComplete ⟨core, w.2.unit⟩ w.1

/-- Tests a core's waits afresh. -/
def pollWaits (s : State) (core : Nat) : State := nextUp s (heldWaits s core)

/-- Arrivals counted at a barrier of a core: the arrival word, and the waits it lets pass. -/
def countArrivals (s : State) (core bar n : Nat) (ts : Stamp) : State × Quad :=
  let c := getCore s core
  let b := c.bar bar
  let b' := b.arrive n ts
  let s := pollWaits (setCore s core (c.setBar bar b')) core
  (if b'.phase ≠ b.phase then sleepEvent s core 1 else s, arrivalWord b.phase b'.phase)

/-- An advance of a timeline leaves its timestamp for the waits that observe it (R312). -/
def Core.stampTl (c : Core) (k : Nat) (ts : Stamp) : Core := { c with tlTs := tput c.tlTs k (tsMax (tget ts c.tlTs k) ts) }

/-- A timeline counter takes a new value, with the timestamp that the advance carries. -/
def setTimeline (s : State) (core k : Nat) (v : Dword) (ts : Stamp) : State :=
  let c := getCore s core
  if v = c.timeline k then s
  else sleepEvent (pollWaits (setCore s core ({ c with tl := tput c.tl k v }.stampTl k ts)) core) core 0

/-- The updates that a fence awaits no longer include one whose home proves to lie outside its scope (R166). -/
def leaveFences (s : State) (core : Nat) (k : Nat × Nat) (h : Home) : State :=
  let c := getCore s core
  if c.waits.any fun w => (match w.2.kind with | .fence sc us _ _ _ => us.contains k && !inScope sc h | _ => false) then
    pollWaits (setCore s core { c with waits := c.waits.map fun w =>
      (w.1, { w.2 with kind := match w.2.kind with
        | .fence sc us n last lost =>
          if !inScope sc h then .fence sc (us.filter (· ≠ k)) n last lost else w.2.kind
        | x => x }) }) core
  else s

/-- An engine's command numbered n on timeline k has completed (R164). -/
def finishTl (s : State) (core k : Nat) (n : Dword) : State :=
  let c := getCore s core
  let c' := c.completeTl k n
  let s := setCore s core c'
  if c'.timeline k = c.timeline k then s else sleepEvent (pollWaits s core) core 0

/-- A completion word of R23. -/
def completionWord (tlv : Dword) (esp count cause : Nat) : Quad :=
  .ofNat 128 (tlv.toNat * 2 ^ 64 + esp % 2 ^ 32 * 2 ^ 32 + min count 0xFFFF * 2 ^ 16 + cause % 1024)

/-- A unit by its number on a core; a number that a rewire has written names a unit of another core (R365). -/
def unitAt (core n : Nat) : UnitId := if n < 1000 then ⟨core, n⟩ else ⟨(n - 1000) / 100, (n - 1000) % 100⟩

/-- The number by which a core knows a unit: its own index, or that of a unit of another core. -/
def unitNo (core : Nat) (u : UnitId) : Nat := if u.core = core then u.ix else 1000 + 100 * u.core + u.ix

/-- The unit that a wait answers. -/
def Wait.dest (w : Wait) (core : Nat) : UnitId := w.movedTo.getD ⟨core, w.unit⟩

/-- A wait or release completes: what it does, and its reply. A remote wait's word goes to its sender's register. -/
def finishWait (s : State) (core id : Nat) (w : Wait) : State :=
  let u := w.dest core
  let s := raiseClock s core (getCore s u.core).clock
  let c := getCore s core
  let s := setCore s core { c with waits := tdel c.waits id }
  match w.kind with
  | .barFull b _ late =>
    let bar := c.bar b
    let word := completionWord 0 (bar.phase.toNat + (if late then 2 ^ 16 else 0)) 0 0
    match w.remote, w.peer with
    | some (k, ix, r), _ => writeSink (raiseClock s k bar.ts) ⟨k, ix⟩ (.word r) word
    | none, some m => { s with sent := s.sent ++ [(m, { code := 0, data := leBytes 16 word.toNat, ts := bar.ts })] }
    | none, none => writeSink (raiseClock s u.core bar.ts) u w.sink (phaseWord bar.phase late)
  | .barPar b _ _ => writeSink (raiseClock s u.core (c.bar b).ts) u w.sink (phaseWord (c.bar b).phase false)
  | .timeline k _ => writeSink (raiseClock s u.core (tget c.clock c.tlTs k)) u w.sink ((c.timeline k).setWidth 128)
  | .count _ =>
    let (n, last, lost) := cwaitSum c w.unit
    let s := setCore s core (clearCwait (getCore s core) w.unit)
    writeSink s u w.sink (ackWord last n lost)
  | .fence _ _ done last lost => writeSink s u w.sink (ackWord (if done = 0 then 0 else last) done lost)
  | .arrive b n _ =>
    let (s, word) := countArrivals s core b n c.clock
    writeSink s u w.sink word
  | .signal k n _ =>
    let v : Dword := .ofNat 64 (min (2 ^ 64 - 1) ((c.timeline k).toNat + n.toNat))
    writeSink (setTimeline s core k v c.clock) u w.sink (v.setWidth 128)

/-- A wait begins; it completes at once when its condition holds already. -/
def beginWait (s : State) (u : UnitId) (f : Flight) (k : WaitKind) (sink : Sink) : State :=
  let c := getCore s u.core
  let id := s.stamps
  let w : Wait := { unit := u.ix, kind := k, sink := sink, slot := f.slot, word := f.word, opa := f.opa, opb := f.opb }
  let s := { setCore s u.core { c with waits := tput c.waits id w } with stamps := id + 1 }
  if waitHolds c u.ix k then finishWait s u.core id w else s

/-- WAIT_COMPLETE: a barrier, timeline, cwait or fence wait, or a release, whose condition holds, completes. -/
def execWaitComplete (u : UnitId) (id : Nat) (s : State) : Outcome :=
  let c := getCore s u.core
  match tfind c.waits id with
  | some w => .next (if w.unit = u.ix ∧ waitHolds c u.ix w.kind then finishWait s u.core id w else s)
  | none => .next s

/-- SLEEP_WAKE: the wake word of a sleep that has seen an enabled event. -/
def execSleepWake (core : Nat) (s : State) : Outcome :=
  match (getCtl s core).sleep with
  | some z => .next (if z.seen = 0 ∨ (getElem s ⟨core, ceIx⟩).run ≠ 1 then s else wakeUp s core (z.limit.any (· ≤ s.cycle)) false)
  | none => .next s

/-- SLEEP_TIMEOUT: the cycle limit of a sleep expires; events of the same cycle are in the word too. -/
def execSleepTimeout (core : Nat) (s : State) : Outcome :=
  match (getCtl s core).sleep with
  | some z => .next (if z.limit.any (· ≤ s.cycle) ∧ (getElem s ⟨core, ceIx⟩).run = 1 then wakeUp s core true false else s)
  | none => .next s

end Sys2Proof.Machine
end

