-- ==== Sys2Proof/Machine/Requests.lean ====
section
/-! DEFINITION. Memory requests between their acceptance and their reply: what the homes perform (R154 to R161, R292 to
R299, R305, R312, R313), router merging (R315), and the arrival of replies and acknowledgements (R20, R151, R153). -/

namespace Sys2Proof.Machine

open Sys2Proof

/-! ## Read-modify-writes (R158 to R160) -/

/-- The far floating-point addition: RNE, no flag, canonical NaN. -/
def farFadd (f : Num.Fp) (a b : Nat) : Nat := (Num.encode f .rne (Num.add (Num.decode f a) (Num.decode f b) .rne).1 0).1

/-- Four 32-bit lanes, each modulo 2^32. -/
def addLanes32 (a b : Nat) : Nat :=
  joinLanes 32 (List.zipWith (fun x y => (x + y) % 2 ^ 32) (splitLanes 32 4 a) (splitLanes 32 4 b))

/-- The new value of R159. -/
def atomValue (op : AtomOp) (old b : Nat) : Nat :=
  match op with
  | .addI64 => (old + b) % 2 ^ 64
  | .addI32 => (old + b) % 2 ^ 32
  | .andB64 => old &&& b
  | .orB64 => old ||| b
  | .xorB64 => old ^^^ b
  | .minI64 => if Num.toSigned old 64 ≤ Num.toSigned b 64 then old else b
  | .maxI64 => if Num.toSigned old 64 ≤ Num.toSigned b 64 then b else old
  | .minN64 => min old b
  | .maxN64 => max old b
  | .xchgB64 | .xchgB128 => b
  | .faddF32 => farFadd .fp32 old b
  | .faddF64 => farFadd .fp64 old b
  | .fmaxF32 => (Num.encode .fp32 .rne (Num.fmax (Num.decode .fp32 old) (Num.decode .fp32 b)).1 0).1
  | .addI32x4 => addLanes32 old b

/-- What a home writes for a read-modify-write of n bytes: none where a cas finds another value (R160). -/
def rmwValue (op : MemOp) (n old b cmp : Nat) : Option Nat :=
  match op with
  | .add _ => some ((old + b) % 2 ^ (8 * n))
  | .fadd .w64 => some (farFadd .fp64 old b)
  | .fadd _ => some (farFadd .fp32 old b)
  | .atom o => some (atomValue o old b)
  | .cas => if old = cmp then some b else none
  | _ => none

/-- A read-modify-write performed now, as one step (R312): the old value is in the answer. -/
def performRmw (s : State) (h : Home) (p pa n : Nat) (op : MemOp) (b cmp : Nat) (pts : Stamp) : State × Answer :=
  if (foreignTo s p pa).isSome then (s, { cause := 0x34A, ts := pts })
  else
  match h with
  | .slice k =>
    let addr := pa / 128
    let off := pa % 128
    if s.poison.contains addr ∧ ((getSlice s k).hit p addr).isNone then (s, { cause := 0x097, ts := pts })
    else match ensureLine s k p addr .normal false with
      | (s, some (key, l)) =>
        let old := (l.data.drop off).take n
        match rmwValue op n (leNat old) b cmp with
        | some v =>
          let (s, a) := writeResident s k key l off (leBytes n v) pts false
          (s, { a with value := old })
        | none => readResident s k key l off n pts false
      | (s, none) =>
        let (s, bs, _) := fetchLine s k addr
        let old := (bs.drop off).take n
        match rmwValue op n (leNat old) b cmp with
        | some v =>
          let (s, a) := writeThrough s k p addr off (leBytes n v) pts
          (s, { a with value := old })
        | none => readThrough s k addr off n pts
  | h =>
    let old := Memory.readN s.mem pa n
    match rmwValue op n (leNat old) b cmp with
    | some v =>
      let (s, a) := performWrite s h p pa (leBytes n v) .normal false pts
      (s, { a with value := old })
    | none => performRead s h p pa n .normal false pts

/-! ## Monitors (R161, R319) -/

/-- Arms a monitor, or completes it at once: REASON 0 where the value differs, 2 where none is free. -/
def armMonitor (s : State) (id n p pa len : Nat) (expect : Nat) (pts : Stamp) (peer : Option Nat) : State × Option Answer :=
  let (s, a) := performRead s (.slice n) p pa len .normal false pts
  if a.cause ≠ 0 then (s, some a)
  else
    let v := leNat a.value
    let done (reason : Nat) : Option Answer := some { a with value := leBytes 16 (wakeWord reason a.seq v).toNat }
    if v ≠ expect then (s, done 0)
    else
      let sl := getSlice s n
      if sl.monitors.length ≥ 64 then (s, done 2)
      else (setSlice s n { sl with monitors := sl.monitors ++ [{ req := id, line := pa / 128, pa := pa, n := len, peer := peer, part := p }] }, none)

/-! ## Performing at the home -/

def setReq (s : State) (id : Nat) (r : Req) : State := { s with reqs := tput s.reqs id r }

/-- Changes one access of a request. -/
def setPart (s : State) (id lane : Nat) (f : Part → Part) : State :=
  match tfind s.reqs id with
  | some r => setReq s id (r.answer lane f)
  | none => s

def Req.part (r : Req) (lane : Nat) : Option Part := r.parts.find? (·.lane = lane)

/-- Whether an access goes no-allocate (R157, R295, R298, R299). -/
def Req.passes (r : Req) (p : Part) : Bool := r.noalloc || p.noalloc || r.reuse = .stream

/-- The home has performed an access: its answer travels back. -/
def answered (s : State) (id lane : Nat) (back : Nat) (a : Answer) : State :=
  setPart s id lane fun p =>
    { p with value := .ofNat 128 (leNat a.value), seq := a.seq, ts := a.ts, rts := a.rts, wts := a.wts, line := a.line ++ a.side,
             bulk := if a.value.length > 16 then a.value ++ a.side else [], cause := a.cause, phase := .replied (s.cycle + back) }

/-- The bytes that an access writes. -/
def Part.operand (p : Part) : List Byte := if p.bulk.isEmpty then leBytes p.n p.data.toNat else p.bulk

/-- The issuer number of an engine's accesses, and that of updates which their command has left behind (R195). -/
def engUnit (port : Nat) : Nat := 100 + port
def leftUnit (port : Nat) : Nat := 150 + port

/-- The port by which a request came, as ECAUSE names it: an engine's own, or a memory port. -/
def Req.source (r : Req) (p : Part) : Nat := if r.unit ≥ 100 then (r.unit - 100) % 50 else 8 + p.port

/-! ## Pins of the matrix nodes (R242) -/

/-- Whether a request is a matrix node's read of a line. -/
def Req.tile (r : Req) : Bool := r.unit = engUnit 12 && r.op = .load

/-- Lines that one matrix node has pinned. -/
def pinsOf (s : State) (core : Nat) : Nat := ((tget [] (getCore s core).fetches 12 : List Fetch).filter (·.pin)).length

/-- Other pinned lines in the set of a line. -/
def pinsInSet (sl : Slice) (addr : Nat) : List Line :=
  (sl.lines.map (·.2)).filter fun l => l.pin > 0 && l.addr ≠ addr && Config.l2Set l.addr % 2048 = Config.l2Set addr % 2048

/-- Whether another core's matrix node has pinned a line. -/
def pinnedElsewhere (s : State) (core n addr : Nat) : Bool :=
  s.cores.any fun k => k.1 ≠ core && (tget [] k.2.fetches 12 : List Fetch).any fun f => f.pin && f.home = some (.slice n) && f.pa / 128 = addr

/-- A fetch that would pass a limit of R242 waits while a pin of another node makes it so. Where the node's own pins do, the line is held in
its operand buffer alone, as with an empty mask (DESIGN CHOICE, log entry 47). -/
def pinWaits (s : State) (n : Nat) (r : Req) (p : Part) : Bool :=
  let l := pinsInSet (getSlice s n) (p.pa / 128)
  r.tile && l.length ≥ 2 && l.any fun x => pinnedElsewhere s r.core n x.addr

/-- A line that a matrix node has read is pinned where its slice holds it. -/
def pinLine (s : State) (id : Nat) (r : Req) (n : Nat) (p : Part) : State :=
  let sl := getSlice s n
  match sl.hit (r.own s) (p.pa / 128) with
  | some (k, l) =>
    let asked : Bool := (tget [] (getCore s r.core).fetches 12 : List Fetch).any (·.req = id)
    if !r.tile ∨ !asked ∨ (pinsInSet sl l.addr).length ≥ 2 ∨ pinsOf s r.core ≥ 1024 then s
    else
      let c := getCore s r.core
      let fs : List Fetch := (tget [] c.fetches 12).map fun f => if f.req = id then { f with pin := true } else f
      let s := setCore s r.core { c with fetches := tput c.fetches 12 fs }
      setSlice s n { getSlice s n with lines := tput sl.lines k { l with pin := l.pin + 1 } }
  | none => s

/-- Whether filling a view line decodes a block-NaN under TRAPEN (R303). -/
def viewTraps (s : State) (addr : Nat) : Bool :=
  match (if spaceOf (addr * 128) = .view then findView s.fw addr else none) with
  | some (_, fw, j) => fw.trapen && ((viewFill s.mem fw j).2.2 &&& Num.fBNAN) ≠ 0
  | none => false

/-- The block-NaN trap goes to the control element of the core whose request caused the fill (R303). -/
def raiseBlockNan (s : State) (core port : Nat) : State :=
  raiseTrap s core { kind := 2, src := port, cause := 0x2C4 }

/-- Whether an access fills its line now: every access but a write that goes through the chute, where its partition holds no line. -/
def fillsLine (s : State) (n own : Nat) (r : Req) (p : Part) : Bool :=
  ((getSlice s n).hit own (p.pa / 128)).isNone
    && !(r.op = .store && (r.passes p || (victim (getSlice s n) own (Config.l2Set (p.pa / 128) % 2048)).isNone))

/-- Performs an access at its home. -/
def performAccess (s : State) (id : Nat) (r : Req) (p : Part) : State :=
  let own := r.own s
  let back := r.travel p.home
  match r.op with
  | .load | .prefetch =>
    let (s, a) := performRead s p.home own p.pa p.n r.reuse (r.passes p) r.pts
    let s := match p.home with | .slice n => pinLine s id r n p | _ => s
    answered s id p.lane back a
  | .store =>
    let (s, a) := performWrite s p.home own p.pa p.operand r.reuse (r.passes p) r.pts
    let s := match p.home with | .slice n => if p.side.isEmpty then s else setSide s n (p.pa / 128) p.sideAt p.side | _ => s
    answered s id p.lane back a
  | .monitor =>
    match p.home with
    | .slice n =>
      match armMonitor s id n own p.pa p.n p.compare.toNat r.pts none with
      | (s, some a) => answered s id p.lane back a
      | (s, none) => setPart s id p.lane fun p => { p with phase := .done }
    | _ => s
  | op =>
    let (s, a) := performRmw s p.home own p.pa p.n op p.data.toNat p.compare.toNat r.pts
    answered s id p.lane back a

/-- What the performance of a host's access does for its link: the clock is raised, and the tokens of triggers behind a write carry its
timestamp (R312, R318). -/
def linkPerformed (s : State) (id : Nat) (r : Req) (lane : Nat) : State :=
  match (if r.link.isSome then (tfind s.reqs id).bind (·.part lane) else none) with
  | none => s
  | some p =>
    let later (g : Rung) : Rung := if r.op = .store ∧ id < g.after then { g with ts := tsMax g.ts p.ts } else g
    { s with
      hostClock := tsMax s.hostClock p.ts
      parts := s.parts.map fun e => (e.1, { e.2 with doorbells := e.2.doorbells.map fun d => (d.1, { d.2 with toks := d.2.toks.map later }) }) }

/-- Performs an access at its home; where it fills a line, a block-NaN in the line's storage is reported (R303). -/
def performPart (s : State) (id : Nat) (r : Req) (p : Part) : State :=
  let nan : Bool := match p.home with
    | .slice n => r.link.isNone && fillsLine s n (r.own s) r p && viewTraps s (p.pa / 128)
    | _ => false
  let r := if r.link.isSome then { r with pts := s.hostClock } else r
  let s := linkPerformed (performAccess s id r p) id r p.lane
  if nan then raiseBlockNan s r.core (r.source p) else s

/-- The partition p owns cached lines of an address or a waiting chute entry covers it: no fill is needed to read. -/
def present (s : State) (n p addr : Nat) : Bool :=
  let sl := getSlice s n
  (sl.hit p addr).isSome || sl.chute.any (·.addr = addr)

/-- Whether some access waits for the data of a line (R292). -/
def missPending (s : State) (n addr : Nat) : Option Nat :=
  s.reqs.findSome? fun e => e.2.parts.findSome? fun p =>
    match p.phase with
    | .missed due => if p.home = .slice n ∧ p.pa / 128 = addr then some due else none
    | _ => none

/-- An entry of the interleave table holds requests to an address (R305). -/
def heldByDomain (s : State) (pa : Nat) : Bool := ((findIdt s.idt pa).map idtHold).getD false

/-- A slice no longer serves an address after WBINV (R305). -/
def Slice.closedTo (sl : Slice) (pa : Nat) : Bool := sl.closed.any fun r => r.1 ≤ pa && pa ≤ r.2

/-- The lines whose data no-allocate reads await in a slice: each has a place in the chute until it is answered (R298). -/
def chuteReads (s : State) (n : Nat) : List Nat :=
  (s.reqs.flatMap fun e => e.2.parts.filterMap fun p =>
    match p.phase with
    | .missed _ => if p.home = .slice n ∧ (e.2.op = .load ∨ e.2.op = .prefetch) ∧ e.2.passes p then some (p.pa / 128) else none
    | _ => none).eraseDups

/-- Room in a slice's chute for a line (R298). -/
def chuteRoom (s : State) (n addr : Nat) : Bool :=
  let sl := getSlice s n
  let reads := chuteReads s n
  sl.chute.any (·.addr = addr) || reads.contains addr || sl.chute.length + reads.length < 512

/-- A no-allocate request that misses, or one that finds no way, needs a place in the chute (R298). -/
def needsChute (s : State) (n own : Nat) (r : Req) (p : Part) : Bool :=
  let sl := getSlice s n
  r.op ≠ .monitor && (sl.hit own (p.pa / 128)).isNone
    && (r.passes p || (victim sl own (Config.l2Set (p.pa / 128) % 2048)).isNone)
    && !chuteRoom s n (p.pa / 128)

/-- The line misses that a matrix node has outstanding: at most 64 (R243). -/
def tileMisses (s : State) (core : Nat) : Nat :=
  (s.reqs.flatMap fun e => if e.2.core = core ∧ e.2.tile then e.2.parts.filter (fun p => match p.phase with | .missed _ => true | _ => false) else []).length

/-- Whether an access must wait for data from DRAM: a read that misses, and a write that misses and allocates. -/
def needsData (s : State) (n own : Nat) (r : Req) (p : Part) : Bool :=
  let addr := p.pa / 128
  if r.op = .store ∧ (r.passes p ∨ (victim (getSlice s n) own (Config.l2Set addr % 2048)).isNone) then false
  else if r.op = .load ∨ r.op = .prefetch ∨ r.op = .monitor then !present s n own addr
  else ((getSlice s n).hit own addr).isNone

/-- Whether an access waits at its slice: for a place in the chute, for a pin, or for one of the 64 misses of its matrix node. -/
def mustQueue (s : State) (n own : Nat) (r : Req) (p : Part) : Bool :=
  needsChute s n own r p || pinWaits s n r p || (r.tile && needsData s n own r p && tileMisses s r.core ≥ 64)

/-- Cycles from a slice's miss to its data (R7, R292, R439): LPDDR6, and the trip to the controller slice. A miss is one trip of R292, 24 cy
per hop there and back, as R439 counts 12 cy per hop each way (DEDUCED, log entry 46). -/
def dramCycles (cycle n addr : Nat) : Nat :=
  560 + Config.dramState addr cycle % 161 + 24 * hops (routerOfSlice n) (routerOfSlice (controllerOf addr))

/-- A host write behind one that the link received before it and that has not been performed: the link's writes are performed in
the order of their receipt (R318, R425). -/
def behindHost (s : State) (id : Nat) (r : Req) : Bool := r.link.isSome && r.op = .store && !hostDone s id

/-- An access arrives at its home, or is taken up again there. -/
def arriveHome (s : State) (id lane : Nat) : State :=
  match tfind s.reqs id with
  | none => s
  | some r =>
    match r.part lane with
    | none => s
    | some p =>
      let due := match p.phase with | .travelling d => d ≤ s.cycle | .queued _ => true | _ => false
      if !due then s
      else match p.home with
        | .remote _ => s
        | .slice n =>
          let addr := p.pa / 128
          let own := r.own s
          let wait (s : State) : State :=
            { setPart s id lane fun p => { p with phase := match p.phase with | .queued k => .queued k | _ => .queued s.stamps } with
              stamps := s.stamps + 1 }
          let moved : Option Home := if (getSlice s n).closedTo p.pa then
              (match homeOf s p.pa with | .ok h => if h = .slice n then none else some h | .error _ => none) else none
          if let some h := moved then setPart s id lane fun p => { p with phase := .replay (s.cycle + r.travel p.home) h }
          else if heldByDomain s p.pa ∨ behindHost s id r then wait s
          else match missPending s n addr with
            | some d => setPart s id lane fun p => { p with phase := .missed d }
            | none =>
              if mustQueue s n own r p then wait s
              else if needsData s n own r p then setPart s id lane fun p => { p with phase := .missed (s.cycle + dramCycles s.cycle n addr) }
              else performPart s id r p
        | _ =>
          if behindHost s id r then
            { setPart s id lane fun p => { p with phase := match p.phase with | .queued k => .queued k | _ => .queued s.stamps } with
              stamps := s.stamps + 1 }
          else performPart s id r p

/-- The event in which an access reaches its home. -/
def homeEvent (id : Nat) (r : Req) (p : Part) : Instr :=
  match r.op, p.home with
  | .monitor, _ => .monitorArm id
  | .load, .slice _ | .prefetch, .slice _ => .homeRead id p.lane
  | .store, .slice _ => .homeWrite id p.lane
  | .load, _ | .store, _ | .prefetch, _ => .explicitHomeAccess id p.lane
  | _, _ => .homeRmw id p.lane

/-- HOME_READ (R312). -/
def execHomeRead (id lane : Nat) (s : State) : Outcome := .next (arriveHome s id lane)
/-- HOME_WRITE (R312). -/
def execHomeWrite (id lane : Nat) (s : State) : Outcome := .next (arriveHome s id lane)
/-- HOME_RMW (R159, R160, R312, R317). -/
def execHomeRmw (id lane : Nat) (s : State) : Outcome := .next (arriveHome s id lane)
/-- EXPLICIT_HOME_ACCESS (R313). -/
def execExplicitHomeAccess (id lane : Nat) (s : State) : Outcome := .next (arriveHome s id lane)
/-- MONITOR_ARM (R161, R319): a monitor has one access. -/
def execMonitorArm (id : Nat) (s : State) : Outcome := .next (arriveHome s id 0)

/-- The accesses that wait for the data of a line, due now. -/
def missedOn (s : State) (n addr : Nat) : List (Nat × Nat) :=
  s.reqs.flatMap fun e => (e.2.parts.filter fun p =>
    match p.phase with
    | .missed due => due ≤ s.cycle && p.home = .slice n && p.pa / 128 = addr
    | _ => false).map fun p => (e.1, p.lane)

/-- The data of a line is there: the accesses that waited for it are performed in the order of their arrival. -/
def dataArrived (s : State) (n addr : Nat) : State :=
  (missedOn s n addr).foldl (fun s k =>
    match tfind s.reqs k.1 with
    | some r =>
      match r.part k.2 with
      | some p =>
        if needsChute s n (r.own s) r p ∨ pinWaits s n r p then
          { setPart s k.1 k.2 fun p => { p with phase := .queued s.stamps } with stamps := s.stamps + 1 }
        else performPart s k.1 r p
      | none => s
    | none => s) s

/-- DRAM_DATA_RETURN (R292, R439). -/
def execDramDataReturn (n line : Nat) (s : State) : Outcome := .next (dataArrived s n line)

/-- VIEW_LINE_FILL (R302, R303): a view line that accesses wait for at its home slice is decoded into a line. -/
def execViewLineFill (line : Nat) (s : State) : Outcome :=
  match homeOf s (line * 128) with
  | .ok (.slice n) => .next (dataArrived s n line)
  | _ => .next s

/-- VIEW_LINE_WRITEBACK (R302): a dirty view line is re-encoded whole; it stays cached, clean. -/
def execViewLineWriteback (line : Nat) (s : State) : Outcome :=
  match homeOf s (line * 128) with
  | .ok (.slice n) =>
    match (getSlice s n).anyLine line with
    | some (k, l) =>
      if l.dirty ∧ spaceOf (line * 128) = .view then
        let s := storeLine s n line l.data l.side
        let sl := getSlice s n
        .next (setSlice s n { sl with lines := tput sl.lines k { l with dirty := false } })
      else .next s
    | none => .next s
  | _ => .next s

/-- CHUTE_DRAIN (R298): the oldest entry drains to DRAM. -/
def execChuteDrain (n : Nat) (s : State) : Outcome :=
  match (getSlice s n).chute with
  | c :: _ => .next (drainLine s n c.addr)
  | [] => .next s

/-- REPLAY (R305): the requester re-sends to the home that the old slice named. -/
def execReplay (id lane : Nat) (s : State) : Outcome :=
  match tfind s.reqs id with
  | some r => .next (setPart s id lane fun p =>
      match p.phase with
      | .replay due h => if due ≤ s.cycle then { p with home := h, phase := .travelling (s.cycle + r.travel h) } else p
      | _ => p)
  | none => .next s

/-- ROUTER_READ_MERGE (R315): the router of both cores answers a newer read of a leased line from an older one's reply
that is still on its way, when the reply's lease covers the newer read. -/
def execRouterReadMerge (newer np older op : Nat) (s : State) : Outcome :=
  match tfind s.reqs newer, tfind s.reqs older with
  | some r, some q =>
    match r.part np, q.part op with
    | some p, some o =>
      let leased : Bool := match p.home with | .slice _ => true | _ => false
      let pending : Bool := match o.phase with | .replied due => s.cycle < due | _ => false
      let waiting : Bool := match p.phase with | .travelling _ | .queued _ | .missed _ => true | _ => false
      if r.op = .load ∧ q.op = .load ∧ leased ∧ p.home = o.home ∧ p.pa / 128 = o.pa / 128 ∧ pending ∧ waiting
          ∧ o.cause = 0 ∧ newer ≠ older ∧ r.link.isNone ∧ q.link.isNone ∧ partOf s r.core = partOf s q.core
          ∧ routerOfCore r.core = routerOfCore q.core ∧ !tsLt o.rts r.pts then
        let due := match o.phase with | .replied d => d | _ => s.cycle
        .next (setPart s newer np fun p =>
          { p with value := .ofNat 128 (leNat ((o.line.drop (p.pa % 128)).take p.n)),
                   bulk := if r.tile then o.line else if p.n > 16 then (o.line.drop (p.pa % 128)).take p.n else [], ts := tsMax r.pts o.wts,
                   rts := o.rts, wts := o.wts, line := o.line, phase := .replied due })
      else .next s
    | _, _ => .next s
  | _, _ => .next s

/-! ## Instructions cancelled (R21) -/

/-- The element without one of its instructions in flight: tokens return to their heads, output positions are released,
pending bits clear. -/
def cancelFlight (e : Elem) (f : Flight) : Elem :=
  let e := ([0, 1, 2, 3] : List (Fin 4)).foldl (fun (e : Elem) (n : Fin 4) =>
    if f.consume.getLsbD n then let c := e.inCh n; e.setIn n { c with reserved := c.reserved - 1 } else e) e
  let e := f.outs.foldl (fun (e : Elem) o => let c := e.outCh o.1; e.setOut o.1 { c with q := c.q.filter (·.ticket ≠ o.2) }) e
  { e with pendD := e.pendD &&& ~~~f.pendD, pendA := e.pendA &&& ~~~f.pendA, pendP := e.pendP &&& ~~~f.pendP,
           pendLane := e.pendLane && !f.pendLane }

/-- A cancelled command gives up its queue entry (R167). -/
def giveUpEntries (c : Core) (f : Flight) : Core :=
  f.acts.foldl (fun c a =>
    match a with
    | .command p _ => c.setQueue p { c.queue p with taken := (c.queue p).taken - 1 }
    | _ => c) c

/-- Cancels every instruction of a unit that is between its firing and its V, newest first. -/
def cancelAll (s : State) (u : UnitId) : State :=
  let e := getElem s u
  let e' := e.flights.reverse.foldl cancelFlight e
  let s := setElem s u { e' with flights := [] }
  setCore s u.core (e.flights.foldl giveUpEntries (getCore s u.core))

/-- A deferred trap (R151, R175): everything not yet visible is cancelled. The trap is held while its element is
Stopped or Frozen. -/
def deferTrap (s : State) (u : UnitId) (slot : Nat) (word : Word) (cause : Cause) (addr : Dword) : State :=
  let e := getElem s u
  if e.run ≠ 1 then
    (if e.run = 0 then s else setElem s u { e with held := e.held ++ [{ slot := slot, word := word, cause := cause, addr := addr }] })
  else if isCe u then
    let pc := match e.flights.head? with | some f => f.slot | none => (getCtl s u.core).pc
    let s := cancelAll s u
    let x := getCtl s u.core
    -- a sleep that is not yet visible is cancelled with the rest
    let x := { x with sleep := if e.flights.isEmpty then x.sleep else none }
    nextUp (setCtl s u.core { x with own := some ⟨cause, pc, word, addr, .ofNat 128 slot, true⟩ }) [.trapTaken u.core]
  else trapUnit (cancelAll s u) u slot word cause addr 0 true

/-! ## Replies and acknowledgements -/

/-- Every access of a request has its answer at the requester. -/
def Req.ready (r : Req) (cyc : Nat) : Bool :=
  r.parts.all fun p => match p.phase with | .replied due => due ≤ cyc | _ => false

/-- The lanes of a reply, each in its place (R158); a lane without an access is zero. -/
def Req.value (r : Req) : Quad :=
  .ofNat 128 (r.parts.foldl (fun v p => v + p.value.toNat % 2 ^ r.laneBits * 2 ^ (r.laneBits * p.lane)) 0)

/-- A lost store is reported in its acknowledgement, not by a trap (R154). -/
def lostCause : Cause := 0x3A3

/-- An access that was not performed for want of its peer: lost, or refused there (R154, R412). -/
def Part.lost (p : Part) : Bool := p.cause = lostCause || p.cause = 0x3A1 || p.cause = 0x3A2 || p.cause = 0x345

/-- The first nonzero cause of a reply that traps (R151). -/
def Req.replyCause (r : Req) : Option (Cause × Nat) :=
  (r.parts.find? fun p => p.cause ≠ 0 && !(p.cause = lostCause)).map fun p => (p.cause, p.va)

/-- An update is acknowledged: fences and releases that wait for it are told (R149, R166). -/
def ackWaits (c : Core) (id : Nat) (p : Part) : Core :=
  let k := (id, p.lane)
  { c with
    waits := c.waits.map fun w =>
      (w.1, { w.2 with kind := match w.2.kind with
        | .fence sc us n last lost =>
          if us.contains k then .fence sc (us.filter (· ≠ k)) (n + 1) (homeBits p.home p.seq) (lost || p.lost)
          else w.2.kind
        | .arrive b n us => .arrive b n (us.filter (· ≠ k))
        | .signal t n us => .signal t n (us.filter (· ≠ k))
        | k => k })
    queues := c.queues.map fun q =>
      (q.1, { q.2 with q := q.2.q.map fun m => { m with updates := m.updates.filter (· ≠ k) } }) }

/-- The issuer number under which a core's peer stores are counted (R430). -/
def peerUnit : Nat := 117

/-- A peer store declared lost is counted for its core and its launch (R430). -/
def countLoss (s : State) (core : Nat) : State :=
  let c := getCore s core
  let s := setCore s core { c with peerLost := c.peerLost + 1 }
  match c.launch with
  | some l =>
    (match tfind s.launches l with
      | some x => { s with launches := tput s.launches l { x with lost := x.lost + 1 } }
      | none => s)
  | none => s

/-- A posted update is acknowledged at its port (R153). -/
def ackPosted (s : State) (core u : Nat) (p : Part) : State :=
  let s := if u = peerUnit ∧ p.lost then countLoss s core else s
  let c := getCore s core
  let q := c.port p.port
  let i : Issuer := tget {} q.issuers u
  let i := { i with open_ := i.open_ - 1, acked := i.acked + 1, last := homeBits p.home p.seq,
                    lost := i.lost || p.lost, stamp := s.stamps }
  { setCore s core (c.setPort p.port { q with issuers := tput q.issuers u i }) with stamps := s.stamps + 1 }

/-- What the arrival of one access's answer does for its issuer's counts and waits. -/
def ackPart (s : State) (id : Nat) (r : Req) (p : Part) : State :=
  if !r.update then s
  else
    let s := if r.posted then ackPosted s r.core r.unit p else s
    -- a rewire may have moved an update away from the core on which a release or fence waits for it (R365)
    let s : State := { s with cores := s.cores.map fun k => (k.1, ackWaits k.2 id p) }
    s.cores.foldl (fun s k => if k.1 = r.core ∨ k.2.waits.any (fun w => w.2.movedTo.isSome) then pollWaits s k.1 else s) s

/-- One access with a peer's answer (R412). A lost store is 0x3A3, any other lost access 0x3A1; an answer that refuses the access carries
its cause. A peer store is fire and forget: it is lost (R430). -/
def answerRemote (r : Req) (p : Part) (a : RemoteAnswer) (cyc : Nat) : Part :=
  let p : Part := { p with phase := .replied cyc }
  match a with
  | .performed v q t w rt => { p with value := .ofNat 128 (leNat v), bulk := if v.length > 16 then v else [], seq := q, ts := t, wts := w, rts := rt }
  | .lost => { p with cause := if r.op = .store ∨ r.update ∧ r.posted then lostCause else 0x3A1 }
  | .stale => { p with cause := if r.unit = peerUnit then lostCause else 0x3A2 }
  | .denied => { p with cause := if r.unit = peerUnit then lostCause else 0x345 }
  | .unset => { p with cause := 0x140 }

/-- A peer's answer to the first access of a request that waits for one (R412). -/
def takeRemote (r : Req) (a : RemoteAnswer) (cyc : Nat) : Req :=
  let rec go : List Part → List Part
    | [] => []
    | p :: ps =>
      match p.home, p.phase with
      | .remote _, .travelling _ => answerRemote r p a cyc :: ps
      | _, _ => p :: go ps
  { r with parts := go r.parts }

/-- The marks of a core's entries through which accesses were answered 0x3A2 are cleared: their next use is checked afresh (R412). -/
def unmark (s : State) (core : Nat) (p : Part) : State :=
  match (if p.cause = 0x3A2 then p.win else none) with
  | some (port, k) =>
    let c := getCore s core
    let q := c.port port
    match tfind q.wins k with
    | some w => setCore s core (c.setPort port { q with wins := tput q.wins k { w with mark := false } })
    | none => s
  | none => s

/-- A posted update's answers arrive one by one; the request is over when the last has. -/
def replyPosted (s : State) (id : Nat) (r : Req) : State :=
  let now := r.parts.filter fun p => match p.phase with | .replied due => due ≤ s.cycle | _ => false
  let s := now.foldl (fun s p =>
    let s := setPart s id p.lane fun p => { p with phase := .done }
    let s := ackPart (unmark (raiseClock s r.core p.ts) r.core p) id r p
    -- a refusal by the target of a posted update is a deferred trap like any other reply's cause (R151, R412)
    if (p.cause = 0x3A2 ∨ p.cause = 0x345) ∧ r.unit ≤ ceIx then deferTrap s ⟨r.core, r.unit⟩ r.slot r.word p.cause (.ofNat 64 p.va) else s) s
  match tfind s.reqs id with
  | some r => if r.parts.all (·.phase = .done) then { s with reqs := tdel s.reqs id } else s
  | none => s

/-- A fault of an engine's access: a lost link ends the command, with 0x3A1 for a read and 0x3A3 for a write, and so does poisoned data;
any other stops the engine (R195, R415). -/
def engFault (cause : Cause) (va : Nat) (write : Bool) : EngFault :=
  if cause = 0x3A1 then .ends (if write then lostCause else 0x3A1) else if cause = 0x097 then .ends 0x097 else .stop cause va

/-- The answer of an engine's read stands in its list until the engine comes to it (R199). -/
def engReply (s : State) (id : Nat) (r : Req) : State :=
  let c := getCore s r.core
  let port := r.unit - 100
  let ans : FetchAns := match r.replyCause, r.parts with
    | some (x, va), _ => .fault (engFault x va false)
    | none, p :: _ => .got (if p.bulk.isEmpty then leBytes p.n p.value.toNat else p.bulk) p.ts
    | none, [] => .got [] 0
  let fs : List Fetch := (tget [] c.fetches port).map fun f => if f.req = id ∧ f.ans = .waiting then { f with ans := ans } else f
  setCore s r.core { c with fetches := tput c.fetches port fs }

/-- The answer to a host's request leaves by its port: the host gets the bytes that it read, or the refusal of what it wrote (R414). -/
def hostReply (s : State) (r : Req) : State :=
  let st : Status := match r.replyCause with
    | some (c, _) => { code := c }
    | none => { code := 0, data := r.parts.flatMap fun p => if p.bulk.isEmpty then leBytes p.n p.value.toNat else p.bulk.take p.n }
  if r.op = .load ∨ st.code ≠ 0 then { s with root := { s.root with status := s.root.status ++ [st] } } else s

/-- A whole reply arrives: the destination is written, or its cause is delivered as a deferred trap. -/
def replyWhole (s : State) (id : Nat) (r : Req) : State :=
  let u : UnitId := ⟨r.core, r.unit⟩
  let s := { s with reqs := tdel s.reqs id }
  if r.link.isSome then hostReply s r
  else if r.sink = .engine then engReply s id r
  else
  let s := r.parts.foldl (fun s p => ackPart (unmark (raiseClock s r.core p.ts) r.core p) id r p) s
  match r.sink, r.parts with
  | .word _, p :: _ => writeSink s u r.sink (completionWord 0 p.value.toNat 0 p.cause)
  | _, _ => match r.op, r.replyCause with
  | .prefetch, _ => s
  | _, some (cause, va) => deferTrap s u r.slot r.word cause (.ofNat 64 va)
  | .store, none =>
    match r.parts with
    | p :: _ => writeSink s u r.sink (ackWord (homeBits p.home p.seq) p.n (p.cause = lostCause))
    | [] => s
  | _, none =>
    match r.sink with
    | .pair n =>
      let at_ (k : Nat) : Quad := ((r.part k).map (·.value)).getD 0
      writePair s u n (at_ 0) (at_ 1)
    | .request n => { s with asks := s.asks ++ [(r.core, Sink.d n, match r.parts with | p :: _ => p.bulk.take 64 | [] => [])] }
    | k => writeSink s u k r.value

/-- A remote access takes 2 µs or more (R7, R429): 5,000 cycles at 2.5 GHz. -/
def remoteCycles : Nat := 5000

/-- REPLY_ARRIVAL (R20, R148, R151, R153): the answers of a request that have reached its core. -/
def execReplyArrival (id : Nat) (remote : Option RemoteAnswer) (s : State) : Outcome :=
  match tfind s.reqs id with
  | none => .next s
  | some r =>
    let r := match remote with | some a => takeRemote r a (max s.cycle (r.born + remoteCycles)) | none => r
    let s := setReq s id r
    if r.posted then .next (replyPosted s id r)
    else if r.ready s.cycle then .next (replyWhole s id r)
    else .next s

/-- The events due now for the requests in progress: homes and replies. -/
def requestEvents (s : State) : List Instr :=
  s.reqs.flatMap fun e =>
    let r := e.2
    (r.parts.filterMap fun p =>
      match p.phase with
      | .travelling due => if due ≤ s.cycle ∧ !heldByService s p.home then (match p.home with | .remote _ => none | _ => some (homeEvent e.1 r p)) else none
      | .missed due =>
        if due ≤ s.cycle then
          (match p.home with
            | .slice n => some (if spaceOf p.pa = .view then .viewLineFill (p.pa / 128) else .dramDataReturn n (p.pa / 128))
            | _ => none)
        else none
      | .replay due _ => if due ≤ s.cycle then some (.replay e.1 p.lane) else none
      | _ => none)
    ++ (if r.posted then
          (if r.parts.any (fun p => match p.phase with | .replied due => due ≤ s.cycle | _ => false)
           then [.replyArrival e.1 none] else [])
        else if r.ready s.cycle then [.replyArrival e.1 none] else [])

/-- Inserts into a list that rises by its first component. -/
def insertBy {α : Type} (k : Nat) (x : α) : List (Nat × α) → List (Nat × α)
  | [] => [(k, x)]
  | (j, y) :: t => if k < j then (k, x) :: (j, y) :: t else (j, y) :: insertBy k x t

/-- The queued accesses that their homes can perform now, in the order of their arrival (R298, R305). -/
def queuedEvents (s : State) : List Instr :=
  (s.reqs.foldl (fun l e => e.2.parts.foldl (fun l p =>
    match p.phase, p.home with
    | .queued k, .slice n =>
      if heldByDomain s p.pa ∨ mustQueue s n (e.2.own s) e.2 p ∨ behindHost s e.1 e.2 then l else insertBy k (homeEvent e.1 e.2 p) l
    | .queued k, _ => if behindHost s e.1 e.2 then l else insertBy k (homeEvent e.1 e.2 p) l
    | _, _ => l) l) ([] : List (Nat × Instr))).map (·.2)

end Sys2Proof.Machine
end

