-- ==== Sys2Proof/Machine/Accept.lean ====
section
/-! DEFINITION. Acceptance of memory requests at their V (R21, R147, R150 to R153): translation, precise faults, the
repair queues and what waits behind them (R152, R317), and the stream detectors (R299). -/

namespace Sys2Proof.Machine

open Sys2Proof

def MemOp.use : MemOp → Use
  | .load | .monitor | .prefetch => .read
  | .store => .write
  | _ => .both

/-- The port a translation went through. -/
def Xlate.port : Xlate → Nat
  | .ok r => r.port
  | .fault p _ => p

/-- A read of data marked poisoned in DRAM (R415, R419). -/
def poisoned (s : State) (core : Nat) (use : Use) (r : Route) : Bool :=
  match r.home with
  | .slice n => use.reads && s.poison.contains (r.pa / 128) && ((getSlice s n).hit (partOf s core) (r.pa / 128)).isNone
  | _ => false

/-- Translation of one access: an address with bits 63:56 set faults (R150), and so do poisoned data. -/
def lookUp (s : State) (core va n : Nat) (use : Use) : Xlate :=
  if va ≥ 2 ^ 56 then .fault 0 0x085
  else match translate s core va n use with
  | .ok r => if poisoned s core use r then .fault r.port 0x097 else .ok r
  | x => x

/-- One request of a requester's stream detector (R299): whether it goes no-allocate. -/
def detectStream (s : State) (core who line : Nat) : State × Bool :=
  let c := getCore s core
  let (last, run) := tget (0, 0) c.detect who
  let run := if run > 0 ∧ line = last + 1 then run + 1 else 1
  (setCore s core { c with detect := tput c.detect who (line, run) }, run ≥ 8)

/-- The detector of a request at a slice: only `.normal` requests join a run or break it. -/
def detectAt (s : State) (core who : Nat) (h : Home) (pa : Nat) (rc : Reuse) : State × Bool :=
  match h with
  | .slice _ => if rc = .normal then detectStream s core who (pa / 128) else (s, false)
  | _ => (s, false)

/-- What the translation of an access leaves behind: its dirty range, its cached leaf, its remote mark. -/
def translated (s : State) (core va n : Nat) (use : Use) (r : Route) : State :=
  let s := cacheLeaf s core va use
  let s := if use.writes then noteWrite s core r n else s
  markRemote s core r

/-- One access set on its way, from a requester with a stream detector of its own. -/
def sendPart (s : State) (core who lane va n : Nat) (data cmp : Quad) (use : Use) (rc : Reuse) (na : Bool) (extra : Nat)
    (r : Route) : State × Part :=
  let s := translated s core va n use r
  let (s, run) := if na then (s, false) else detectAt s core who r.home r.pa rc
  (s, { lane := lane, va := va, pa := r.pa, n := n, home := r.home, inc := r.inc, data := data, compare := cmp,
        phase := .travelling (s.cycle + extra + travel core r.home), port := r.port, win := r.win.map fun k => (r.port, k), noalloc := run,
        ts := (getCore s core).clock })

/-! ## The repair queue (R152) -/

def repairSlots : List Nat := List.range 32

/-- The lowest empty entry of a port's repair queue. -/
def freeRepair (p : Port) : Option Nat := repairSlots.find? fun i => (tget {} p.repairs i : Repair).state = 0

def repairFull (p : Port) : Bool := (freeRepair p).isNone

/-- Whether updates wait in a port's repair queue. -/
def repairing (p : Port) : Bool := repairSlots.any fun i => (tget {} p.repairs i : Repair).state ≠ 0

/-- REPAIR_DIVERT: a faulting posted update goes to the repair queue, and its port raises 0x093. -/
def divert (s : State) (core port : Nat) (x : Repair) : State :=
  let c := getCore s core
  let q := c.port port
  match freeRepair q with
  | none => s
  | some i =>
    let s := setCore s core (c.setPort port { q with repairs := tput q.repairs i { x with state := 1 } })
    raiseTrap s core { kind := 2, src := 8 + port, cause := 0x093, addr := .ofNat 64 x.va, detail := .ofNat 128 (i + port * 2 ^ 8) }

/-- The entries a set of translations would take in each port's repair queue do not fit, or a queue among them is full. -/
def mustHold (s : State) (core : Nat) (xs : List Xlate) : Bool :=
  ([0, 1, 2, 3] : List Nat).any fun p =>
    let q := (getCore s core).port p
    let used := (repairSlots.filter fun i => (tget {} q.repairs i : Repair).state ≠ 0).length
    xs.any (·.port = p) && (used ≥ 32 || used + (xs.filter fun x => match x with | .fault k _ => k = p | _ => false).length > 32)

/-! ## Acceptance -/

/-- The outcome of an acceptance. -/
inductive Accepted where
  | ok (s : State)
  | trap (cause : Cause) (va : Nat)
  | hold
  | walk (cycles : Nat)

/-- The request that an instruction makes, before its accesses. -/
def newReq (s : State) (u : UnitId) (f : Flight) (m : MemSpec) : Req :=
  { core := u.core, unit := u.ix, slot := f.slot, word := f.word, op := m.op, posted := m.posted, reuse := m.reuse,
    noalloc := m.noalloc, laneBits := m.laneBits, sink := m.sink, parts := [], pts := (getCore s u.core).clock,
    update := m.op ≠ .load && m.op ≠ .monitor && m.op ≠ .prefetch, born := s.cycle,
    opa := f.opa, opb := f.opb, place := s.stamps }

/-- Whose stream detector watches a request: its memory port's, or its engine's (R299). -/
def Req.detector (r : Req) (rt : Route) : Nat := if r.unit ≥ 100 then r.unit - 80 else rt.port

/-- What a posted update of one access comes to once it is translated: sent, diverted, or held behind a diverted update of its port
(R152, R317). While the repair queue is full a faulting one stays where it is. -/
def postNow (s : State) (r : Req) (id : Nat) (p : Part) : State × Part :=
  let use := MemOp.use r.op
  match lookUp s r.core p.va p.n use with
  | .fault port cause =>
    if repairFull ((getCore s r.core).port port) then (s, { p with phase := .translating (s.cycle + 1) })
    else
      (divert s r.core port
        { unit := r.unit, va := p.va, n := p.n, op := r.op, data := p.data, cause := cause, req := id, part := p.lane, noalloc := r.noalloc },
       { p with phase := .repair, port := port })
  | .ok rt =>
    if repairing ((getCore s r.core).port rt.port) then (s, { p with phase := .repair, port := rt.port })
    else
      let (s, q) := sendPart s r.core (r.detector rt) p.lane p.va p.n p.data p.compare use r.reuse r.noalloc 0 rt
      (leaveFences s r.core (id, p.lane) q.home, { q with port := p.port })

/-- A posted update of one access: its port counts it, and it is sent, diverted or held, after the radix walk where one is needed. -/
def postPart (s : State) (u : UnitId) (id : Nat) (m : MemSpec) (w : Nat × Nat × Nat × Quad × Quad) : State :=
  let (lane, va, n, data, cmp) := w
  let use := MemOp.use m.op
  let port := (lookUp s u.core va n use).port
  let wait := walkCycles s u.core va use
  let c := getCore s u.core
  let q := c.port port
  let i : Issuer := tget {} q.issuers u.ix
  let s := setCore s u.core (c.setPort port { q with issuers := tput q.issuers u.ix { i with open_ := i.open_ + 1 } })
  match tfind s.reqs id with
  | none => s
  | some r =>
    let p : Part := { lane := lane, va := va, pa := 0, n := n, home := .slice 0, data := data, compare := cmp,
                      phase := .translating (s.cycle + wait), port := port }
    let (s, p) := if wait = 0 then postNow s r id p else (s, p)
    setReq s id { r with parts := r.parts ++ [p] }

/-- Acceptance of a memory instruction's request. -/
def acceptMem (s : State) (u : UnitId) (f : Flight) (m : MemSpec) : Accepted :=
  let use := MemOp.use m.op
  let xs := m.words.map fun w => lookUp s u.core w.2.1 w.2.2.1 use
  let id := s.nextReq
  if m.posted then
    if mustHold s u.core xs then .hold
    else if m.words.isEmpty then .ok s
    else .ok (m.words.foldl (fun s w => postPart s u id m w) { setReq s id (newReq s u f m) with nextReq := id + 1 })
  else
    let wait := m.words.foldl (fun n w => max n (walkCycles s u.core w.2.1 use)) 0
    if !f.walked ∧ wait > 0 ∧ m.op ≠ .prefetch then .walk wait
    else match (List.zip m.words xs).findSome? fun p => match p.2 with | .fault _ c => some (c, p.1.2.1) | _ => none with
      | some (c, va) => if m.op = .prefetch then .ok s else .trap c va
      | none =>
        let monitorable := xs.all fun x => match x with
          | .ok r => (match r.home with | .slice _ | .remote _ => true | _ => false)
          | _ => true
        if m.op = .monitor ∧ !monitorable then .trap 0x099 (match m.words with | w :: _ => w.2.1 | [] => 0)
        else if m.op = .prefetch ∧ !monitorable then .ok s
        else
          let r := newReq s u f m
          let (s, parts) := (List.zip m.words xs).foldl (fun (a : State × List Part) p =>
            match p.2 with
            | .ok rt =>
              let (lane, va, n, data, cmp) := p.1
              let (s, q) := sendPart a.1 u.core rt.port lane va n data cmp use m.reuse m.noalloc 0 rt
              (s, a.2 ++ [q])
            | _ => a) (s, [])
          .ok { setReq s id { r with parts := parts } with nextReq := id + 1 }

/-- An update that waited is set on its way: translated afresh, diverted again when it faults. -/
def reissue (s : State) (id lane : Nat) : State :=
  match tfind s.reqs id with
  | none => s
  | some r =>
    match r.part lane with
    | none => s
    | some p =>
      let use := MemOp.use r.op
      match lookUp s r.core p.va p.n use with
      | .ok rt =>
        let (s, q) := sendPart s r.core (r.detector rt) lane p.va p.n p.data p.compare use r.reuse r.noalloc 0 rt
        -- the port that counts the update stays the one that took it
        leaveFences (setPart s id lane fun _ => { q with port := p.port }) r.core (id, lane) q.home
      | .fault port cause =>
        divert s r.core port
          { unit := r.unit, va := p.va, n := p.n, op := r.op, data := p.data, cause := cause, req := id, part := lane, noalloc := r.noalloc }

/-- The accesses of a port that wait behind its repair queue, in the order of their acceptance. -/
def heldBehind (s : State) (core port : Nat) : List (Nat × Nat) :=
  let q := (getCore s core).port port
  s.reqs.flatMap fun e =>
    if e.2.core = core then
      (e.2.parts.filter fun p => p.phase = .repair && p.port = port &&
        !(repairSlots.any fun i => let x : Repair := tget {} q.repairs i; x.state ≠ 0 && x.req = e.1 && x.part = p.lane)).map fun p => (e.1, p.lane)
    else []

/-- Sends the updates that waited behind a port's repair queue once it is empty. -/
def flushHeld (s : State) (core port : Nat) : State :=
  (heldBehind s core port).foldl (fun s k =>
    if repairing ((getCore s core).port port) then s else reissue s k.1 k.2) s

/-- A released entry's update is translated again, and leaves the queue; a second fault returns it to state 1 with a new 0x093 (R407). -/
def reenter (s : State) (core port i : Nat) : State :=
  let c := getCore s core
  let q := c.port port
  let x : Repair := tget {} q.repairs i
  match tfind s.reqs x.req with
  | none => setCore s core (c.setPort port { q with repairs := tdel q.repairs i })
  | some r =>
    match lookUp s core x.va x.n (MemOp.use r.op) with
    | .fault _ cause =>
      let s := setPart s x.req x.part fun p => { p with phase := .repair }
      let c := getCore s core
      let s := setCore s core (c.setPort port { c.port port with repairs := tput q.repairs i { x with state := 1, cause := cause } })
      raiseTrap s core { kind := 2, src := 8 + port, cause := 0x093, addr := .ofNat 64 x.va, detail := .ofNat 128 (i + port * 2 ^ 8) }
    | .ok _ =>
      let s := setCore s core (c.setPort port { q with repairs := tdel q.repairs i })
      flushHeld (reissue s x.req x.part) core port

/-- RELEASE of an entry in state 1: it moves to state 2 and re-enters ahead of every later update of its port, once its radix walk has ended
where it needs one (R152, R407). -/
def releaseEntry (s : State) (core port i : Nat) : State :=
  let c := getCore s core
  let q := c.port port
  let x : Repair := tget {} q.repairs i
  if x.state ≠ 1 then s
  else
    let wait := match tfind s.reqs x.req with | some r => walkCycles s core x.va (MemOp.use r.op) | none => 0
    let s := setCore s core (c.setPort port { q with repairs := tput q.repairs i { x with state := 2 } })
    if wait = 0 then reenter s core port i else setPart s x.req x.part fun p => { p with phase := .translating (s.cycle + wait) }

/-- The released entry, with its port, that holds an update. -/
def releasedEntry (s : State) (core id lane : Nat) : Option (Nat × Nat) :=
  ([0, 1, 2, 3] : List Nat).findSome? fun port =>
    (repairSlots.find? fun i => let x : Repair := tget {} ((getCore s core).port port).repairs i; x.state = 2 && x.req = id && x.part = lane).map fun i => (port, i)

/-- A posted update whose walk has ended is sent, diverted or held; a released one leaves the repair queue. -/
def endPost (s : State) (id lane : Nat) : State :=
  match tfind s.reqs id with
  | none => s
  | some r =>
    match r.part lane with
    | none => s
    | some p =>
      match releasedEntry s r.core id lane with
      | some (port, i) => reenter s r.core port i
      | none =>
        let (s, p) := postNow s r id p
        setPart s id lane fun _ => p

/-- Posted updates whose radix walks end by now. -/
def endedWalks (s : State) : List (Nat × Nat) :=
  s.reqs.flatMap fun e => e.2.parts.filterMap fun p =>
    match p.phase with | .translating due => if due ≤ s.cycle then some (e.1, p.lane) else none | _ => none

def endPosts (s : State) : State := (endedWalks s).foldl (fun s k => endPost s k.1 k.2) s

end Sys2Proof.Machine
end

