-- ==== Sys2Proof/Machine/Fetch.lean ====
section
/-! DEFINITION. Which instruction a unit takes next: the slot scan of an element (R18, R34, R46), the control element's
fetch and guard (R25, R26), arbitration for the engine queues (R167), and a walk's rule (R216). -/

namespace Sys2Proof.Machine

open Sys2Proof

/-- What a turn comes to: nothing more, or an instruction to run with its actor in the state. -/
inductive Taken where
  | nothing (s : State)
  | run (s : State) (i : Instr)

/-! ## Elements -/

/-- The slots that can be scanned, lowest first, each with its second word (R34). -/
def scanSlots (e : Elem) : Nat → List (Nat × Word × Option Nat)
  | 0 => []
  | n + 1 =>
    let i := 32 - (n + 1)
    let w := e.slot i
    -- a slot after a literal is that literal's second word
    let second : Bool := (List.range i).foldl (fun b j => !b && opcOf (e.slot j).toNat = 0x03) false
    let rest := scanSlots e n
    if second then rest
    else (i, w, if opcOf w.toNat = 0x03 ∧ i < 31 then some (e.slot (i + 1)).toNat else (if opcOf w.toNat = 0x03 then none else some 0)) :: rest

/-- What an element finds at its lowest ready slot: an instruction, or a decode fault (R46). -/
inductive Found where
  | instr (slot : Nat) (word : Word) (i : Instr)
  | fault (slot : Nat) (word : Word) (c : Cause)
deriving DecidableEq, Repr

/-- The lowest ready slot, given which commands the queues would take. -/
def findSlot (s : State) (u : UnitId) (accepts : Instr → Bool) : List (Nat × Word × Option Nat) → Option Found
  | [] => none
  | (i, w, v) :: rest =>
    let e := getElem s u
    if !e.sloten.getLsbD i then findSlot s u accepts rest
    else match decodeWord false w.toNat v with
      | .error c =>
        if triggered e s.cycle (gate e false w) then some (.fault i w c) else findSlot s u accepts rest
      | .ok ins => if ready s u w ins ∧ accepts ins then some (.instr i w ins) else findSlot s u accepts rest

/-! ## The control element -/

/-- The 32-bit word at a scratchpad address of a core. -/
def fetchWord (s : State) (core pc : Nat) : Word := .ofNat 32 (leNat (Memory.readN s.mem (cpadPa core pc) 4))

/-- The end of the scratchpad (R25). -/
def scratchEnd : Nat := 0x60000

def grdOn (w : Nat) : Bool := w / 2 ^ 31 % 2 = 1
def grdSet (w : Nat) : Bool := w / 2 ^ 30 % 2 = 1
def grdPred (w : Nat) : Fin 8 := ⟨w / 2 ^ 26 % 8, Nat.mod_lt _ (by decide)⟩

/-- What the control element finds at its PC: a fault, a wait, a skipped word, or an instruction (R26, R46). -/
inductive AtPc where
  | wait
  | skip (bytes : Nat)
  | fault (word : Word) (c : Cause)
  | instr (word : Word) (i : Instr)
deriving DecidableEq, Repr

def lookAtPc (s : State) (core : Nat) : AtPc :=
  let e := getElem s ⟨core, ceIx⟩
  let pc := (getCtl s core).pc / 4 * 4
  if pc ≥ scratchEnd then .fault 0 0x082
  else
    let w := fetchWord s core pc
    let n := w.toNat
    if n / 2 ^ 29 % 2 = 1 then .fault w 0x00B
    else if grdOn n ∧ e.pendP.getLsbD (grdPred n) then .wait
    else if grdOn n ∧ e.pred (grdPred n) ≠ grdSet n then .skip (if opcOf n = 0x03 then 8 else 4)
    else if opcOf n = 0x03 ∧ pc + 4 ≥ scratchEnd then .fault w 0x082
    else match decodeWord true n (some (fetchWord s core (pc + 4)).toNat) with
      | .error c => .fault w c
      | .ok i => .instr w i

/-! ## Arbitration (R167) -/

/-- The queue an instruction offers a command to; RESUME and ABORT offer to none (R195). -/
def offerPort (e : Elem) (i : Instr) : Option Nat :=
  match i with
  | .send p a .. => if noEntry p (e.dreg a) then none else some p
  | .sendw p a .. => if noEntry p (e.dreg a) then none else some p
  | .cfgEng p .. => some p
  | .sbind p .. => some p
  | .cfgFab .. | .cfgPhase .. => some configPort
  | _ => none

/-- The issuers of a queue stand in a ring: elements 0 to 63, the control element, the edge port. -/
def ringDist (last i : Nat) : Nat := (i + 66 - last - 1) % 66

/-- What a unit offers in this cycle, before arbitration. -/
def offers (s : State) (u : UnitId) : Option Nat :=
  let e := getElem s u
  if !unitReady s u then none
  else if isCe u then
    match lookAtPc s u.core with
    | .instr w i => if ready s u w i then offerPort e i else none
    | _ => none
  else match findSlot s u (fun _ => true) (scanSlots (getElem s u) 32) with
    | some (.instr _ _ i) => offerPort e i
    | _ => none

/-- Words of a command at the copy engine's edge port, by its code: 8 for COPY, else 1 (R205). -/
def cpWords (w : Quad) : Nat := if w.toNat % 256 = 1 then 8 else 1

/-- The output attached to an edge port of a core, and the token it offers (R205, R228). -/
def edgeToken (s : State) (core : Nat) (d : Dest) : Option (UnitId × Fin 4 × OutPos) :=
  match s.edges.find? (fun e => e.dst = d) with
  | some e =>
    match e.src with
    | .elem k el out =>
      let u : UnitId := ⟨k, el⟩
      match ((getElem s u).outCh out).q with
      | p :: _ => if p.tok.isSome ∧ p.since ≤ s.cycle ∧ k = core ∧ !e.gated then some (u, Fin.ofNat 4 out, p) else none
      | [] => none
    | _ => none
  | none => none

/-- Whether an edge port offers a command to a queue in this cycle. -/
def edgeOffers (s : State) (core port : Nat) : Bool :=
  if port = 12 then (edgeToken s core (.mn core)).isSome
  else if port = 13 then
    let c := getCore s core
    match c.cpEdge, edgeToken s core (.cp core) with
    | [], some (_, _, p) => match p.tok with | some t => cpWords t.payload = 1 | none => false
    | w :: ws, some _ => ws.length + 2 = cpWords w
    | _, none => false
  else false

/-- Whether a queue takes an issuer's command in this cycle: one a cycle, round-robin, starting after the issuer it took
last. Units before the issuer in the cycle's order have had their turn already. -/
def arbiter (s : State) (core port ix : Nat) : Bool :=
  let c := getCore s core
  let q := c.queue port
  q.acceptAt ≠ some s.cycle &&
    !((List.range 66).any fun j => j > ix && ringDist q.lastIssuer j < ringDist q.lastIssuer ix &&
        (if j = 65 then edgeOffers s core port else offers s ⟨core, j⟩ = some port))

/-- A non-blocking form fires in every case (R44). -/
def nonBlocking : Instr → Bool
  | .send _ _ _ _ nb => nb.isSome
  | .sendw _ _ _ _ nb _ => nb
  | _ => false

/-- A form that traps 0x305 does not wait for the queue (R189). -/
def deadEnd (s : State) (core : Nat) (i : Instr) : Bool :=
  match offerPort (getElem s ⟨core, ceIx⟩) i with
  | some p => (getCore s core).deadlocked true p
  | none => false

/-! ## Turns -/

/-- An element's turn (R18): its lowest ready slot fires, or traps on a decode fault. -/
def feTurn (s : State) (u : UnitId) : Taken :=
  if !unitReady s u then .nothing s
  else
    let ok (i : Instr) : Bool := match offerPort (getElem s u) i with | some p => arbiter s u.core p u.ix | none => true
    match findSlot s u ok (scanSlots (getElem s u) 32) with
    | none => .nothing s
    | some (.fault i w c) =>
      .nothing (trapUnit (setElem s u { getElem s u with firedAt := some s.cycle }) u i w c 0 0 false)
    | some (.instr i w ins) => .run { s with actor := .unit u i w } ins

/-- The control element's turn (R26). -/
def ceTurn (s : State) (core : Nat) : Taken :=
  let u : UnitId := ⟨core, ceIx⟩
  if !unitReady s u then .nothing s
  else
    let x := getCtl s core
    let pc := x.pc / 4 * 4
    match lookAtPc s core with
    | .wait => .nothing s
    | .skip n => .nothing (setCtl (setElem s u { getElem s u with firedAt := some s.cycle }) core { x with pc := pc + n })
    | .fault w c => .nothing (trapUnit (setElem s u { getElem s u with firedAt := some s.cycle }) u pc w c 0 0 false)
    | .instr w i =>
      let ok : Bool := match offerPort (getElem s u) i with | some p => nonBlocking i || deadEnd s core i || arbiter s core p ceIx | none => true
      if ok then .run { s with actor := .unit u pc w } i else .nothing s

end Sys2Proof.Machine
end

