-- ==== Sys2Proof/Machine/Object.lean ====
section
/-! DEFINITION. The Plexia object (R69 to R79): its fields read from the loader's copy, the structural checks of R82
step 2, and the relocations of step 7. -/

namespace Sys2Proof.Machine

open Sys2Proof

/-! ## Reading -/

/-- An n-byte little-endian field of a file (R5). -/
def rd (o : List Byte) (off n : Nat) : Nat := leNat ((o.drop off).take n)

/-- An n-byte two's-complement field. -/
def rdSigned (o : List Byte) (off n : Nat) : Int := Num.toSigned (rd o off n) (8 * n)

/-- Whether n bytes of a file from an offset on are zero. -/
def zeros (o : List Byte) (off n : Nat) : Bool := rd o off n = 0

/-- A section header (R70). -/
structure Sec where
  ty : Nat
  count : Nat
  off : Nat
  size : Nat
  entsz : Nat
  rsvd : Nat
deriving DecidableEq, Repr

def secs (o : List Byte) : List Sec :=
  (List.range (min 256 (rd o 0x0C 4))).map fun i =>
    let b := rd o 0x10 8 + 32 * i
    { ty := rd o b 4, count := rd o (b + 4) 4, off := rd o (b + 8) 8, size := rd o (b + 0x10) 8,
      entsz := rd o (b + 0x18) 4, rsvd := rd o (b + 0x1C) 4 }

def sec? (o : List Byte) (ty : Nat) : Option Sec := (secs o).find? (·.ty = ty)

/-- The offsets of a section's entries of a fixed size. -/
def entries (o : List Byte) (ty : Nat) : List Nat :=
  match sec? o ty with
  | some s => (List.range s.count).map fun i => s.off + s.entsz * i
  | none => []

/-- The offset of the launch record (R76). -/
def launchOff (o : List Byte) : Nat := ((sec? o 0x08).map (·.off)).getD 0

/-- COUNT of a level (R338). -/
def levelCount (o : List Byte) (n : Nat) : Nat := rd o (launchOff o + 0x44 + 32 * n) 4
def levelKind (o : List Byte) (n : Nat) : Nat := rd o (launchOff o + 0x40 + 32 * n) 1
def levelScope (o : List Byte) (n : Nat) : Nat := rd o (launchOff o + 0x41 + 32 * n) 1
def levelNum (o : List Byte) : Nat := rd o (launchOff o + 6) 1

/-- COUNT(1), the cores the object describes (R341). -/
def imageCores (o : List Byte) : Nat := levelCount o 1

/-- The total number of level-1 instances (R341). -/
def instances (o : List Byte) : Nat := (List.range (levelNum o - 1)).foldl (fun n i => n * levelCount o (i + 1)) 1

/-- An element record (R73). -/
structure ElemRec where
  core : Nat
  row : Nat
  col : Nat
  op : Nat
  off : Nat
  lanesz : Nat
deriving DecidableEq, Repr

def ElemRec.ix (r : ElemRec) : Nat := r.row * 8 + r.col

def elemRecsFrom (o : List Byte) : Nat → Nat → List ElemRec
  | 0, _ => []
  | n + 1, b =>
    let lz := rd o (b + 0x20) 4
    { core := rd o b 2, row := rd o (b + 2) 1, col := rd o (b + 3) 1, op := rd o (b + 4) 2, off := b, lanesz := lz }
      :: elemRecsFrom o n (b + 0x2B0 + lz)

def elemRecs (o : List Byte) : List ElemRec :=
  match sec? o 0x02 with
  | some s => elemRecsFrom o s.count s.off
  | none => []

/-- A code record (R74): core, origin, words, and where its words stand. -/
structure CodeRec where
  core : Nat
  org : Nat
  words : Nat
  off : Nat
deriving DecidableEq, Repr

/-- A size rounded up to a multiple of 16. -/
def pad16 (n : Nat) : Nat := (n + 15) / 16 * 16

def codeRecsFrom (o : List Byte) : Nat → Nat → List CodeRec
  | 0, _ => []
  | n + 1, b =>
    let w := rd o (b + 8) 4
    { core := rd o b 2, org := rd o (b + 4) 4, words := w, off := b + 16 } :: codeRecsFrom o n (b + 16 + pad16 (4 * w))

def codeRecs (o : List Byte) : List CodeRec :=
  match sec? o 0x03 with
  | some s => codeRecsFrom o s.count s.off
  | none => []

/-- A data record (R77). -/
structure DataRec where
  space : Nat
  align : Nat
  core : Nat
  size : Nat
  sym : Nat
  off : Nat
deriving DecidableEq, Repr

def dataRecsFrom (o : List Byte) : Nat → Nat → List DataRec
  | 0, _ => []
  | n + 1, b =>
    let z := rd o (b + 4) 4
    { space := rd o b 1, align := rd o (b + 1) 1, core := rd o (b + 2) 2, size := z, sym := rd o (b + 8) 4, off := b + 16 }
      :: dataRecsFrom o n (b + 16 + pad16 z)

def dataRecs (o : List Byte) : List DataRec :=
  match sec? o 0x0A with
  | some s => dataRecsFrom o s.count s.off
  | none => []

/-- A stream pattern (R75, R197). -/
structure Pattern where
  core : Nat
  se : Nat
  ndim : Nat
  base : Nat
  counts : List Nat
  strides : List Int
  opts : Nat
deriving DecidableEq, Repr

def patternAt (o : List Byte) (b : Nat) : Pattern :=
  { core := rd o b 2, se := rd o (b + 2) 1, ndim := rd o (b + 3) 1, base := rd o (b + 8) 8,
    counts := (List.range 6).map fun d => rd o (b + 0x10 + 4 * d) 4,
    strides := (List.range 6).map fun d => rdSigned o (b + 0x28 + 8 * d) 8, opts := rd o (b + 0x58) 8 }

def Pattern.ew (p : Pattern) : Nat := 2 ^ (p.opts % 8)
def Pattern.addrMode (p : Pattern) : Bool := p.opts / 8 % 2 = 1
def Pattern.rc (p : Pattern) : Nat := p.opts / 16 % 4

/-- The data record of a symbol. -/
def dataOfSym (o : List Byte) (sym : Nat) : Option Nat :=
  (List.range (dataRecs o).length).find? fun i => ((dataRecs o)[i]?.map (·.sym)) = some sym

/-- A symbol's value (R79). -/
def symValue (o : List Byte) (n : Nat) : Nat := (((entries o 0x0B)[n]?).map fun b => rd o (b + 0x40) 8).getD 0

/-- A trigger entry that fails the check of R40. -/
def badTrigger (t : Nat) : Bool :=
  t / 2 ^ 28 % 16 ≠ 0 || (List.range 4).any fun n => t / 2 ^ (6 * n + 5) % 2 = 1 && t / 2 ^ (6 * n + 3) % 4 = 3

/-! ## Structural checks (R69 to R79, R82 step 2) -/

/-- The first of several checks that fails. -/
def firstCause : List (Bool × Cause) → Option Cause
  | [] => none
  | (bad, c) :: rest => if bad then some c else firstCause rest

/-- Whether two ranges of a file overlap; an empty range overlaps nothing. -/
def overlaps (a n b m : Nat) : Bool := n > 0 && m > 0 && a < b + m && b < a + n

/-- Whether two entries of a list of ranges overlap. -/
def anyOverlap : List (Nat × Nat) → Bool
  | [] => false
  | (a, n) :: rest => rest.any (fun r => overlaps a n r.1 r.2) || anyOverlap rest

/-- Whether a list has two equal entries. -/
def repeats {α : Type} [BEq α] : List α → Bool
  | [] => false
  | x :: xs => xs.contains x || repeats xs

/-- The header (R69). A file shorter than its header is rejected with 0x312, ahead of MAGIC (DESIGN CHOICE, log entry 43). -/
def headerCause (o : List Byte) : Option Cause :=
  firstCause
    [(o.length < 64, 0x312), (rd o 0 4 ≠ 0x1A4F5850, 0x310), (rd o 4 2 ≠ 1, 0x311), (rd o 0x20 4 ≠ 0x00090001, 0x311),
     (rd o 8 4 > 1, 0x310), (!zeros o 0x24 28, 0x310), (rd o 0xC 4 = 0 ∨ rd o 0xC 4 > 256, 0x313),
     (rd o 0x10 8 % 16 ≠ 0 ∨ rd o 0x18 8 > 2 ^ 32 ∨ rd o 0x18 8 ≠ o.length, 0x312)]

/-- ENTSZ of the fixed-size sections, and how many of each a file holds (R71): none for types the table lacks. -/
def secType (ty : Nat) : Option (Nat × Nat × Nat) :=
  match ty with
  | 0x01 => some (48, 1, 1) | 0x02 => some (0, 1, 1) | 0x03 => some (0, 0, 1) | 0x04 => some (16, 1, 1)
  | 0x05 => some (16, 0, 1) | 0x06 => some (96, 0, 1) | 0x07 => some (48, 0, 1) | 0x08 => some (1024, 1, 1)
  | 0x09 => some (32, 0, 1) | 0x0A => some (0, 0, 1) | 0x0B => some (80, 0, 1) | 0x0C => some (24, 0, 1)
  | 0x0D => some (0, 0, 256) | 0x0E => some (0, 0, 1) | 0x0F => some (16, 0, 1)
  | _ => none

/-- The section table (R70, R71). -/
def tableCause (o : List Byte) : Option Cause :=
  let ss := secs o
  let f := rd o 0x18 8
  let known := ss.filter (·.ty < 2 ^ 31)
  firstCause
    [(rd o 0x10 8 + 32 * ss.length > f, 0x312),
     (ss.any fun s => s.off % 16 ≠ 0 || s.size % 16 ≠ 0 || s.off + s.size > f, 0x312),
     (anyOverlap ((rd o 0x10 8, 32 * ss.length) :: ss.map fun s => (s.off, s.size)), 0x312),
     (ss.any (·.rsvd ≠ 0), 0x310),
     (known.any fun s => (secType s.ty).isNone, 0x310),
     ((List.range 16).any fun ty => match secType ty with
        | some (_, lo, hi) => (known.filter (·.ty = ty)).length < lo || (known.filter (·.ty = ty)).length > hi
        | none => false, 0x310),
     (known.any fun s => s.ty = 0x08 && s.count ≠ 1, 0x310),
     ((known.any (·.ty = 0x0E)) ≠ (rd o 8 4 = 1), 0x310),
     (known.any fun s => match secType s.ty with
        | some (z, _, _) => s.entsz ≠ z || (z > 0 && s.size ≠ s.count * z)
        | none => false, 0x310)]

/-- The combining words an assoc operator may name (R358). -/
def combineOk (w : Nat) : Bool :=
  let opc := w / 2 ^ 19 % 2 ^ 7
  let lt := w % 16
  w / 2 ^ 26 = 0 && w / 2 ^ 14 % 32 = 0 && w / 2 ^ 9 % 32 = 0 && w / 2 ^ 4 % 32 = 1 &&
    ((opc = 0x10 || opc = 0x13) && lt ≤ 7 || (opc = 0x18 || opc = 0x19 || opc = 0x1A) && (lt ≤ 7 || lt = 0xC)
      || (opc = 0x22 || opc = 0x23) && lt ≤ 7
      || (opc = 0x40 || opc = 0x42 || opc = 0x46 || opc = 0x47) && 8 ≤ lt && lt ≤ 0xB)

/-- Where the operators' ranges stand in ELEM: they follow one another (R72). -/
def graphContiguous (o : List Byte) : Nat → List Nat → Bool
  | n, [] => n = (elemRecs o).length
  | n, b :: bs => rd o (b + 4) 4 = n && rd o (b + 8) 4 ≥ 1 && graphContiguous o (n + rd o (b + 8) 4) bs

/-- GRAPH (R72, R358, R59). -/
def graphCause (o : List Byte) : Option Cause :=
  let es := entries o 0x01
  firstCause
    [(es.any fun b => rd o b 1 > 3 || rd o (b + 1) 1 > 1 || !zeros o (b + 0x20) 16, 0x310),
     (!graphContiguous o 0 es, 0x316),
     (es.any fun b => rd o b 1 ≠ 1 && !zeros o (b + 2) 2, 0x316),
     (es.any fun b => rd o b 1 = 1 && (rd o (b + 2) 1 > 127 || rd o (b + 3) 1 > rd o (b + 2) 1 || rd o (b + 2) 1 - rd o (b + 3) 1 ≥ 64), 0x316),
     (es.any fun b => rd o b 1 ≠ 2 && !(zeros o (b + 0xC) 4 && zeros o (b + 0x10) 16), 0x316),
     (es.any fun b => rd o b 1 = 2 && !combineOk (rd o (b + 0xC) 4), 0x316)]

/-- The operator that an element record belongs to, by its place in ELEM (R72). -/
def opOfRecord (o : List Byte) (i : Nat) : Option Nat :=
  (List.range (entries o 0x01).length).find? fun n =>
    match (entries o 0x01)[n]? with
    | some b => rd o (b + 4) 4 ≤ i && i < rd o (b + 4) 4 + rd o (b + 8) 4
    | none => false

/-- ELEM (R73). -/
def elemCause (o : List Byte) : Option Cause :=
  let rs := elemRecs o
  let size := ((sec? o 0x02).map (·.size)).getD 0
  firstCause
    [(rs.foldl (fun n r => n + 0x2B0 + r.lanesz) 0 ≠ size, 0x316),
     (rs.any fun r => !zeros o (r.off + 7) 1 || !zeros o (r.off + 0x24) 12, 0x310),
     (rs.any fun r => r.lanesz % 16 ≠ 0 || r.lanesz > 8192, 0x316),
     (rs.any fun r => r.core ≥ imageCores o || r.row > 7 || r.col > 7, 0x316),
     (repeats (rs.map fun r => (r.core, r.row, r.col)), 0x316),
     ((List.zip (List.range rs.length) rs).any fun p => opOfRecord o p.1 ≠ some p.2.op, 0x316)]

/-- CODE (R74, R342). A record of a core that no image has is rejected like an element's (R73, R341). -/
def codeCause (o : List Byte) : Option Cause :=
  let rs := codeRecs o
  let size := ((sec? o 0x03).map (·.size)).getD 0
  firstCause
    [(rs.foldl (fun n r => n + 16 + pad16 (4 * r.words)) 0 ≠ size, 0x316),
     (rs.any fun r => !zeros o (r.off - 14) 2 || !zeros o (r.off - 4) 4, 0x310),
     (rs.any fun r => r.org % 4 ≠ 0 || r.words = 0 || r.org + 4 * r.words > 0x60000, 0x316),
     (rs.any fun r => r.core ≥ imageCores o, 0x316),
     ((List.range (imageCores o)).any fun k => anyOverlap ((rs.filter (·.core = k)).map fun r => (r.org, 4 * r.words)), 0x316),
     ((List.range (imageCores o)).any fun k => !rs.any (·.core = k), 0x316)]

/-- Whether an engine and a direction are an attachment of R61. -/
def attachOk (eng dir : Nat) : Bool :=
  if dir = 0 then eng ≤ 7 || eng = 15 || eng = 14 || eng = 16 || eng = 18 else dir = 1 && (eng = 12 || eng = 13 || eng = 18)

/-- Whether a coordinate of a file lies outside its images (R73, R75). -/
def coordBad (o : List Byte) (b : Nat) : Bool := rd o b 2 ≥ imageCores o || rd o (b + 2) 1 > 7 || rd o (b + 3) 1 > 7

/-- EDGE and PORT (R61, R75). An engine that is attached twice to one core is rejected with 0x316, like a channel that is named twice
(DESIGN CHOICE, log entry 43). -/
def edgeCause (o : List Byte) : Option Cause :=
  let es := entries o 0x04
  let ps := entries o 0x05
  let outs := es.map (fun b => (rd o b 4, rd o (b + 4) 1)) ++ (ps.filter fun b => rd o (b + 1) 1 = 1).map fun b => (rd o (b + 4) 4, rd o (b + 2) 1)
  let ins := es.map (fun b => (rd o (b + 8) 4, rd o (b + 0xC) 1)) ++ (ps.filter fun b => rd o (b + 1) 1 = 0).map fun b => (rd o (b + 4) 4, rd o (b + 2) 1)
  let engs := (ps.filter fun b => rd o b 1 ≠ 18).map fun b => (rd o b 1, rd o (b + 4) 2)
  firstCause
    [(es.any fun b => !zeros o (b + 5) 3 || !zeros o (b + 0xD) 3, 0x310),
     (ps.any fun b => !zeros o (b + 3) 1 || !zeros o (b + 8) 8, 0x310),
     (ps.any fun b => !attachOk (rd o b 1) (rd o (b + 1) 1), 0x316),
     ((es.any fun b => coordBad o b || coordBad o (b + 8)) || ps.any (fun b => coordBad o (b + 4)), 0x316),
     (outs.any fun x => x.2 > 3, 0x316), (ins.any fun x => x.2 > 3, 0x316),
     (repeats outs, 0x316), (repeats ins, 0x316), (repeats engs, 0x316)]

/-- STREAM (R75, R197). -/
def streamCause (o : List Byte) : Option Cause :=
  let bad (b : Nat) : Bool :=
    let p := patternAt o b
    p.ndim = 0 || p.ndim > 6 || p.se > 7 || p.core ≥ imageCores o
      || (List.range 6).any (fun d => if d < p.ndim then p.counts.getD d 0 = 0 else p.counts.getD d 0 ≠ 0 || p.strides.getD d 0 ≠ 0)
      || p.opts / 64 ≠ 0 || (if p.addrMode then p.opts % 8 ≠ 3 else p.opts % 8 > 4)
  firstCause
    [((entries o 0x06).any fun b => !zeros o (b + 4) 4, 0x310), ((entries o 0x06).any bad, 0x316)]

/-- The virtual address of the launch tables (R343). -/
def tableBase : Nat := 0x00FF000000000000

/-- WINDOW (R75, R62, R343). A TARGET that is neither an argument nor the symbol of a data block is rejected with 0x316 (DESIGN CHOICE, log
entry 43). -/
def windowCause (o : List Byte) : Option Cause :=
  let ws := entries o 0x07
  let bad (b : Nat) : Bool :=
    rd o b 2 ≥ imageCores o || rd o (b + 2) 1 > 3 || rd o (b + 3) 1 > 1
      || rd o (b + 8) 8 + rd o (b + 0x10) 8 > tableBase
      || (rd o (b + 4) 4 = 0 && !(zeros o (b + 0x18) 16))
      || (rd o (b + 0x28) 4 < 0xFFFFFFF8 && (dataOfSym o (rd o (b + 0x28) 4)).isNone)
  let group := (List.range (imageCores o)).flatMap fun k => (List.range 4).map fun m =>
    ws.filter fun b => rd o b 2 = k && rd o (b + 2) 1 = m
  firstCause
    [(ws.any fun b => rd o (b + 4) 4 > 1 || !zeros o (b + 0x2C) 4, 0x310), (ws.any bad, 0x316),
     (group.any fun g => g.length > 16, 0x316),
     (group.any fun g => anyOverlap (g.map fun b => (rd o (b + 8) 8, rd o (b + 0x10) 8)), 0x316)]

/-- SCHED (R76). -/
def schedCause (o : List Byte) : Option Cause :=
  firstCause [((entries o 0x09).length > 4096, 0x316)]

/-- DATA (R77, R79). -/
def dataCause (o : List Byte) : Option Cause :=
  let rs := dataRecs o
  let size := ((sec? o 0x0A).map (·.size)).getD 0
  firstCause
    [(rs.any fun r => r.space = 0 || r.space > 4 || !zeros o (r.off - 4) 4, 0x310),
     (rs.foldl (fun n r => n + 16 + pad16 r.size) 0 ≠ size, 0x316),
     (rs.any fun r => r.sym ≥ (entries o 0x0B).length, 0x316),
     (rs.any fun r => r.align > 12 || (if r.space ≤ 2 then r.core ≥ imageCores o else r.core ≠ 0), 0x316)]

/-- BARRIER (R78). -/
def barrierCause (o : List Byte) : Option Cause :=
  let bs := entries o 0x0F
  firstCause
    [(bs.any fun b => !zeros o (b + 6) 10, 0x310),
     (bs.any fun b => rd o b 2 ≥ imageCores o || rd o (b + 2) 2 > 2047 || rd o (b + 4) 2 = 0 || rd o (b + 4) 2 > 4095, 0x316),
     (repeats (bs.map fun b => rd o b 4), 0x316)]

/-- SYMBOL and RELOC (R79). -/
def symbolCause (o : List Byte) : Option Cause :=
  let rs := entries o 0x0C
  firstCause
    [((entries o 0x0B).any fun b => rd o (b + 0x48) 2 > 8, 0x316),
     (rs.any fun b => rd o (b + 2) 2 = 0 || rd o (b + 2) 2 > 6, 0x315),
     (rs.any fun b => rd o (b + 2) 2 ≠ 6 && rd o (b + 4) 4 ≥ (entries o 0x0B).length, 0x316)]

/-- The whole of step 2. -/
def objectCause (o : List Byte) : Option Cause :=
  [headerCause, tableCause, graphCause, elemCause, codeCause, edgeCause, streamCause, windowCause, schedCause, dataCause,
   barrierCause, symbolCause].findSome? fun f => f o

/-! ## The launch record (R337 to R339) -/

/-- The capacity in cores of one unit of a kind, and its natural scope (R338). -/
def kindCores (k : Nat) : Nat :=
  match k with
  | 1 => 1 | 2 => 16 | 3 => 256 | 4 => 2048 | 5 => 96 * 2048 | _ => 9216 * 2048
def kindScope (k : Nat) : Nat :=
  match k with
  | 0 => 0 | 1 => 1 | 2 => 2 | 3 | 4 => 3 | 5 | 6 => 4 | _ => 5

/-- Cores in one instance of a level times its COUNT. -/
def coresUpTo (o : List Byte) (n : Nat) : Nat := (List.range n).foldl (fun c i => c * levelCount o (i + 1)) 1

/-- The record breaks R337 to R339: status 0x318. -/
def recordBroken (o : List Byte) : Bool :=
  let b := launchOff o
  let n := levelNum o
  let unused (i : Nat) : Bool := !zeros o (b + 0x40 + 32 * i) 32
  let level (i : Nat) : Bool :=
    let k := levelKind o i
    k > 7 || levelScope o i > 5 || !zeros o (b + 0x42 + 32 * i) 2 || levelCount o i = 0 || !zeros o (b + 0x48 + 32 * i) 24
      || (i > 0 && (levelKind o (i - 1) ≥ k || levelScope o i < kindScope k))
      || (i > 0 && i + 1 < n && (levelScope o i > levelScope o (i + 1) || coresUpTo o i > kindCores (levelKind o (i + 1))))
  rd o b 4 ≠ 0x48434E4C || rd o (b + 4) 2 ≠ 1 || n < 2 || n > 8 || rd o (b + 7) 1 ≠ 0 || rd o (b + 8) 1 > 63 || rd o (b + 9) 1 > 7
    || rd o (b + 0xA) 1 > 8 || !(rd o (b + 0xB) 1 = 0 || (8 ≤ rd o (b + 0xB) 1 && rd o (b + 0xB) 1 ≤ 15))
    || rd o (b + 0xC) 4 = 0 || rd o (b + 0x10) 4 = 0 || rd o (b + 0x1C) 4 > 4096
    || rd o (b + 0x1C) 4 ≠ (entries o 0x09).length
    || !zeros o (b + 0x28) 24 || !zeros o (b + 0x180) 64 || !zeros o (b + 0x280) 384
    || (List.range 8).any (fun i => if i < n then level i else unused i)
    || levelKind o 0 ≠ 0 || levelCount o 0 > 64 || levelKind o 1 ≠ 1
    || (List.range 8).any (fun i =>
        let w := b + 0x200 + 16 * i
        if i < rd o (b + 0xA) 1 then rd o w 1 > 15 || !zeros o (w + 1) 7 else !zeros o w 16)

/-! ## Relocations (R79) -/

/-- A field of a file replaced. -/
def patch (o : List Byte) (off : Nat) (bs : List Byte) : List Byte := o.take off ++ bs ++ o.drop (off + bs.length)

/-- The bytes a relocation type patches. -/
def relocBytes (ty : Nat) : Nat := if ty = 1 ∨ ty = 6 then 8 else 4

/-- Applies one relocation: `place` gives, for a type, a symbol's virtual address or its offset in its space, `table` the address of a
section's copy, to which no addend is added. A SECT that names no section is 0x312, and a negative CPAD32 or CLUS32 is 0x314 (DESIGN CHOICE,
log entry 43). -/
def relocate (o : List Byte) (b : Nat) (place : Nat → Nat → Nat) (table : Nat → Nat) : Except Cause (List Byte) :=
  match (secs o)[rd o b 2]? with
  | none => .error 0x312
  | some s =>
    let ty := rd o (b + 2) 2
    let sym := rd o (b + 4) 4
    let at_ := rd o (b + 8) 8
    let n := relocBytes ty
    if at_ + n > s.size then .error 0x312
    else
      let v : Int := (place ty sym : Nat) + rdSigned o (b + 0x10) 8
      let put (n : Nat) (x : Nat) : Except Cause (List Byte) := .ok (patch o (s.off + at_) (leBytes n x))
      match ty with
      | 6 => put 8 (table sym)
      | 1 => put 8 (v % 2 ^ 64).toNat
      | 2 => put 4 (v % 2 ^ 32).toNat
      | 3 => put 4 ((v % 2 ^ 64).toNat / 2 ^ 32)
      | 4 => if v < 0 ∨ v > 0x5FFFF then .error 0x314 else put 4 v.toNat
      | 5 => if v < 0 ∨ v > 0x3FFFFF then .error 0x314 else put 4 v.toNat
      | _ => .error 0x315

/-- The file ranges that the relocations patch. -/
def relocRanges (o : List Byte) : List (Nat × Nat) :=
  (entries o 0x0C).map fun b =>
    ((((secs o)[rd o b 2]?).map (·.off)).getD 0 + rd o (b + 8) 8, relocBytes (rd o (b + 2) 2))

/-- Applies every relocation in entry order. -/
def relocateAll (place : Nat → Nat → Nat) (table : Nat → Nat) : List Nat → List Byte → Except Cause (List Byte)
  | [], o => .ok o
  | b :: bs, o =>
    match relocate o b place table with
    | .ok o => relocateAll place table bs o
    | .error c => .error c

/-- Step 7 of R82. -/
def relocateObject (o : List Byte) (place : Nat → Nat → Nat) (table : Nat → Nat) : Except Cause (List Byte) :=
  if anyOverlap (relocRanges o) then .error 0x316 else relocateAll place table (entries o 0x0C) o

end Sys2Proof.Machine
end

