-- ==== Sys2Proof/Machine/Packets.lean ====
section
/-! DEFINITION. Command packets: the codes each port accepts (R168, R191, R213, R231, R406, R428, R430), their static
faults (R192, R200, R203, R207 to R211, R215, R229 to R232, R237, R265), and the instruction a packet holds. -/

namespace Sys2Proof.Machine

open Sys2Proof

/-! ## Fields -/

/-- Bits hi to lo of a packet word. -/
def fld (q : Quad) (hi lo : Nat) : Nat := q.toNat / 2 ^ lo % 2 ^ (hi + 1 - lo)
def bit (q : Quad) (n : Nat) : Bool := q.toNat / 2 ^ n % 2 = 1

/-- A word of a packet. -/
def pw (ws : List Quad) (n : Nat) : Quad := ws.getD n 0

def reuseOf (n : Nat) : Reuse := match n % 4 with | 0 => .stream | 1 => .normal | 2 => .hot | _ => .pin
def roundingOf (n : Nat) : Rounding := match n with | 0 => .rne | 1 => .rtz | 2 => .rup | 3 => .rdn | _ => .sr
def dword (n : Nat) : Dword := .ofNat 64 n

/-! ## Features, policies and attachments -/

/-- A feature accepted through FEATACK (R432). -/
def feature (s : State) (n : Nat) : Bool := s.root.featack.getLsbD n

/-- The peers a policy block lists (R81, R417). -/
def policyPeers (blk : List Byte) : List Nat :=
  let b := 0x30 + 0x40 + 64 * rd blk 0x34 2
  (List.range (rd blk 0x36 2)).map fun i => rd blk (b + 2 * i) 2 % 2 ^ 14

/-- A module that a partition's policy lists as a peer (R418). -/
def peerAllowed (s : State) (part mod : Nat) : Bool :=
  match tfind s.root.policies (tget {} s.parts part : Partition).policy with
  | some p => (policyPeers p.block).contains mod
  | none => false

/-- Where an engine's tokens go (R61). -/
def attached (s : State) (core port : Nat) : Option Edge := s.edges.find? fun e => e.src = .eng core port

/-! ## Codes, classes, paths and lengths -/

/-- How a packet reaches its port. -/
inductive Path where
  | send (ce w : Bool) | cfg | sbind | edge
deriving DecidableEq, Repr

/-- The paths a table allows a code. -/
inductive Via where
  | anySend | sendOrEdge | ce | ceSendw | sendw | cfg | sbind
deriving DecidableEq, Repr

def Via.allows : Via → Path → Bool
  | .anySend, .send _ _ => true
  | .sendOrEdge, .send _ _ => true
  | .sendOrEdge, .edge => true
  | .ce, .send c _ => c
  | .ceSendw, .send c w => c && w
  | .sendw, .send _ w => w
  | .cfg, .cfg => true
  | .sbind, .sbind => true
  | _, _ => false

/-- A row of a port's command table: its class, its paths and its lengths. -/
structure CmdRow where
  sig : Bool
  via : Via
  lo : Nat
  hi : Nat
deriving DecidableEq, Repr

def ordRow (v : Via) (n : Nat) : Option CmdRow := some { sig := false, via := v, lo := n, hi := n }
def sigRow (v : Via) (n : Nat) : Option CmdRow := some { sig := true, via := v, lo := n, hi := n }

/-- The matrix node's codes (R231). -/
def mnRow (code : Nat) : Option CmdRow :=
  match code with
  | 0x0C => sigRow .sendOrEdge 0
  | 0x0D | 0x0E => ordRow .ce 0
  | 0x20 => ordRow .anySend 2
  | 0x01 | 0x02 | 0x03 | 0x04 | 0x05 | 0x06 | 0x07 | 0x08 | 0x09 | 0x0A | 0x10 | 0x11 | 0x12 | 0x13 | 0x14 | 0x18 | 0x19
  | 0x1A | 0x1B | 0x1C | 0x1D | 0x1E | 0x21 => ordRow .sendOrEdge 0
  | _ => none

/-- The command codes of each port (R168, R191, R213, R231, R406, R428, R430). -/
def cmdRow (port code : Nat) : Option CmdRow :=
  if port ≤ 7 then
    match code with
    | 0x01 => ordRow .sbind 0
    | 0x0D | 0x0E => ordRow .ce 0
    | _ => none
  else if port ≤ 11 then
    match code with
    | 0x01 => ordRow .cfg 2
    | 0x02 => ordRow .cfg 0
    | 0x03 => ordRow .ce 0
    | 0x05 => ordRow .ce 1
    | 0x06 => ordRow .ceSendw 0
    | _ => none
  else
    match port, code with
    | 12, c => mnRow c
    | 13, 0x01 => ordRow .sendOrEdge 7
    | 13, 0x0C => sigRow .sendOrEdge 0
    | 14, 0x01 => ordRow .anySend 1
    | 14, 0x02 => ordRow .anySend 2
    | 14, 0x03 => ordRow .cfg 0
    | 15, 0x01 => ordRow .anySend 2
    | 15, 0x02 => ordRow .anySend 1
    | 16, 0x01 => ordRow .anySend 3
    | 14, 0x0C | 15, 0x0C | 16, 0x0C => sigRow .anySend 0
    | 13, 0x0D | 13, 0x0E | 14, 0x0D | 14, 0x0E | 15, 0x0D | 15, 0x0E | 16, 0x0D | 16, 0x0E => ordRow .ce 0
    | 17, 0x01 => some { sig := false, via := .anySend, lo := 2, hi := 7 }
    | 17, 0x0C => sigRow .anySend 0
    | 18, 0x01 => sigRow .anySend 1
    | 19, 0x01 => sigRow .anySend 0
    | 19, 0x02 => ordRow .sendw 0
    | _, _ => none

/-- The unassigned-code cause of a port. -/
def unassigned (port : Nat) : Cause :=
  if port ≤ 7 then 0x200 else if port ≤ 11 then 0x0A0 else
    match port with
    | 12 => 0x180 | 13 => 0x210 | 14 => 0x240 | 15 => 0x250 | 16 => 0x280 | 17 => 0x390 | 18 => 0x3B0 | _ => 0x145

/-- The malformed-packet cause of a port. -/
def malformed (port : Nat) : Cause :=
  if port ≤ 7 then 0x201 else if port ≤ 11 then 0x0A1 else
    match port with
    | 12 => 0x181 | 13 => 0x211 | 14 => 0x241 | 15 => 0x251 | 16 => 0x281 | 17 => 0x391 | 18 => 0x3B1 | _ => 0x146

/-! ## The copy engine (R200 to R203) -/

def copyCmd (ws : List Quad) : CopyCmd :=
  let w0 := pw ws 0
  let cnt (w hi lo : Nat) : BitVec 32 := .ofNat 32 (fld (pw ws w) hi lo)
  { seed := .ofNat 32 (fld w0 127 96), trapf := bit w0 32, tl := Fin.ofNat 3 (fld w0 31 30), ewl := Fin.ofNat 5 (fld w0 29 27),
    dmx := bit w0 26, smx := bit w0 25, rm := roundingOf (fld w0 24 22), dfmt := .ofNat 5 (fld w0 21 17),
    sfmt := .ofNat 5 (fld w0 16 12), conv := bit w0 11, ndim := Fin.ofNat 7 (fld w0 10 8),
    dbase := dword (fld (pw ws 1) 127 64), sbase := dword (fld (pw ws 1) 63 0),
    counts := [cnt 2 31 0, cnt 2 63 32, cnt 2 95 64, cnt 2 127 96, cnt 3 31 0, cnt 3 63 32],
    sstrides := [cnt 4 31 0, cnt 4 63 32, cnt 4 95 64, cnt 4 127 96, cnt 5 31 0, cnt 5 63 32],
    dstrides := [cnt 5 95 64, cnt 5 127 96, cnt 6 31 0, cnt 6 63 32, cnt 6 95 64, cnt 6 127 96],
    sscale := dword (fld (pw ws 3) 127 64), dscale := dword (fld (pw ws 7) 63 0) }

/-- One side of a copy: its format, whether it is MX blocks, its base, strides and counts. -/
structure CopySide where
  fmt : Option Num.Fmt
  mx : Bool
  ew : Nat
  base : Nat
  strides : List Int
deriving DecidableEq, Repr

/-- Element bytes of a side (R201). -/
def sideBytes (c : CopyCmd) (f : Option Num.Fmt) : Nat :=
  if c.conv then ((f.map (·.bits)).getD 8) / 8 else 2 ^ c.ewl.val

def copySrc (c : CopyCmd) : CopySide :=
  let f := Num.fmtOf c.sfmt.toNat
  { fmt := f, mx := c.smx, ew := sideBytes c f, base := c.sbase.toNat, strides := c.sstrides.map (·.toInt) }
def copyDst (c : CopyCmd) : CopySide :=
  let f := Num.fmtOf c.dfmt.toNat
  { fmt := f, mx := c.dmx, ew := sideBytes c f, base := c.dbase.toNat, strides := c.dstrides.map (·.toInt) }

/-- Counts of the dimensions in use. -/
def copyDims (c : CopyCmd) : List Nat := (c.counts.take c.ndim.val).map (·.toNat)

/-- Bytes of one run of dimension 1 on an MX side (R201). -/
def runBytes (f : Option Num.Fmt) (c1 : Nat) : Nat := c1 * ((f.map (·.bits)).getD 8) / 8

/-- The lowest and highest byte a side names (R203). -/
def CopySide.span (x : CopySide) (dims : List Nat) : Int × Int :=
  let ts := List.zip (if x.mx then x.strides.drop 1 else x.strides) (if x.mx then dims.drop 1 else dims)
  let lo := ts.foldl (fun (a : Int) p => a + min 0 (p.1 * ((p.2 : Int) - 1))) (x.base : Int)
  let hi := ts.foldl (fun (a : Int) p => a + max 0 (p.1 * ((p.2 : Int) - 1))) (x.base : Int)
  (lo, hi + (if x.mx then runBytes x.fmt (dims.headD 0) else x.ew : Nat) - 1)

/-- The formats of R201. -/
def CopySide.accepted (x : CopySide) : Bool :=
  match x.fmt with
  | some f =>
    if x.mx then f.mx.isSome
    else match f with
      | .fp .fp64 | .fp .fp32 | .fp .bf16 | .fp .fp16 | .fp .e5m2 | .fp .e4m3 | .int8 | .int16 | .int32 => true
      | _ => false
  | none => true

/-- Bases and strides that are not multiples of a unit (R201). -/
def CopySide.misaligned (x : CopySide) (n : Nat) : Bool :=
  let u := if x.mx then 8 else x.ew
  x.base % u ≠ 0 || ((x.strides.take n).drop (if x.mx then 1 else 0)).any fun s => s % (u : Int) ≠ 0

/-- The row rule of an MX side (R201). -/
def CopySide.breaksRow (x : CopySide) (dims : List Nat) : Bool :=
  x.mx && (x.strides.headD 0 ≠ 0 || dims.headD 0 % 32 ≠ 0)

def copyFaults (ws : List Quad) : List (Bool × Cause) :=
  let w0 := pw ws 0
  let c := copyCmd ws
  let n := c.ndim.val
  let a := copySrc c
  let b := copyDst c
  let beyond : Bool :=
    let (al, ah) := a.span (copyDims c)
    let (bl, bh) := b.span (copyDims c)
    al ≤ bh && bl ≤ ah
  [(a.fmt.isNone || b.fmt.isNone, 0x005),
   (fld w0 95 33 ≠ 0 || fld w0 31 30 = 3 || fld w0 24 22 > 4 || n = 0 || fld w0 10 8 > 6 || fld (pw ws 7) 127 64 ≠ 0, 0x211),
   (if c.conv then fld w0 29 27 ≠ 0 else fld w0 29 27 > 4 || c.sfmt ≠ 0 || c.dfmt ≠ 0, 0x211),
   ((c.counts.take n).any (· = 0) || (c.counts.drop n).any (· ≠ 0) || (c.sstrides.drop n).any (· ≠ 0) || (c.dstrides.drop n).any (· ≠ 0), 0x211),
   ((!c.smx && c.sscale ≠ 0) || (!c.dmx && c.dscale ≠ 0), 0x211),
   (!a.accepted || !b.accepted, 0x212), (beyond, 0x213), (a.misaligned n || b.misaligned n, 0x216),
   (a.breaksRow (copyDims c) || b.breaksRow (copyDims c), 0x217)]

/-! ## The partition network and the intersection unit (R207 to R211) -/

def gatherCmd (ws : List Quad) : GatherCmd :=
  let w0 := pw ws 0
  { nidx := .ofNat 32 (fld w0 95 64), trapf := bit w0 16, tlf := bit w0 15, rc := reuseOf (fld w0 14 13),
    ewl := Fin.ofNat 5 (fld w0 12 10), iwl := Fin.ofNat 2 (fld w0 9 8),
    dbase := dword (fld (pw ws 1) 127 64), ibase := dword (fld (pw ws 1) 63 0) }

def scatterOpOf (n : Nat) : ScatterOp := match n with | 0 => .st | 1 => .add | _ => .fadd

def scatterCmd (ws : List Quad) : ScatterCmd :=
  let w0 := pw ws 0
  { nidx := .ofNat 32 (fld w0 95 64), trapf := bit w0 16, tlf := bit w0 15, op := scatterOpOf (fld w0 14 13),
    ewl := Fin.ofNat 5 (fld w0 12 10), iwl := Fin.ofNat 2 (fld w0 9 8),
    vbase := dword (fld (pw ws 1) 127 64), ibase := dword (fld (pw ws 1) 63 0), dbase := dword (fld (pw ws 2) 63 0) }

/-- Checks that GATHER and SCATTER share. -/
def indexFaults (w0 : Quad) : List (Bool × Cause) :=
  [(fld w0 127 96 ≠ 0 || fld w0 63 17 ≠ 0 || fld w0 95 64 = 0 || fld w0 9 8 > 1 || fld w0 12 10 < 2 || fld w0 12 10 > 4, 0x241)]

def gatherFaults (ws : List Quad) (att : Bool) : List (Bool × Cause) :=
  let w0 := pw ws 0
  indexFaults w0 ++
    [(fld (pw ws 1) 127 64 % 2 ^ fld w0 12 10 ≠ 0 || fld (pw ws 1) 63 0 % 2 ^ (2 + fld w0 9 8) ≠ 0, 0x241), (!att, 0x243)]

def scatterFaults (ws : List Quad) : List (Bool × Cause) :=
  let w0 := pw ws 0
  indexFaults w0 ++
    [(fld w0 14 13 = 3 || (fld w0 12 10 = 4 && fld w0 14 13 ≠ 0) || fld (pw ws 2) 127 64 ≠ 0, 0x241),
     (fld (pw ws 1) 127 64 % 2 ^ fld w0 12 10 ≠ 0 || fld (pw ws 2) 63 0 % 2 ^ fld w0 12 10 ≠ 0
        || fld (pw ws 1) 63 0 % 2 ^ (2 + fld w0 9 8) ≠ 0, 0x241)]

def confFaults (w0 : Quad) : List (Bool × Cause) :=
  let sh := fld w0 13 9
  [(fld w0 127 14 ≠ 0 || (if bit w0 8 then sh < 4 || sh > 20 else sh ≠ 0), 0x241)]

def maskCmd (ws : List Quad) : MaskCmd :=
  let w0 := pw ws 0
  { ibase := .ofNat 32 (fld w0 127 96), len := .ofNat 21 (fld w0 84 64), trapf := bit w0 16, tlf := bit w0 15,
    tree := .ofNat 4 (fld w0 14 11), isOr := bit w0 10, nm := Fin.ofNat 4 (fld w0 9 8), m0 := dword (fld (pw ws 1) 63 0),
    m1 := dword (fld (pw ws 1) 127 64), m2 := dword (fld (pw ws 2) 63 0), m3 := dword (fld (pw ws 2) 127 64) }

def maskFaults (ws : List Quad) (att : Bool) : List (Bool × Cause) :=
  let w0 := pw ws 0
  let c := maskCmd ws
  let bases : List Dword := [c.m0, c.m1, c.m2, c.m3]
  [(fld w0 95 85 ≠ 0 || fld w0 63 17 ≠ 0 || c.len = 0 || c.len.toNat > 2 ^ 20, 0x251),
   (bases.any (fun b => b.toNat % 8 ≠ 0) || (bases.drop (c.nm.val + 1)).any (· ≠ 0), 0x251), (!att, 0x255)]

def listCmd (ws : List Quad) : ListCmd :=
  let w0 := pw ws 0
  { nb := .ofNat 32 (fld w0 127 96), na := .ofNat 32 (fld w0 95 64), trapf := bit w0 16, tlf := bit w0 15,
    bbase := dword (fld (pw ws 1) 127 64), abase := dword (fld (pw ws 1) 63 0) }

def listFaults (ws : List Quad) (att : Bool) : List (Bool × Cause) :=
  let w0 := pw ws 0
  let c := listCmd ws
  [(fld w0 63 17 ≠ 0 || fld w0 14 8 ≠ 0 || c.bbase.toNat % 4 ≠ 0 || c.abase.toNat % 4 ≠ 0, 0x251), (!att, 0x255)]

/-! ## The adit port (R213, R215) -/

def walkPolicyOf (n : Nat) : WalkPolicy := match n with | 0 => .stop | 1 => .skip | _ => .trap

def walkCmd (ws : List Quad) : WalkCmd :=
  let w0 := pw ws 0
  { paddr := dword (fld w0 127 64), slim := .ofNat 13 (fld w0 44 32), nrule := Fin.ofNat 32 (fld w0 31 27),
    skipix := Fin.ofNat 32 (fld w0 26 22), loopix := Fin.ofNat 32 (fld w0 21 17), entry := Fin.ofNat 32 (fld w0 16 12),
    rmode := bit w0 11, trapf := bit w0 10, pol := walkPolicyOf (fld w0 9 8), w0 := dword (fld (pw ws 1) 127 64),
    cur0 := dword (fld (pw ws 1) 63 0), key := pw ws 2, w1 := dword (fld (pw ws 3) 127 64), rbase := dword (fld (pw ws 3) 63 0) }

/-- An access at firing, its address checked first (R215). -/
def xlateAt (s : State) (core va n : Nat) (use : Use) : Option Route :=
  if va ≥ 2 ^ 56 then none
  else match translate s core va n use with
    | .ok r => some r
    | .fault _ _ => none

/-- Physical addresses of a walk's program and reply lines, where none faults (R215). -/
def walkRoutes (s : State) (core : Nat) (c : WalkCmd) : Option (List Route) :=
  match xlateAt s core c.paddr.toNat 128 .read with
  | none => none
  | some p =>
    if c.rmode then
      match xlateAt s core c.rbase.toNat 128 .write, xlateAt s core (c.rbase.toNat + 128) 16 .write with
      | some a, some b => some [p, a, b]
      | _, _ => none
    else some [p]

def walkFaults (s : State) (core : Nat) (ws : List Quad) (att : Bool) : List (Bool × Cause) :=
  let w0 := pw ws 0
  let c := walkCmd ws
  [(fld w0 63 45 ≠ 0 || c.paddr.toNat % 128 ≠ 0 || c.slim = 0 || c.slim.toNat > 4096 || fld w0 9 8 = 3, 0x281),
   (c.skipix > c.nrule || c.loopix > c.nrule || c.entry > c.nrule, 0x281),
   (if c.rmode then c.rbase.toNat % 128 ≠ 0 else c.rbase ≠ 0, 0x281),
   ((walkRoutes s core c).isNone || (!c.rmode && !att), 0x282)]

/-! ## The matrix node (R229 to R232, R237, R265) -/

def mnTok (w : Quad) : MnTok :=
  { opf := dword (fld w 127 64), tl := Fin.ofNat 3 (fld w 61 60), trapf := bit w 59, bank := Fin.ofNat 2 (fld w 58 58),
    mdc := Fin.ofNat 16 (fld w 57 54), mdb := Fin.ofNat 16 (fld w 53 50), mda := Fin.ofNat 16 (fld w 49 46),
    chain := bit w 45, acc := bit w 44, k := .ofNat 16 (fld w 43 28), n := .ofNat 10 (fld w 27 18), m := .ofNat 10 (fld w 17 8) }

/-- The token fields an operation reads (the Uses column of R231). -/
structure MnUses where
  m : Bool := false
  n : Bool := false
  k : Bool := false
  acc : Bool := false
  mda : Bool := false
  mdb : Bool := false
  mdc : Bool := false
  bank : Bool := false
  big : Bool := false
deriving DecidableEq, Repr

def mnUses (mop : Nat) : MnUses :=
  match mop with
  | 0x01 | 0x02 | 0x03 | 0x04 => { m := true, n := true, k := true, acc := true, mda := true, mdb := true, bank := true }
  | 0x05 => { m := true, n := true, k := true, acc := true, mda := true, mdb := true, bank := true, big := true }
  | 0x06 => { m := true, n := true, acc := true, mda := true, mdb := true, bank := true }
  | 0x07 | 0x0A | 0x10 | 0x11 | 0x13 => { m := true, n := true, bank := true }
  | 0x08 => { m := true, n := true, k := true, mda := true, mdb := true, bank := true }
  | 0x09 | 0x14 => { m := true, n := true, k := true, acc := true, mdb := true, bank := true }
  | 0x12 => { m := true, n := true, mdb := true, mdc := true, bank := true }
  | 0x18 => { m := true, n := true, acc := true, mda := true, bank := true }
  | 0x19 | 0x1A => { m := true, n := true, mdc := true, bank := true }
  | 0x1B => { m := true, n := true, mdc := true, bank := true, big := true }
  | 0x1C => { bank := true }
  | 0x1D => { m := true, n := true, acc := true, bank := true }
  | 0x1E => { mdc := true }
  | _ => {}

/-- An M or N outside R229. -/
def mnSize (used big : Bool) (x step hi step4 hi4 : Nat) : Bool :=
  if !used then x ≠ 0 else if big then x = 0 || x % step4 ≠ 0 || x > hi4 else x = 0 || x % step ≠ 0 || x > hi

/-- FP32 bits that are a NaN, an infinity or a negative value. -/
def badTol (b : Nat) : Bool :=
  match Num.decode .fp32 b with
  | .nan _ => true
  | .inf _ => true
  | .fin neg n _ => neg && n ≠ 0

/-- OPF faults of each operation: reserved bits and ranges (0x181), regions (0x182). -/
def opfFaults (mop : Nat) (w : Quad) : List (Bool × Cause) :=
  let m := fld w 17 8
  let n := fld w 27 18
  let k := fld w 43 28
  match mop with
  | 0x01 | 0x03 | 0x04 =>
    [(bit w 71 || fld w 127 80 ≠ 0, 0x181), (fld w 70 64 + m > 96 || fld w 79 72 + n > 160, 0x182)]
  | 0x02 => [(bit w 71 || fld w 127 80 ≠ 0, 0x181), (fld w 70 64 + n > 96 || fld w 79 72 + m > 160, 0x182)]
  | 0x05 => [(fld w 95 64 ≠ 0, 0x181)]
  | 0x06 => [(fld w 127 71 ≠ 0 || fld w 70 64 > 95, 0x181)]
  | 0x07 => [(fld w 127 78 ≠ 0 || fld w 66 64 > 5, 0x181)]
  | 0x08 => [(fld w 78 72 ≠ 0 || fld w 71 64 % 16 ≠ 0 || fld w 71 64 > 160, 0x181)]
  | 0x09 => [(fld w 127 64 ≠ 0, 0x181), (k % 16 ≠ 0 || k > 160, 0x182)]
  | 0x0C => [(fld w 127 64 ≠ 0 || fld w 61 60 = 0, 0x181)]
  | 0x10 =>
    [(fld w 127 73 ≠ 0 || fld w 71 68 = 0 || fld w 67 64 + fld w 71 68 > 15, 0x181), (m ≠ n || n % 16 ≠ 0 || n > 96, 0x182)]
  | 0x11 => [(fld w 68 64 ≠ 0 || badTol (fld w 127 96) || fld w 95 80 = 0 || fld w 79 76 > 14, 0x181)]
  | 0x12 => [(fld w 68 64 ≠ 0 || badTol (fld w 127 96) || fld w 95 80 = 0 || fld w 79 76 > 13, 0x181)]
  | 0x13 => [(fld w 127 67 ≠ 0, 0x181)]
  | 0x14 => [(fld w 127 64 ≠ 0, 0x181), (k > 160, 0x182)]
  | 0x18 => [(bit w 71 || fld w 127 80 ≠ 0, 0x181), (fld w 70 64 + m > 96 || fld w 79 72 + n > 160, 0x182)]
  | 0x19 | 0x1A =>
    [(fld w 79 78 ≠ 0 || fld w 66 64 > 5 || fld w 82 80 > 4 || fld w 103 98 ≠ 0 || (mop = 0x19 && fld w 127 104 ≠ 0), 0x181),
     (fld w 89 83 + m > 96 || fld w 97 90 + n > 160, 0x182)]
  | 0x1B => [(fld w 79 78 ≠ 0 || fld w 66 64 > 5 || fld w 82 80 > 4 || fld w 127 83 ≠ 0, 0x181)]
  | 0x1C => [(fld w 127 67 ≠ 0 || fld w 65 64 = 3, 0x181)]
  | 0x1D =>
    [(bit w 71 || bit w 87 || fld w 127 96 ≠ 0, 0x181),
     (fld w 70 64 + m > 96 || fld w 79 72 + n > 160 || fld w 86 80 + m > 96 || fld w 95 88 + n > 160, 0x182)]
  | 0x1E => [(fld w 127 65 ≠ 0, 0x181)]
  | 0x20 => [(fld w 127 68 ≠ 0, 0x181)]
  | 0x21 => [(fld w 95 69 ≠ 0 || (bit w 68 && fld w 67 64 ≠ 0), 0x181)]
  | _ => [(fld w 127 64 ≠ 0, 0x181)]

/-- The descriptor checks of R237, over its 256 bits. -/
def descFaults (d : BitVec 256) : List (Bool × Cause) :=
  let f (hi lo : Nat) : Nat := d.toNat / 2 ^ lo % 2 ^ (hi + 1 - lo)
  let base := f 63 0
  let pitch := f 223 192
  let lay := f 232 231
  let sp := f 230 229
  let fm := Num.fmtOf (f 228 224)
  let eb := ((fm.map (·.bits)).getD 8) / 8
  let isDx : Bool := match fm with | some (.dx _) => true | _ => false
  [(fm.isNone, 0x005),
   (f 255 236 ≠ 0 || sp = 3 || f 234 233 = 3 || (sp = 2 && lay ≥ 2), 0x184),
   (sp = 2 && (f 127 64 ≠ 0 || f 191 128 ≠ 0 || pitch ≠ 0 || base / 2 ^ 24 ≠ 0 || f 15 15 ≠ 0 || f 7 1 ≠ 0 || f 14 8 > 95 || f 23 16 > 159), 0x184),
   (sp ≠ 2 && lay ≤ 1 && (base % max 1 eb ≠ 0 || pitch % 16 ≠ 0), 0x184),
   (sp ≠ 2 && isDx && (base % 128 ≠ 0 || pitch % 128 ≠ 0), 0x184),
   (sp ≠ 2 && fm = some .mxint8 && (base % 32 ≠ 0 || pitch % 32 ≠ 0), 0x184)]

/-- Words 1 and 2 of MDSET as a descriptor (R237). -/
def descOf (w1 w2 : Quad) : BitVec 256 := .ofNat 256 (w2.toNat * 2 ^ 128 + w1.toNat)

/-- A token's static faults. -/
def mnFaults (mop : Nat) (ws : List Quad) (w : Bool) (whole : Bool) : List (Bool × Cause) :=
  let t := pw ws 0
  let u := mnUses mop
  let k := fld t 43 28
  [(fld t 63 62 ≠ 0 || fld t 61 60 = 3 || (bit t 45 && (fld t 61 60 ≠ 0 || w)), 0x181),
   ((!u.acc && bit t 44) || (!u.mda && fld t 49 46 ≠ 0) || (!u.mdb && fld t 53 50 ≠ 0) || (!u.mdc && fld t 57 54 ≠ 0)
      || (!u.bank && bit t 58), 0x181),
   (mnSize u.m u.big (fld t 17 8) 8 96 32 384 || mnSize u.n u.big (fld t 27 18) 16 160 64 640
      || (if u.k then k = 0 else k ≠ 0), 0x182),
   (mop = 0x05 && !whole, 0x1D2)]
  ++ opfFaults mop t
  ++ (if mop = 0x20 then descFaults (descOf (pw ws 1) (pw ws 2)) else [])

/-- A packet that holds nothing but its code. -/
def bareFaults (w : Quad) (c : Cause) : List (Bool × Cause) := [(fld w 127 8 ≠ 0, c)]

/-- RESUME and ABORT of the matrix node use no field of their token (R229). -/
def mnBareFaults (w : Quad) : List (Bool × Cause) := [(fld w 127 44 ≠ 0, 0x181), (fld w 43 8 ≠ 0, 0x182)]

/-! ## Memory ports, peers, host and barriers (R406, R430, R428, R168) -/

def mpFaults (code : Nat) (ws : List Quad) : List (Bool × Cause) :=
  let w := pw ws 0
  match code with
  | 0x01 | 0x02 => [(fld w 127 17 ≠ 0 || fld w 15 12 ≠ 0, 0x0A1)]
  | 0x03 => [(fld w 127 17 ≠ 0 || fld w 15 13 ≠ 0, 0x0A1)]
  | 0x05 =>
    let v := pw ws 1
    [(fld w 127 17 ≠ 0 || fld w 15 8 ≠ 0 || fld v 63 56 ≠ 0 || fld v 15 0 ≠ 0 || fld v 79 64 ≠ 0, 0x0A1)]
  | _ => [(fld w 127 8 ≠ 0, 0x0A1)]

def peerFaults (s : State) (core code : Nat) (ws : List Quad) : List (Bool × Cause) :=
  let w := pw ws 0
  match code with
  | 0x01 =>
    let a := pw ws 1
    let mod := fld w 21 8
    [(fld w 127 38 ≠ 0 || mod ≥ 9216 || fld a 127 48 ≠ 0 || fld a 3 0 ≠ 0 || fld a 6 0 + 16 * (ws.length - 2) > 128, 0x391),
     (!peerAllowed s (partOf s core) mod, 0x345)]
  | _ => bareFaults w 0x391

/-- A packet of the remote-barrier port (R168); a module identifier that is never assigned is malformed (R429). -/
def barrierFaults (code : Nat) (w : Quad) : List (Bool × Cause) :=
  let arrive : Bool := code = 0x01
  [(fld w 127 75 ≠ 0 || (bit w 74 && fld w 73 60 ≥ 9216) || fld w 9 8 ≠ 0 || (arrive && fld w 59 44 ≠ 0) || (arrive ≠ (fld w 43 32 ≠ 0)), 0x146)]

/-! ## All together -/

/-- The sixteen cores of a core's cluster are in its partition (R257). -/
def clusterWhole (s : State) (core : Nat) : Bool :=
  (List.range 16).all fun i => (getCore s (core / 16 * 16 + i)).part = (getCore s core).part && (getCore s core).part.isSome

/-- What a listed code's entry checks statically. -/
def codeFaults (s : State) (core port code : Nat) (path : Path) (ws : List Quad) : List (Bool × Cause) :=
  let w := pw ws 0
  let att := (attached s core port).isSome
  let byW : Bool := match path with | .send _ w => w | _ => false
  if port ≤ 7 then bareFaults w 0x201
  else if port ≤ 11 then mpFaults code ws
  else match port, code with
    | 12, 0x0D | 12, 0x0E => mnBareFaults w
    | 12, c => mnFaults c ws byW (clusterWhole s core)
    | 13, 0x01 => copyFaults ws
    | 13, 0x0C => [(fld w 127 9 ≠ 0, 0x211)]
    | 14, 0x01 => gatherFaults ws att
    | 14, 0x02 => scatterFaults ws
    | 14, 0x03 => confFaults w
    | 15, 0x01 => maskFaults ws att
    | 15, 0x02 => listFaults ws att
    | 16, 0x01 => walkFaults s core ws att
    | 17, c => peerFaults s core c ws
    | 18, _ => [(fld w 127 17 ≠ 0, 0x3B1)]
    | 19, c => barrierFaults c w
    | p, _ => bareFaults w (malformed p)

/-- The lowest-numbered cause of the checks that fail (R192). -/
def lowestCause (fs : List (Bool × Cause)) : Option Cause :=
  fs.foldl (fun (b : Option Cause) p =>
    if p.1 then (match b with | some c => some (if p.2 < c then p.2 else c) | none => some p.2) else b) none

/-- Whether a port's commands are not accepted under R432. -/
def portOff (s : State) (port : Nat) : Bool := (port = 16 && !feature s 7) || (port = 17 && !feature s 1)

/-- The static faults of a packet: of a listed code, the lowest cause among its port and path, its class, its LEN, and what its entry checks
(R44, R191, R192). A word that the packet does not hold is taken as zero. -/
def staticFault (s : State) (core port : Nat) (path : Path) (sig : Bool) (ws : List Quad) : Option Cause :=
  let code := (pw ws 0).toNat % 256
  let len := ws.length - 1
  match cmdRow port code with
  | none => some (unassigned port)
  | some r =>
    let sent : Bool := match path with | .send _ _ => true | _ => false
    lowestCause ((portOff s port || !r.via.allows path, unassigned port) :: (sent && r.sig ≠ sig, 0x00E)
      :: (len < r.lo || len > r.hi, malformed port) :: codeFaults s core port code path ws)

/-- The instruction that a sound packet holds. -/
def readCommand (core port : Nat) (ws : List Quad) : Instr :=
  let w := pw ws 0
  let t := mnTok w
  let code := w.toNat % 256
  if port ≤ 7 then
    match code with
    | 0x0D => .resume core port
    | 0x0E => .abort core port
    | _ => .bind (dword (fld w 127 64)) (.ofNat 16 (fld w 31 16))
  else if port ≤ 11 then
    match code with
    | 0x01 => .wset (Fin.ofNat 16 (fld w 11 8)) (bit w 16) (pw ws 1) (pw ws 2)
    | 0x02 => .wclr (Fin.ofNat 16 (fld w 11 8)) (bit w 16)
    | 0x03 => .release (Fin.ofNat 32 (fld w 12 8)) (bit w 16)
    | 0x05 => .inval (bit w 16) (.ofNat 56 (fld (pw ws 1) 55 0)) (dword (fld (pw ws 1) 127 64))
    | _ => .pstat
  else match port, code with
    | 12, 0x01 => .mma t | 12, 0x02 => .mmat t | 12, 0x03 => .mmaCsr t | 12, 0x04 => .mmaBsr t | 12, 0x05 => .mmaC t
    | 12, 0x06 => .mscan t | 12, 0x07 => .mepi t | 12, 0x08 => .msmQk t | 12, 0x09 => .msmPv t | 12, 0x0A => .msmFin t
    | 12, 0x0C => .msig t | 12, 0x0D => .mnResume core | 12, 0x0E => .mnAbort core
    | 12, 0x10 => .mpoly t | 12, 0x11 => .miterNs t | 12, 0x12 => .miterGen t | 12, 0x13 => .mres t | 12, 0x14 => .mfeed t
    | 12, 0x18 => .mld t | 12, 0x19 => .mst t | 12, 0x1A => .mstZ t | 12, 0x1B => .mstC t | 12, 0x1C => .mzero t
    | 12, 0x1D => .mcopy t | 12, 0x1E => .msts t | 12, 0x20 => .mdset t (pw ws 1) (pw ws 2) | 12, _ => .mcset t
    | 13, 0x01 => .copy (copyCmd ws)
    | 13, 0x0C => .signal (if bit w 8 then 1 else 0)
    | 14, 0x01 => .gather (gatherCmd ws)
    | 14, 0x02 => .scatter (scatterCmd ws)
    | 14, 0x03 => .conf (bit w 8) (.ofNat 5 (fld w 13 9))
    | 14, 0x0C => .signal 4
    | 15, 0x01 => .mask (maskCmd ws)
    | 15, 0x02 => .list (listCmd ws)
    | 15, 0x0C => .signal 5
    | 16, 0x01 => .walk (walkCmd ws)
    | 16, 0x0C => .aditSignal
    | 16, 0x0D => .aditResume core
    | 16, _ => .aditAbort core
    | 17, 0x01 => .pstore (.ofNat 14 (fld w 21 8)) (.ofNat 16 (fld w 37 22)) (.ofNat 48 (fld (pw ws 1) 47 0)) (ws.drop 2)
    | 17, _ => .psig
    | 18, _ => .egress (Fin.ofNat 64 (fld w 13 8)) (.ofNat 3 (fld w 16 14)) (pw ws 1)
    | 19, 0x01 => .barRemoteArrive (if bit w 74 then some (.ofNat 14 (fld w 73 60)) else none) (Fin.ofNat 2048 (fld w 31 21))
        (Fin.ofNat 2048 (fld w 20 10)) (.ofNat 12 (fld w 43 32))
    | 19, _ => .barRemoteWait (if bit w 74 then some (.ofNat 14 (fld w 73 60)) else none) (Fin.ofNat 2048 (fld w 31 21))
        (Fin.ofNat 2048 (fld w 20 10)) (.ofNat 16 (fld w 59 44))
    | p, 0x0D => .resume core p
    | p, _ => .abort core p

/-- The timeline a command signals, by its packet (R164, R193, R213, R230, R430). -/
def cmdTimeline (port : Nat) (ws : List Quad) : Option Nat :=
  let w := pw ws 0
  let code := w.toNat % 256
  match port with
  | 12 => match fld w 61 60 with | 1 => some 2 | 2 => some 3 | _ => none
  | 13 => if code = 0x0C then some (if bit w 8 then 1 else 0) else match fld w 31 30 with | 1 => some 0 | 2 => some 1 | _ => none
  | 14 => if code = 0x0C ∨ (code ≠ 0x03 ∧ bit w 15) then some 4 else none
  | 15 => if code = 0x0C ∨ bit w 15 then some 5 else none
  | 16 => some 6
  | 17 => if code = 0x0C then some 7 else none
  | _ => none

/-- A command's trap flag (R195, R200, R208, R215, R230, R406). -/
def cmdTrapf (port : Nat) (ws : List Quad) : Bool :=
  let w := pw ws 0
  let code := w.toNat % 256
  match port with
  | 8 | 9 | 10 | 11 => code ≠ 0x06 && bit w 16
  | 12 => bit w 59
  | 13 => code = 0x01 && bit w 32
  | 14 => (code = 0x01 || code = 0x02) && bit w 16
  | 15 => (code = 0x01 || code = 0x02) && bit w 16
  | 16 => code = 0x01 && bit w 10
  | _ => false

/-- What a `send.sig` needs to know of a code: its class. -/
def signalClass (port code : Nat) : Bool := ((cmdRow port code).map (·.sig)).getD false

end Sys2Proof.Machine
end

