-- ==== Sys2Proof/Machine/Control.lean ====
section
/-! DEFINITION. The control element's own instructions and the commands it and the elements send: branches and loops
(R171, R172), the sys group (R173 to R184), send and sendw (R44, R167, R189), cfg and sbind (R185 to R188). -/

namespace Sys2Proof.Machine

open Sys2Proof

/-- The address or slot of the instruction being run. -/
def hereOf (s : State) : Nat := match s.actor with | .unit _ slot _ => slot | _ => 0
/-- The unit that runs it. -/
def unitOf (s : State) : UnitId := match s.actor with | .unit u _ _ => u | _ => ⟨0, ceIx⟩

/-- A word offset from an address, modulo 2^32. -/
def branchTo (pc : Nat) (off : Int) : Nat := (((pc : Int) + 4 * off) % 2 ^ 32).toNat

/-- The PC that an operand gives: bits 1:0 of a PC read as zero (R25). -/
def pcOf (v : Quad) : Nat := v.toNat % 2 ^ 32 / 4 * 4

/-- Where a result that is read at V goes: any destination of R35. -/
def sinkOf (e : Elem) (ticket : Nat) (d : Dst) (tag : BitVec 3) : Sink :=
  match d with
  | .d n => .d n
  | .out c => .out c ticket tag
  | .ls n => .lane (laneOff e n)
  | .nul => .nul

/-! ## Branches (R171, R172) -/

def execBr (off : BitVec 19) (s : State) : Outcome :=
  fire s (.br off) 1 fun _ _ => .ok { acts := [.jump (branchTo (hereOf s) off.toInt)] }

def execLoop (d : Fin 16) (i : BitVec 9) (s : State) : Outcome :=
  fire s (.loop d i) 1 fun e _ =>
    let v := e.dreg d
    let c := lo64 v
    if c = 0 then .ok { acts := [] }
    else
      let pc := hereOf s
      .ok { acts := [.d d (.ofNat 128 (v.toNat - 1)), .jump (if c ≠ 1 then branchTo pc i.toInt else pc + 4)] }

/-! ## sys (R173 to R184) -/

def execSysCall (d : Fin 16) (a : Src) (s : State) : Outcome :=
  fire s (.sysCall d a) 1 fun e _ =>
    .ok { acts := [.d d (.ofNat 128 (hereOf s + 4)), .jump (pcOf (readSrc e s.cycle a))] }

def execSysRet (a : Src) (s : State) : Outcome :=
  fire s (.sysRet a) 1 fun e _ => .ok { acts := [.jump (pcOf (readSrc e s.cycle a))] }

def execSysTrap (k : Fin 16) (s : State) : Outcome := fire s (.sysTrap k) 1 fun _ _ => .error (0x330 + k.val, 0)

def execSysEret (s : State) : Outcome :=
  fire s .sysEret 1 fun _ _ =>
    if (getCtl s (unitOf s).core).hnd then .ok { acts := [.sys .eret] } else .error (0x300, 0)

/-- Element e and register j of an element-state number (R179). -/
def elementReg (n : Nat) : Option (Nat × Nat) :=
  if 0x1000 ≤ n ∧ n < 0x2000 ∧ n % 64 < 4 then some ((n - 0x1000) / 64, n % 64) else none

/-- The register numbers of R179. -/
def sysRegKnown (n : Nat) : Bool := n ≤ 0x0C || n = 0x10 || n = 0x11 || (elementReg n).isSome

/-- Registers with no writable field: ECAUSE, PSB, CORENUM, CYCLE, SCSTR, SCCNT, SCBASE and ESTAT (R179). -/
def sysRegReadOnly (n : Nat) : Bool :=
  n = 3 || n = 6 || n = 7 || n = 8 || n = 0xA || n = 0xB || n = 0xC || (match elementReg n with | some (_, j) => j = 3 | none => false)

/-- PSB (R179, R187). -/
def psbWord (c : Core) : Nat := (List.range 17).foldl (fun w i => if c.psbBusy i then w + 2 ^ i else w) 0

/-- Bits of the clone and fold controls that read 0 where REWIRE is not accepted (R432). -/
def rewireOff (s : State) (mask : Nat) (v : Dword) : Dword := if feature s 6 then v else v &&& ~~~(dword mask)

def clenMask : Nat := 2 ^ 63
def fdenMask : Nat := 2 ^ 63 + 2 ^ 62

/-- A system register's value (R179). -/
def readSysReg (s : State) (core n : Nat) : Dword :=
  let c := getCore s core
  let x := c.ctl
  let p : Partition := tget {} s.parts (partOf s core)
  match elementReg n with
  | some (el, j) =>
    let e := getElem s ⟨core, el⟩
    (match j with | 0 => e.fpctl | 1 => e.fpflg | 2 => e.srstate | _ => e.estat).setWidth 64
  | none =>
    match n with
    | 0 => dword (x.hnd.toNat + 2 * x.msk.toNat)
    | 1 => x.tvec.setWidth 64
    | 2 => x.epc.setWidth 64
    | 3 => x.ecause
    | 4 => x.trbase.setWidth 64
    | 5 => dword x.eres.toNat
    | 6 => dword (psbWord c)
    | 7 => dword (partOf s core * 2 ^ 16 + core)
    | 8 => dword s.cycle
    | 9 => x.sccur
    | 0xA => x.scstr
    | 0xB => x.sccnt
    | 0xC => x.scbase
    | 0x10 => rewireOff s clenMask p.clctl
    | 0x11 => rewireOff s fdenMask p.fdctl
    | _ => 0

/-- One field of a register written when its new value is allowed (R353, R354). -/
def putField (old new : Dword) (hi lo : Nat) (ok : Nat → Bool) : Dword :=
  let f (v : Dword) : Nat := v.toNat / 2 ^ lo % 2 ^ (hi + 1 - lo)
  if ok (f new) then dword (old.toNat - f old * 2 ^ lo + f new * 2 ^ lo) else old

def within (lo hi : Nat) : Nat → Bool := fun v => lo ≤ v && v ≤ hi

/-- A write of CLCTL (R353). -/
def writeClctl (on : Bool) (old v : Dword) : Dword :=
  let o := if on then putField old v 63 63 (fun _ => true) else old
  let o := putField o v 59 56 (within 2 8)
  let o := putField o v 53 47 (within 1 64)
  let o := putField o v 46 39 (within 1 255)
  let o := putField o v 38 26 (within 1 4096)
  putField o v 25 13 (within 1 4096)

/-- A write of FDCTL (R354). -/
def writeFdctl (on : Bool) (old v : Dword) : Dword :=
  let o := if on then putField (putField old v 63 63 (fun _ => true)) v 62 62 (fun _ => true) else old
  let o := putField o v 46 39 (within 1 255)
  putField o v 25 13 (within 1 4096)

/-- A syswr's effect at its V (R179, R180). -/
def writeSysReg (s : State) (core n : Nat) (v : Dword) : State :=
  let x := getCtl s core
  let w : Word := v.setWidth 32
  let set (f : Elem → Elem) (el : Nat) : State := setElem s ⟨core, el⟩ (f (getElem s ⟨core, el⟩))
  let part (f : Partition → Partition) : State :=
    { s with parts := tput s.parts (partOf s core) (f (tget {} s.parts (partOf s core))) }
  match elementReg n with
  | some (el, j) =>
    match j with
    | 0 => set (writeFpctl · w) el
    | 1 => set (writeFpflg · w) el
    | 2 => set (writeSrstate · w) el
    | _ => s
  | none =>
    match n with
    | 0 => setCtl s core { x with msk := v.getLsbD 1 }
    | 1 => setCtl s core { x with tvec := w &&& 0xFFFFFFFC }
    | 2 => setCtl s core { x with epc := w &&& 0xFFFFFFFC }
    | 4 => setCtl s core { x with trbase := w &&& 0xFFFFFFC0 }
    | 5 => setCtl s core { x with eres := v.getLsbD 0 }
    | 9 => setCtl s core { x with sccur := dword (v.toNat % 2 ^ 32) }
    | 0x10 => part fun p => { p with clctl := writeClctl (feature s 6) p.clctl v }
    | 0x11 => part fun p => { p with fdctl := writeFdctl (feature s 6) p.fdctl v }
    | _ => s

/-- Element state is read at the firing, every other register at V (R179, R180). -/
def execSysSysrd (d : Dst) (a : Src) (s : State) : Outcome :=
  fire s (.sysSysrd d a) 2 fun e ticket =>
    let n := (readSrc e s.cycle a).toNat % 2 ^ 16
    let tag := tagOf e s.cycle a
    if !sysRegKnown n then .error (0x301, 0)
    else if (elementReg n).isSome then
      .ok { acts := dstActs e ticket d tag ((readSysReg s (unitOf s).core n).setWidth 128) }
    else .ok { acts := [.sysread (.ofNat 16 n) (sinkOf e ticket d tag)] }

def execSysSyswr (a b : Src) (s : State) : Outcome :=
  fire s (.sysSyswr a b) 2 fun e _ =>
    let n := (readSrc e s.cycle a).toNat % 2 ^ 16
    if !sysRegKnown n then .error (0x301, 0)
    else if sysRegReadOnly n then .error (0x302, 0)
    else .ok { acts := [.sys (.write (.ofNat 16 n) ((readSrc e s.cycle b).setWidth 64))] }

/-- sys.sleep: from its firing on the control element waits; the wake word is its result (R181). -/
def execSysSleep (d : Dst) (a b : Src) (s : State) : Outcome :=
  fire s (.sysSleep d a b) 1 fun e ticket =>
    let n := lo64 (readSrc e s.cycle b)
    .ok { acts := [], keepD := Dst.bits d,
          sleep := some { mask := (readSrc e s.cycle a).setWidth 4, limit := if n = 0 then none else some (s.cycle + n),
                          seen := 0, sink := sinkOf e ticket d (tagOf e s.cycle a), since := s.cycle } }

/-- SCCUR as the scnext forms fired before leave it, those not yet visible counted: two in a row take entries SCSTR apart (R182). -/
def cursorNow (e : Elem) (x : Ctl) : Nat :=
  (x.sccur.toNat + x.scstr.toNat * (e.flights.filter fun f => f.acts.contains .cursorStep).length) % 2 ^ 32

/-- sys.scnext (R182): an exhausted schedule writes no register and leaves none pending. -/
def execSysScnext (d : Fin 15) (p : Fin 8) (s : State) : Outcome :=
  let both := dbit d ||| dbit (d.val + 1)
  fire s (.sysScnext d p) 1 fun e _ =>
    let x := getCtl s (unitOf s).core
    let cur := cursorNow e x
    if cur ≥ x.sccnt.toNat then .ok { acts := [.p (predBit p) 0], spare := both }
    else
      let a := (x.scbase.toNat + 32 * cur) % 2 ^ 64
      match addrChecks 16 [a] with
      | some f => .error f
      | none =>
        .ok { acts := [.mem { op := .load, reuse := .normal, words := [(0, a, 16, 0, 0), (1, a + 16, 16, 0, 0)], lanes := 2,
                              sink := .pair d, cursor := true },
                       .cursorStep, .p (predBit p) (predBit p)],
              keepD := both }

/-- sys.rewire (R183, R367). -/
def execSysRewire (d : Fin 16) (a : Src) (s : State) : Outcome :=
  fire s (.sysRewire d a) 1 fun e _ =>
    match addrChecks 64 [lo64 (readSrc e s.cycle a)] with
    | some f => .error f
    | none => .ok { acts := [.rewire ((readSrc e s.cycle a).setWidth 64) (.d d)], keepD := dbit d }

/-- The launch whose instance has a handle in a core's partition (R369); the handle 0 names that of the launch that holds
the core (R371). -/
def findInstance (s : State) (core handle : Nat) : Option Nat :=
  if handle = 0 then (getCore s core).launch
  else (s.launches.find? fun l => l.2.inst = handle && l.2.part = partOf s core && l.2.placed &&
    l.2.stage ≠ .complete && l.2.stage ≠ .failed).map (·.1)

/-- Version and BUSY (R184). -/
def layoutWord (s : State) (l : Nat) : Quad :=
  let x : Launch := tget {} s.launches l
  .ofNat 128 (x.version.toNat + (match x.rewire with | some r => if r.gated then 2 ^ 32 else 0 | none => 0))

/-- sys.layoutv (R184). -/
def execSysLayoutv (d : Dst) (a : Src) (s : State) : Outcome :=
  fire s (.sysLayoutv d a) 2 fun e ticket =>
    match findInstance s (unitOf s).core ((readSrc e s.cycle a).toNat % 2 ^ 32) with
    | none => .error (0x309, 0)
    | some l => .ok { acts := [.layoutv l (sinkOf e ticket d (tagOf e s.cycle a))] }

/-! ## Commands (R44, R167, R189) -/

/-- The packet of a K-format instruction (R44). -/
def packetOf (e : Elem) (a : Fin 16) (len : Nat) : List Quad := (List.range (len + 1)).map fun i => e.dreg (a.val + i)

/-- A command for a queue. -/
def newCmd (s : State) (u : UnitId) (slot : Nat) (ws : List Quad) (sig : Bool) (creg : Option (Fin 16)) : Cmd :=
  { unit := u.ix, slot := slot, packet := ws, sig := sig, creg := creg, pts := (getCore s u.core).clock }

/-- The places of a walk's program and reply lines, as its firing finds them (R215). -/
def walkPlaces (s : State) (core port : Nat) (ws : List Quad) : List Place :=
  if port = 16 ∧ fld (pw ws 0) 7 0 = 1 then
    ((walkRoutes s core (walkCmd ws)).getD []).map fun r => { home := r.home, pa := r.pa, inc := r.inc, win := r.win.map fun k => (r.port, k) }
  else []

/-- send and sendw at firing: static faults first, then RESUME and ABORT, then the queue. A non-blocking form that its queue's round robin
passes over in its cycle counts as refused, as at a full queue (DESIGN CHOICE, log entry 43). -/
def sendCommand (s : State) (u : UnitId) (e : Elem) (port : Fin 20) (a : Fin 16) (len : Fin 8) (sig : Bool)
    (creg : Option (Fin 16)) (pred : Option (Fin 8)) (nb : Bool) : Firing :=
  let ws := packetOf e a len
  let set (ok : Bool) : List Act := match pred with | some p => [.p (predBit p) (if ok then predBit p else 0)] | none => []
  let word (v : Quad) : List Act := match creg with | some c => [.d c v] | none => []
  match staticFault s u.core port (.send (isCe u) creg.isSome) sig ws with
  | some c => .error (c, 0)
  | none =>
    if noEntry port (pw ws 0) then .ok { acts := word 0 ++ set true, events := [readCommand u.core port ws] }
    else if ((getCore s u.core).queue port).hasRoom sig ∧ (!nb ∨ arbiter s u.core port u.ix) then
      .ok { acts := .command port { newCmd s u (hereOf s) ws sig creg with pas := walkPlaces s u.core port ws } :: set true,
            keepD := match creg with | some c => dbit c | none => 0 }
    else if nb then .ok { acts := word (completionWord 0 0 0 0x306) ++ set false }
    else .error (0x305, 0)

def execSend (port : Fin 20) (a : Fin 16) (len : Fin 8) (sig : Bool) (nb : Option (Fin 8)) (s : State) : Outcome :=
  fire s (.send port a len sig nb) 1 fun e _ => sendCommand s (unitOf s) e port a len sig none nb nb.isSome

def execSendw (port : Fin 20) (a : Fin 16) (len : Fin 8) (sig nb : Bool) (c : Fin 16) (s : State) : Outcome :=
  fire s (.sendw port a len sig nb c) 1 fun e _ => sendCommand s (unitOf s) e port a len sig (some c) none nb

/-! ## cfg and sbind (R185 to R188) -/

/-- A configuration command that its check lets through joins its queue, and marks the scoreboard at V. -/
def configure (s : State) (e : Elem) (port : Nat) (ws : List Quad) (c : Fin 16) (fault : Option Cause) : Firing :=
  let u := unitOf s
  match fault with
  | some x => .error (x, 0)
  | none =>
    if port ≠ configPort ∧ !((getCore s u.core).queue port).hasRoom false then .error (0x305, 0)
    else .ok { acts := [.command port { newCmd s u (hereOf s) ws false (some c) with conf := true }], keepD := dbit c }

def execCfgEng (port : Fin 16) (a : Fin 16) (len : Fin 8) (c : Fin 16) (s : State) : Outcome :=
  fire s (.cfgEng port a len c) 1 fun e _ =>
    let ws := packetOf e a len
    configure s e port ws c (staticFault s (unitOf s).core port .cfg false ws)

/-- A fabric packet outside R186. -/
def fabricBad (ws : List Quad) : Bool :=
  let w := pw ws 0
  let v := pw ws 1
  ws.length ≠ 2 || (fld w 7 0 ≠ 1 && fld w 7 0 ≠ 2) || fld w 63 8 ≠ 0 || fld w 127 64 = 0 || fld v 127 64 ≠ 0
    || (fld w 7 0 = 2 && fld v 63 0 ≠ 0)

/-- A phase packet outside R186. -/
def phaseBad (ws : List Quad) : Bool :=
  let w := pw ws 0
  ws.length ≠ 1 || fld w 7 0 ≠ 1 || fld w 24 8 = 0 || fld w 127 25 ≠ 0

def execCfgFab (a : Fin 16) (len : Fin 8) (c : Fin 16) (s : State) : Outcome :=
  fire s (.cfgFab a len c) 1 fun e _ =>
    let ws := packetOf e a len
    configure s e configPort ws c (if fabricBad ws then some 0x309 else none)

def execCfgPhase (a : Fin 16) (len : Fin 8) (c : Fin 16) (s : State) : Outcome :=
  fire s (.cfgPhase a len c) 1 fun e _ =>
    let ws := packetOf e a len
    configure s e configPort ws c (if phaseBad ws then some 0x309 else none)

/-- The pattern that a core's sbind names, where it is this engine's and this core's image's (R188, R341). -/
def boundPattern (s : State) (core se pat : Nat) : Option Pattern :=
  let c := getCore s core
  match c.launch with
  | none => none
  | some l =>
    let o := (tget {} s.launches l : Launch).object
    match c.streams[pat]?.map (patternAt · 0) with
    | some p => if p.se = se ∧ p.core = c.image % max 1 (imageCores o) then some p else none
    | none => none

/-- The faults of sbind (R188). -/
def sbindFault (s : State) (core se : Nat) (ws : List Quad) : Option Cause :=
  let w := pw ws 0
  lowestCause
    [(ws.length ≠ 1 || fld w 63 32 ≠ 0 || fld w 15 8 ≠ 0 || fld w 7 0 ≠ 1, 0x309),
     ((boundPattern s core se (fld w 31 16)).isNone, 0x308), ((attached s core se).isNone, 0x206)]

def execSbind (se : Fin 8) (a : Fin 16) (len : Fin 8) (c : Fin 16) (s : State) : Outcome :=
  fire s (.sbind se a len c) 1 fun e _ =>
    let ws := packetOf e a len
    configure s e se ws c (sbindFault s (unitOf s).core se ws)

end Sys2Proof.Machine
end

