-- ==== Sys2Proof/Machine/Edges.lean ====
section
/-! DEFINITION. Tokens on their way: edges within and between cores (R7, R12, R169, R441), engine outputs, host ingress
and egress (R318, R426, R427), and the overflow rings. -/

namespace Sys2Proof.Machine

open Sys2Proof

def setEdge (s : State) (src : Endpoint) (f : Edge → Edge) : State :=
  { s with edges := s.edges.map fun e => if e.src = src then f e else e }

def findEdge (s : State) (src : Endpoint) : Option Edge := s.edges.find? fun e => e.src = src

/-- Whether an edge joins elements of two cores (R169). -/
def Edge.crossCore (e : Edge) : Bool :=
  match e.src, e.dst with
  | .elem a _ _, .elem b _ _ => a ≠ b
  | _, _ => false

/-- Cycles from a token's leaving its sender to its visibility (R7, R12). -/
def Edge.latency (e : Edge) : Nat :=
  match e.src, e.dst with
  | .elem a x _, .elem b y _ =>
    if a = b then max 1 (((x / 8 : Int) - y / 8).natAbs + ((x % 8 : Int) - (y % 8 : Nat)).natAbs)
    else if a / 16 = b / 16 then 14
    else 30 + 12 * hops (routerOfCore a) (routerOfCore b)
  | _, _ => 1

/-- Whether the receiving input channel has room: an element that is not configured accepts nothing. -/
def inputRoom (s : State) (core el : Nat) (ch : Fin 4) : Bool :=
  let e := getElem s ⟨core, el⟩
  e.run ≠ 0 && (e.inCh ch).room s.cycle

/-- A token enters an input channel, to be seen from a number of cycles later on; a token between cores raises the
receiving core's clock (R312). -/
def enterInput (s : State) (core el : Nat) (ch : Fin 4) (t : Token) (lat : Nat) (ts : Stamp) : State :=
  let u : UnitId := ⟨core, el⟩
  let e := getElem s u
  let c := e.inCh ch
  raiseClock (setElem s u (e.setIn ch { c with q := c.q ++ [⟨t, s.cycle + lat⟩] })) core ts

/-- The head of an output channel leaves it. -/
def popOut (s : State) (u : UnitId) (ch : Fin 4) : State :=
  let e := getElem s u
  let c := e.outCh ch
  setElem s u (e.setOut ch { c with q := c.q.tail, left := c.left + 1, freedAt := s.cycle,
                                    freedN := (if c.freedAt = s.cycle then c.freedN else 0) + 1 })

/-- The head token of an output channel that may leave now. -/
def outHead (s : State) (u : UnitId) (ch : Fin 4) : Option (Token × OutPos) :=
  match ((getElem s u).outCh ch).q with
  | p :: _ => match p.tok with
    | some t => if p.since ≤ s.cycle then some (t, p) else none
    | none => none
  | [] => none

/-! ## The egress ring (R427) -/

def Partition.ringRoom (p : Partition) : Bool :=
  match p.ring with
  | some (_, k) => p.ringSeq - p.ringFreed < 2 ^ k
  | none => false

/-- An entry: payload, tag, sink, and last the sequence number. -/
def ringEntry (t : Token) (sink seq : Nat) : List Byte :=
  leBytes 16 t.payload.toNat ++ [.ofNat 8 t.tag.toNat, .ofNat 8 sink] ++ List.replicate 6 0 ++ leBytes 8 seq

/-- Writes an egress token into its partition's ring. -/
def writeRing (s : State) (part sink : Nat) (t : Token) : State :=
  let p : Partition := tget {} s.parts part
  match p.ring with
  | some (base, k) =>
    let mem := Memory.writeN s.mem (base + 32 * (p.ringSeq % 2 ^ k)) (ringEntry t sink (p.ringSeq + 1))
    { s with mem := mem, parts := tput s.parts part { p with ringSeq := p.ringSeq + 1 } }
  | none => s

/-- Every update that a launch's cores had accepted by a cycle is acknowledged (R318). -/
def writesDone (s : State) (core since : Nat) : Bool :=
  let l := (getCore s core).launch
  !(s.reqs.any fun r => r.2.update && r.2.born ≤ since && (getCore s r.2.core).launch = l)

/-! ## Element outputs -/

/-- Counts a token that has entered its receiving channel (R352). -/
def countToken (s : State) (src : Endpoint) : State := setEdge s src fun e => { e with tok := e.tok + 1 }

/-- The overflow notice in the receiving element's entry (R169). -/
def ringFull (s : State) (core el : Nat) (ch : Fin 4) : State :=
  raiseTrap s core { kind := 1, src := el, cause := 0x104, detail := .ofNat 128 ch.val }

/-- The receiver's channel takes the oldest token of its overflow ring that has reached it; the token raises the receiving
core's clock (R169, R312). -/
def takeRing (s : State) (e : Edge) (core el : Nat) (ch : Fin 4) : State × Bool :=
  let u : UnitId := ⟨core, el⟩
  let x := getElem s u
  let c := x.inCh ch
  match c.ring with
  | t :: ts =>
    if t.at_ ≤ s.cycle ∧ inputRoom s core el ch then
      let s := enterInput (setElem s u (x.setIn ch { c with ring := ts })) core el ch t.tok 1 t.ts
      (setEdge (countToken s e.src) e.src fun e => { e with noticed := false }, true)
    else (s, false)
  | [] => (s, false)

/-- One of the 64 places of a ring: payload, tag and padding (R169). -/
def spillBytes (t : Token) : List Byte := leBytes 16 t.payload.toNat ++ .ofNat 8 t.tag.toNat :: List.replicate 15 0

/-- A token goes to the receiver's overflow ring, over the path of its edge; its 32 bytes stand in the ring's space (R169). -/
def spillToken (s : State) (e : Edge) (core el : Nat) (ch : Fin 4) (t : Token) (ts : Stamp) : State :=
  let x := getElem s ⟨core, el⟩
  let c := x.inCh ch
  let s := setElem s ⟨core, el⟩ (x.setIn ch { c with ring := c.ring ++ [⟨t, ts, s.cycle + e.latency⟩] })
  let s := if e.ringAt = 0 then s else { s with mem := Memory.writeN s.mem (e.ringAt + 32 * (e.spilled % 64)) (spillBytes t) }
  setEdge s e.src fun e => { e with spilled := e.spilled + 1 }

/-- A token of an element's output moves along its edge, or into the receiver's overflow ring (R12, R169). -/
def moveToken (s : State) (e : Edge) (u : UnitId) (out : Fin 4) : State :=
  match e.dst with
  | .elem core el ch =>
    let (s, moved) := if e.spill then takeRing s e core el ch else (s, false)
    let ringEmpty := ((getElem s ⟨core, el⟩).inCh ch).ring.isEmpty
    let s := if e.spill ∧ ringEmpty then setEdge s e.src fun e => { e with spill := false } else s
    match outHead s u out with
    | none => s
    | some (t, p) =>
      if e.spill ∧ !ringEmpty then
        let x := getElem s ⟨core, el⟩
        let c := x.inCh ch
        if c.ring.length < 64 then
          setEdge (popOut (spillToken s e core el ch t p.ts) u out) e.src fun e => { e with blocked := none }
        else if e.noticed then s
        else setEdge (ringFull s core el ch) e.src fun e => { e with noticed := true }
      else if moved then s
      else if inputRoom s core el ch then
        let s := enterInput (popOut s u out) core el ch t e.latency (if e.crossCore then p.ts else (getCore s core).clock)
        setEdge (countToken s e.src) e.src fun e => { e with blocked := none }
      else s
  | .egress part sink =>
    match outHead s u out with
    | some (t, p) =>
      if (tget {} s.parts part : Partition).ringRoom ∧ writesDone s u.core p.since then popOut (writeRing s part sink t) u out else s
    | none => s
  | _ => s

/-- The first token into an overflow ring opens spill mode (R169). -/
def startSpill (s : State) (e : Edge) : State :=
  match e.src, e.dst with
  | .elem k x out, .elem core el ch =>
    let u : UnitId := ⟨k, x⟩
    let o : Fin 4 := Fin.ofNat 4 out
    match outHead s u o with
    | some (t, p) =>
      let y := getElem s ⟨core, el⟩
      let c := y.inCh ch
      if y.run ≠ 0 ∧ c.ring.length < 64 then
        setEdge (popOut (spillToken s e core el ch t p.ts) u o) e.src fun e => { e with blocked := none, spill := true }
      else s
    | none => s
  | _, _ => s

/-- SPILL_TIMEOUT (R169): the head of an edge between cores has been held for 1,024 cycles for want of a free position. -/
def execSpillTimeout (src : Endpoint) (s : State) : Outcome :=
  match findEdge s src with
  | some e =>
    let due : Bool := match e.blocked with | some c => c + 1024 ≤ s.cycle | none => false
    .next (if e.crossCore && !e.spill && !e.gated && due then startSpill s e else s)
  | none => .next s

/-- Whether an edge's sender has a head token that its receiver has no room for. -/
def headBlocked (s : State) (e : Edge) : Bool :=
  match e.src, e.dst with
  | .elem k x out, .elem core el ch => (outHead s ⟨k, x⟩ (Fin.ofNat 4 out)).isSome && !inputRoom s core el ch
  | _, _ => false

/-- Edges count from when their heads have been blocked. -/
def watchEdges (s : State) : State :=
  { s with edges := s.edges.map fun e =>
      { e with blocked := if headBlocked s e ∧ !e.gated then (e.blocked <|> some s.cycle) else none } }

/-! ## Host ingress (R318, R426) -/

/-- A doorbell token enters the graph when the link's earlier writes have been performed, with the largest of their timestamps. -/
def ingressToken (s : State) (e : Edge) (part source : Nat) : State :=
  let p : Partition := tget {} s.parts part
  let d : Doorbell := tget {} p.doorbells source
  match d.toks, e.dst with
  | t :: ts, .elem core el ch =>
    if hostDone s t.after ∧ inputRoom s core el ch then
      let s := { s with parts := tput s.parts part { p with doorbells := tput p.doorbells source { d with toks := ts } } }
      countToken (enterInput s core el ch t.tok 1 t.ts) e.src
    else s
  | _, _ => s

end Sys2Proof.Machine
end

