-- ==== Sys2Proof/Machine/Engines.lean ====
section
/-! DEFINITION. What the engines share: their accesses to memory (R194, R195, R299), their queues and timelines (R164,
R167, R193), completion (R22, R23), stops, RESUME and ABORT (R195), and SIGNAL (R193). -/

namespace Sys2Proof.Machine

open Sys2Proof

/-! ## Queues -/

def getEng (s : State) (core port : Nat) : Engine := tget { pts := (getCore s core).clock } (getCore s core).engines port
def setEng (s : State) (core port : Nat) (e : Engine) : State :=
  let c := getCore s core
  setCore s core { c with engines := tput c.engines port e }

/-- The command at the head of a queue. -/
def headCmd (s : State) (core port : Nat) : Option Cmd := ((getCore s core).queue port).q.head?

/-- The head command leaves its queue. -/
def dropHead (s : State) (core port : Nat) : State :=
  let c := getCore s core
  let q := c.queue port
  setCore s core (c.setQueue port { q with q := q.q.tail })

/-- The scoreboard bit that a command holds (R187): a phase command holds none. -/
def cmdPsb (port : Nat) (m : Cmd) : Option Nat :=
  if m.conf then cmdBit port m.packet else none

/-- A command joins its queue's order and takes its number (R164, R167). -/
def joinQueue (s : State) (core port : Nat) (m : Cmd) (entry : Bool) : State :=
  let c := getCore s core
  let q := c.queue port
  let (n, c) : Dword × Core := match (if m.bad.isSome then none else cmdTimeline port m.packet) with
    | some k =>
      let n := tget 0 c.tlNext k + 1
      (n, { c with tlNext := tput c.tlNext k n })
    | none => (0, c)
  let m := { m with tlNum := n, joined := s.cycle }
  let c := c.setQueue port { q with q := q.q ++ [m], taken := if entry then q.taken - 1 else q.taken }
  let c := match cmdPsb port m with | some b => { c with psb := tput c.psb b (tget 0 c.psb b + 1) } | none => c
  setCore s core c

/-! ## Completion (R22, R23) -/

/-- A completion sets out for its register. -/
def sendCompletion (s : State) (core port : Nat) (m : Cmd) (esp count cause : Nat) (ts : Stamp) (due : Nat) : State :=
  let c := getCore s core
  let k : Completion :=
    { unit := m.unit, reg := m.creg, word := completionWord m.tlNum esp count cause, tl := cmdTimeline port m.packet,
      num := m.tlNum, ts := ts, due := due, psb := cmdPsb port m, trapf := cmdTrapf port m.packet }
  setCore s core { c with comps := tput c.comps port (tget [] c.comps port ++ [k]) }

/-- The head command ends: it leaves the queue, and its completion sets out. -/
def finishCmd (s : State) (core port : Nat) (esp count cause : Nat) (ts : Stamp) (after : Nat) : State :=
  match headCmd s core port with
  | some m => sendCompletion (dropHead s core port) core port m esp count cause ts (s.cycle + after)
  | none => s

/-- A register command's completion word, in its register. -/
def writeCompletion (s : State) (core : Nat) (k : Completion) : State :=
  match k.reg with
  | some r => writeSink s (unitAt core k.unit) (.d r) k.word
  | none => s

def clearPsb (s : State) (core : Nat) : Option Nat → State
  | some b =>
    let c := getCore s core
    setCore s core { c with psb := tput c.psb b (tget 0 c.psb b - 1) }
  | none => s

/-- An engine or port raises a cause to its core's control element (R195). -/
def raisePort (s : State) (core port : Nat) (cause : Cause) (addr : Dword) (detail : Quad) : State :=
  raiseTrap s core { kind := 2, src := port, cause := cause, addr := addr, detail := detail }

/-- ENGINE_COMPLETION (R16, R22, R23, R164, R187, R195, R312): the oldest completion of a port arrives. -/
def execEngineCompletion (core port : Nat) (s : State) : Outcome :=
  let c := getCore s core
  match tget [] c.comps port with
  | k :: rest =>
    if k.due ≤ s.cycle then
      let s := setCore s core { c with comps := tput c.comps port rest }
      let s := writeCompletion (raiseClock s core k.ts) core k
      let s := match k.tl with | some t => finishTl s core t k.num | none => s
      let s := clearPsb s core k.psb
      .next (if k.trapf ∧ k.word.toNat % 1024 ≠ 0 then raisePort s core port (k.word.toNat % 1024) 0 0 else s)
    else .next s
  | [] => .next s

/-! ## Memory accesses of an engine (R194, R195, R199) -/

/-- The minimum timestamp of an engine's request (R312): the clock of its core, and what the command has read. -/
def engPts (s : State) (core port : Nat) : Stamp := tsMax (getCore s core).clock (getEng s core port).pts

def engSaw (s : State) (core port : Nat) (ts : Stamp) : State :=
  let e := getEng s core port
  setEng s core port { e with pts := tsMax e.pts ts }

/-- The reads that an engine has issued. -/
def fetchesOf (s : State) (core port : Nat) : List Fetch := tget [] (getCore s core).fetches port
def setFetches (s : State) (core port : Nat) (fs : List Fetch) : State :=
  let c := getCore s core
  setCore s core { c with fetches := tput c.fetches port fs }

/-- The first read of n bytes at an address in a list, and the list without it. -/
def takeFetch : List Fetch → Nat → Nat → Option (FetchAns × List Fetch)
  | [], _, _ => none
  | f :: fs, va, n => if f.va = va ∧ f.n = n then some (f.ans, fs) else (takeFetch fs va n).map fun x => (x.1, f :: x.2)

/-- An engine reads n bytes: the read that it has issued for them, once it is answered. -/
def engRead (s : State) (core port va n : Nat) (rc : Reuse) : State × Except EngFault (List Byte) :=
  match takeFetch (fetchesOf s core port) va n with
  | none => (s, .error (.ask va n rc))
  | some (.waiting, _) => (s, .error .wait)
  | some (.got bs ts, fs) => (engSaw (setFetches s core port fs) core port ts, .ok (bs.take n))
  | some (.fault f, fs) => (setFetches s core port fs, .error f)

/-- A request of an engine, before its access: reads are answered in its list, writes are counted by their port (R153). -/
def engReq (s : State) (core port : Nat) (op : MemOp) (rc : Reuse) : Req :=
  { core := core, unit := engUnit port, slot := 0, op := op, posted := op ≠ .load, reuse := rc, noalloc := false, laneBits := 128,
    sink := if op = .load then .engine else .nul, parts := [], pts := engPts s core port, update := op ≠ .load, born := s.cycle }

/-- An engine issues a read. A fault of its translation stands in its list, and is met when the engine comes to it (R199). -/
def engAsk (s : State) (core port va n : Nat) (rc : Reuse) : State :=
  let put (s : State) (f : Fetch) : State := setFetches s core port (fetchesOf s core port ++ [f])
  match lookUp s core va n .read with
  | .fault _ c => put s { va := va, n := n, ans := .fault (engFault c va false) }
  | .ok r =>
    let id := s.nextReq
    let (s, p) := sendPart s core (20 + port) 0 va n 0 0 .read rc false (walkCycles s core va .read) r
    put { setReq s id { engReq s core port .load rc with parts := [p] } with nextReq := id + 1 } { va := va, n := n, req := id, ans := .waiting }

/-- Issues, of the reads that lie ahead of an engine, those that it has not issued, while fewer than `most` stand in its list. -/
def runAhead (core port most : Nat) : List (Nat × Nat × Reuse) → List Fetch → State → State
  | [], _, s => s
  | (va, n, rc) :: rs, old, s =>
    match takeFetch old va n with
    | some (_, rest) => runAhead core port most rs rest s
    | none => if (fetchesOf s core port).length < most then runAhead core port most rs old (engAsk s core port va n rc) else s

def engAhead (s : State) (core port : Nat) (rs : List (Nat × Nat × Reuse)) : State := runAhead core port 64 rs (fetchesOf s core port) s

/-- Why a list of writes cannot all be issued: the first that faults (R195). -/
def writesFault (s : State) (core : Nat) : List (Nat × List Byte) → Option EngFault
  | [] => none
  | (va, bs) :: ws =>
    match lookUp s core va bs.length .write with
    | .fault _ c => some (engFault c va true)
    | .ok _ => writesFault s core ws

/-- An engine issues a write whose translation does not fault; side holds the exponents of DX blocks, from byte sideAt of the line's. -/
def engStore (s : State) (core port va : Nat) (bs : List Byte) (side : List Byte := []) (sideAt : Nat := 0) : State :=
  match lookUp s core va bs.length .write with
  | .fault _ _ => s
  | .ok r =>
    let id := s.nextReq
    let (s, p) := sendPart s core (20 + port) 0 va bs.length (.ofNat 128 (leNat bs)) 0 .write .normal false (walkCycles s core va .write) r
    let c := getCore s core
    let q := c.port p.port
    let i : Issuer := tget {} q.issuers (engUnit port)
    let s := setCore s core (c.setPort p.port { q with issuers := tput q.issuers (engUnit port) { i with open_ := i.open_ + 1 } })
    { setReq s id { engReq s core port .store .normal with parts := [{ p with bulk := if bs.length > 16 then bs else [], side := side, sideAt := sideAt }] } with nextReq := id + 1 }

/-- Issues an engine's writes in order. -/
def engStores (s : State) (core port : Nat) (ws : List (Nat × List Byte)) : State := ws.foldl (fun s w => engStore s core port w.1 w.2) s

/-- An engine has updates that are not yet acknowledged. -/
def engBusy (s : State) (core port : Nat) : Bool := s.reqs.any fun r => r.2.core = core && r.2.unit = engUnit port && r.2.posted

/-- Some update of an engine was lost (R154). -/
def engLost (s : State) (core port : Nat) : Bool :=
  ([0, 1, 2, 3] : List Nat).any fun p => (tget {} ((getCore s core).port p).issuers (engUnit port) : Issuer).lost

/-- What a step of an engine's work comes to. It goes on where it has what it reads; it issues a read that it has not issued, and else waits
for the answer, as it stands; and it meets a fault once every write before it has been performed (R195). -/
def engStep {α : Type} (s : State) (core port : Nat) (r : State × Except EngFault α) (ok : State → α → State) (bad : State → EngFault → State) : State :=
  match r with
  | (t, .ok a) => ok t a
  | (_, .error .wait) => s
  | (_, .error (.ask va n rc)) => engAsk s core port va n rc
  | (_, .error f) => if engBusy s core port then s else bad s f

/-! ## Stops, RESUME and ABORT (R195) -/

/-- An engine stops on a fault: DETAIL holds the count done (R379). -/
def stopEngine (s : State) (core port : Nat) (cause : Cause) (va : Nat) : State :=
  let e := getEng s core port
  let s := setFetches (setEng s core port { e with state := 2, cause := cause, addr := .ofNat 64 va, final := none }) core port []
  raisePort s core port cause (.ofNat 64 va) (.ofNat 128 e.count)

/-- An engine is idle again. -/
def idleEngine (s : State) (core port : Nat) : State :=
  let e := getEng s core port
  let c := getCore s core
  setCore s core { c with engines := tput c.engines port { e with state := 0, cause := 0, addr := 0, count := 0, espf := 0, pos := [], pat := 0, base := 0, final := none, tail := [] },
                          engOut := tdel c.engOut port, fetches := tdel c.fetches port }

/-- The updates that a command leaves behind complete by themselves: no later command of its engine waits for them (R195). -/
def leaveUpdates (s : State) (core port : Nat) : State :=
  let s := { s with reqs := s.reqs.map fun e =>
    if e.2.core = core ∧ e.2.unit = engUnit port ∧ e.2.posted then (e.1, { e.2 with unit := leftUnit port }) else e }
  setCore s core (clearCwait (getCore s core) (engUnit port))

/-- The running command of a stream, copy, partition or intersection engine ends. -/
def endCommand (s : State) (core port : Nat) (esp count cause : Nat) : State :=
  finishCmd (leaveUpdates (idleEngine s core port) core port) core port esp count cause (getEng s core port).pts 1

/-- Cause of a command aborted while it ran (R195). -/
def abortedCause (port : Nat) : Cause := if port ≤ 7 then 0x205 else match port with | 13 => 0x218 | 14 => 0x244 | _ => 0x254

/-- RESUME (R195, R205): a stopped engine goes on from the faulting element; a faulty edge-port command is discarded. -/
def execResume (core port : Nat) (s : State) : Outcome :=
  let e := getEng s core port
  if e.state = 2 then
    match headCmd s core port with
    | some m =>
      if m.bad.isSome then .next (dropHead (idleEngine s core port) core port)
      else .next (setEng s core port { e with state := 1, cause := 0, addr := 0 })
    | none => .next s
  else .next s

/-- ABORT (R195, R205): a stopped command ends with its fault's cause, a running one with its engine's. -/
def execAbort (core port : Nat) (s : State) : Outcome :=
  let e := getEng s core port
  match headCmd s core port with
  | none => .next s
  | some m =>
    if e.state = 2 ∧ m.bad.isSome then .next (dropHead (idleEngine s core port) core port)
    else if e.state = 2 then .next (endCommand s core port (e.espf.toNat) e.count e.cause)
    else if e.state = 1 then .next (endCommand s core port (e.espf.toNat) e.count (abortedCause port))
    else .next s

/-- The core and port whose queue the command run now comes from. -/
def engineOf (s : State) : Option (Nat × Nat) := match s.actor with | .engine core port => some (core, port) | _ => none

/-- Runs a command of an engine's queue: nothing happens for one that no queue holds. -/
def runCmd (s : State) (f : Nat → Nat → Cmd → State) : Outcome :=
  match engineOf s with
  | some (core, port) =>
    match headCmd s core port with
    | some m => .next (f core port m)
    | none => .next s
  | none => .next s

/-- SIGNAL (R193): every earlier command of its engine has completed. -/
def execSignal (_tl : Fin 16) (s : State) : Outcome :=
  runCmd s fun core port _ => finishCmd s core port 0 0 0 (getEng s core port).pts 1

/-! ## Tokens of an engine -/

/-- The launch of a core has left its elements while its engines finish (R344, R345). -/
def elementsGone (s : State) (core : Nat) : Bool :=
  match (getCore s core).launch with
  | some l => let x : Launch := tget {} s.launches l; x.stage = .draining || x.stage = .failed
  | none => false

/-- Whether the input attached to an engine has room for a token now; an element that its launch has left takes every token, and
discards it (R345, log entry 22). -/
def attachRoom (s : State) (core port : Nat) : Option (Nat × Nat × Fin 4) :=
  match attached s core port with
  | some e =>
    match e.dst with
    | .elem k el ch =>
      let gone := (getElem s ⟨k, el⟩).run = 0 && elementsGone s core
      if !e.gated && (gone || inputRoom s k el ch) then some (k, el, ch) else none
    | _ => none
  | none => none

/-- Delivers a token of an engine. -/
def deliverToken (s : State) (core port : Nat) (dest : Nat × Nat × Fin 4) (t : Token) : State :=
  if (getElem s ⟨dest.1, dest.2.1⟩).run = 0 then s
  else countToken (enterInput s dest.1 dest.2.1 dest.2.2 t 1 (getEng s core port).pts) (.eng core port)

/-- Adds tokens to those an engine has yet to deliver. -/
def pushTokens (s : State) (core port : Nat) (ts : List OutTok) : State :=
  let c := getCore s core
  let o := tget {} c.engOut port
  setCore s core { c with engOut := tput c.engOut port { o with toks := o.toks ++ ts } }

/-- A copy, partition-network or intersection command whose tokens have all been delivered goes on: it ends at once where one of its updates
was lost, it stops on its fault, and it ends with its last part when its updates are acknowledged (R195, R204, R209). -/
def settleEngine (s : State) (core port : Nat) : State :=
  let e := getEng s core port
  if e.state ≠ 1 ∨ !(tget {} (getCore s core).engOut port : EngOut).toks.isEmpty then s
  else if engLost s core port then endCommand s core port e.espf.toNat e.count lostCause
  else match e.final with
    | some (n, c) => if engBusy s core port then s else endCommand s core port e.espf.toNat n c
    | none => if e.cause ≠ 0 then stopEngine s core port e.cause e.addr.toNat else s

/-! ## Stream engines (R188, R197 to R199) -/

/-- The address of an index vector (R198). -/
def walkAddr (base : Nat) (strides : List Int) (ix : List Nat) : Nat :=
  ((List.zipWith (fun (a : Int) (i : Nat) => a * (i : Int)) strides ix).foldl (· + ·) (base : Int) % 2 ^ 64).toNat

/-- The number of innermost dimensions that an index vector ends (R198). -/
def endsDims : List Nat → List Nat → Nat
  | c :: cs, i :: is => if i + 1 = c then endsDims cs is + 1 else 0
  | _, _ => 0

/-- The next index vector, the innermost dimension fastest. -/
def nextIx : List Nat → List Nat → List Nat
  | c :: cs, i :: is => if i + 1 < c then (i + 1) :: is else 0 :: nextIx cs is
  | _, is => is

/-- The reads of the next n elements of a walk in data mode, up to its end (R199). -/
def streamReads (p : Pattern) (base : Nat) : Nat → List Nat → List (Nat × Nat × Reuse)
  | 0, _ => []
  | n + 1, ix =>
    let dims := p.counts.take p.ndim
    let a := (walkAddr base (p.strides.take p.ndim) ix, p.ew, reuseOf p.rc)
    if p.addrMode then [] else if endsDims dims ix = p.ndim then [a] else a :: streamReads p base n (nextIx dims (ix.take p.ndim))

/-- A stream engine's decoupling queue: 64 reads ahead of delivery (R199). -/
def streamAhead (s : State) (core se : Nat) (p : Pattern) : State :=
  let e := getEng s core se
  engAhead s core se (streamReads p e.base 64 e.pos)

/-- BIND (R188, R198, R199): the walk begins, and its reads run ahead; a base or stride that is no multiple of EW ends it with 0x204. -/
def execBind (base : Dword) (pat : BitVec 16) (s : State) : Outcome :=
  runCmd s fun core se m =>
    match boundPattern s core se pat.toNat with
    | none => dropHead s core se
    | some p =>
      let b := if base = 0 then p.base else base.toNat
      if !p.addrMode ∧ (b % p.ew ≠ 0 ∨ (p.strides.take p.ndim).any fun x => x % (p.ew : Int) ≠ 0) then
        finishCmd s core se 0 0 0x204 m.pts 1
      else streamAhead (setEng s core se { state := 1, pat := pat.toNat, base := b, pos := [0, 0, 0, 0, 0, 0], pts := m.pts }) core se p

/-- A token of a walk in the making: its lanes, the tag it ends with, the position after it, and whether the walk ends. -/
structure StreamTok where
  value : Nat
  tag : Nat
  pos : List Nat
  last : Bool

/-- Gathers the elements of one token (R198); k is the lane. -/
def gatherToken (core se : Nat) (p : Pattern) (base : Nat) : Nat → State → List Nat → Nat → Nat → State × Except EngFault StreamTok
  | 0, s, ix, v, _ => (s, .ok ⟨v, 0, ix, false⟩)
  | fuel + 1, s, ix, v, k =>
    let dims := p.counts.take p.ndim
    let a := walkAddr base (p.strides.take p.ndim) ix
    let (s, r) : State × Except EngFault (List Byte) :=
      if p.addrMode then (s, .ok (leBytes 8 a)) else engRead s core se a p.ew (reuseOf p.rc)
    match r with
    | .error f => (s, .error f)
    | .ok bs =>
      let v := v + leNat bs * 2 ^ (8 * p.ew * k)
      let e := endsDims dims ix
      let next := nextIx dims (ix.take p.ndim)
      if e ≥ 1 ∨ fuel = 0 then (s, .ok ⟨v, e, next, e = p.ndim⟩) else gatherToken core se p base fuel s next v (k + 1)

/-- An address with bits 63:56 set is 0x203, every other translation fault 0x202 (R198). -/
def seCause (c : Cause) : Cause := if c = 0x085 then 0x203 else 0x202

/-- STREAM_TOKEN_DELIVER (R195, R198, R199): the next token of a walk, once every element of it has come. -/
def execStreamTokenDeliver (core : Nat) (se : Fin 8) (s : State) : Outcome :=
  let e := getEng s core se
  match boundPattern s core se e.pat with
  | none => .next s
  | some p =>
    if e.state ≠ 1 then .next s
    else
      let s := streamAhead s core se p
      match attachRoom s core se with
      | none => .next s
      | some dest =>
        .next (engStep s core se (gatherToken core se p e.base (16 / p.ew) s e.pos 0 0)
          (fun s t =>
            let s := deliverToken s core se dest ⟨.ofNat 128 t.value, .ofNat 3 t.tag⟩
            if t.last then endCommand s core se 0 (e.count + 1) 0
            else setEng s core se { getEng s core se with pos := t.pos, count := e.count + 1 })
          (fun s f => match f with
            | .stop c va => stopEngine s core se (seCause c) va
            | .ends c => endCommand s core se 0 e.count c
            | _ => s))

/-! ## Edge ports (R205, R228) -/

/-- A token leaves an element's output for an edge port of the queue, whose round-robin it takes part in. -/
def acceptEdge (s : State) (core port : Nat) (m : Cmd) : State :=
  let s := joinQueue s core port m false
  let c := getCore s core
  let q := c.queue port
  setCore s core (c.setQueue port { q with acceptAt := some s.cycle, lastIssuer := 65 })

/-- A command that an edge port makes: it names no register, and a static fault goes with it (R205, R232). -/
def edgeCmd (s : State) (core port : Nat) (ws : List Quad) : Cmd :=
  { unit := 65, slot := 0, packet := ws, sig := signalClass port ((pw ws 0).toNat % 256), creg := none, edge := true,
    pts := (getCore s core).clock,
    bad := staticFault s core port .edge (signalClass port ((pw ws 0).toNat % 256)) ws }

/-- CP_EDGE_WORD (R205): a token's word reaches the copy engine's edge port; the last word of a command waits until the
queue takes it. -/
def execCpEdgeWord (core : Nat) (s : State) : Outcome :=
  match edgeToken s core (.cp core) with
  | none => .next s
  | some (u, out, p) =>
    match p.tok with
    | none => .next s
    | some t =>
      let c := getCore s core
      let ws := c.cpEdge ++ [t.payload]
      if ws.length < cpWords (pw ws 0) then
        .next (popOut (setCore s core { c with cpEdge := ws }) u out)
      else if (c.queue 13).hasRoom (signalClass 13 ((pw ws 0).toNat % 256)) ∧ arbiter s core 13 65 then
        .next (popOut (acceptEdge (setCore s core { c with cpEdge := [] }) core 13 (edgeCmd s core 13 ws)) u out)
      else .next s

/-- MN_EDGE_TOKEN (R228, R232): the matrix node accepts a token from its edge port. -/
def execMnEdgeToken (core : Nat) (s : State) : Outcome :=
  match edgeToken s core (.mn core) with
  | none => .next s
  | some (u, out, p) =>
    match p.tok with
    | none => .next s
    | some t =>
      if ((getCore s core).queue 12).hasRoom (signalClass 12 (t.payload.toNat % 256)) ∧ arbiter s core 12 65 then
        .next (popOut (acceptEdge s core 12 (edgeCmd s core 12 [t.payload])) u out)
      else .next s

/-- A faulty edge-port command has reached the head of its queue: the engine stops and raises its cause (R205, R232). -/
def stopOnBad (s : State) (core port : Nat) (m : Cmd) (cause : Cause) : State :=
  let s := if port = 12 then
      let c := getCore s core
      setCore s core { c with mn := { c.mn with stopped := 3, cause := cause } }
    else setEng s core port { getEng s core port with state := 2, cause := cause }
  raisePort s core port cause 0 (pw m.packet 0)

end Sys2Proof.Machine
end

