-- ==== Sys2Proof/Machine/Adit.lean ====
section
/-! DEFINITION. The adit engines: walks from acceptance to reply (R213 to R225, R420) and their rules (R216 to R219). -/

namespace Sys2Proof.Machine

open Sys2Proof

/-! ## Walks -/

def setWalk (s : State) (core slot : Nat) (w : Walk) : State :=
  let c := getCore s core
  setCore s core { c with walks := tput c.walks slot w }

/-- The issuer number under which a walk's reply stores are counted. -/
def walkUnit (slot : Nat) : Nat := 200 + slot

/-- Cycles between a core and a slice (R223). -/
def walkTrip (core slice : Nat) : Nat := 30 + 12 * hops (routerOfCore core) (routerOfSlice slice)

/-- A walk ends: the header, and the record behind it, set out for the core, or the reply's stores for their homes
(R221, R420). A fault, the step limit and a rule fault deliver CUR and W0. -/
def endWalk (s : State) (core slot : Nat) (w : Walk) (status cause ucode : Nat) (record : List Byte) : State :=
  let record := if 3 ≤ status ∧ status ≤ 5 then leBytes 8 w.cur.toNat ++ leBytes 8 (w.w.headD 0).toNat else record
  let esp := ucode * 2 ^ 24 + w.skipped.toNat * 2 ^ 16 + status * 2 ^ 13 + w.step
  let bytes := leBytes 16 (completionWord w.cmd.tlNum esp record.length cause).toNat ++ record
  let w := { w with cause := cause, parked := false, incoming := bytes }
  if !w.rmode then setWalk s core slot { w with waiting := 3, due := s.cycle + walkTrip core w.slice }
  else
    let id := s.nextReq
    let at_ (k : Nat) : Place :=
      if k < 8 then (let x := w.cmd.pas.getD 1 {}; { x with pa := x.pa + 16 * k }) else w.cmd.pas.getD 2 {}
    let far (h : Home) : Nat := match h with | .slice n => hops (routerOfSlice w.slice) (routerOfSlice n) | .mpad b => hops (routerOfSlice w.slice) b | _ => hops (routerOfSlice w.slice) (routerOfCore core)
    let parts : List Part := (List.range ((bytes.length + 15) / 16)).map fun k =>
      let x := at_ k
      { lane := k, va := w.rbase.toNat + 16 * k, pa := x.pa, n := 16, home := x.home, inc := x.inc, win := x.win,
        data := .ofNat 128 (leNat ((bytes.drop (16 * k)).take 16)), phase := .travelling (s.cycle + 1 + 30 + 12 * far x.home) }
    let r : Req := { core := core, unit := walkUnit slot, slot := 0, op := .store, posted := true, reuse := .normal,
                     noalloc := false, laneBits := 128, sink := .nul, parts := parts, pts := w.pts, update := true, born := s.cycle }
    setWalk { setReq s id r with nextReq := id + 1 } core slot { w with waiting := 4 }

/-- A fault of a record load (R222). -/
def walkFault (s : State) (core slot : Nat) (w : Walk) (cause : Cause) : State :=
  match w.pol with
  | 0 => endWalk s core slot w 3 cause 0 []
  | 1 =>
    if w.step = w.slim then endWalk s core slot w 4 0x284 0 []
    else setWalk s core slot { w with step := w.step + 1, skipped := true, eq := false, lt := false, rload := 0,
                                      rp := w.skipix, due := s.cycle + 1 }
  | _ => raisePort (setWalk s core slot { w with parked := true, cause := cause }) core 16 cause w.cur (w.cmd.tlNum.setWidth 128)

/-- A rule fault (R218). -/
def ruleFault (s : State) (core slot : Nat) (w : Walk) : State := endWalk s core slot w 5 0x288 0 []

/-- A move (R219). -/
def walkMove (s : State) (core slot : Nat) (w : Walk) (p : Nat) : State :=
  if p = 0 then endWalk s core slot w 1 0 0 []
  else if w.step = w.slim then endWalk s core slot w 4 0x284 0 []
  else setWalk s core slot { w with step := w.step + 1, cur := .ofNat 64 p, eq := false, lt := false, rload := 0,
                                    rp := w.loopix, due := s.cycle + 1 }

/-! ## Record loads (R220) -/

/-- The causes of R220 for those of the radix walk. -/
def recordCause (c : Cause) : Cause := if c = 0x096 then 0x286 else if c = 0x092 then 0x287 else 0x285

/-- A translation in a slice's adit cache. -/
def findAdit (sl : Slice) (part va : Nat) : Option Leaf :=
  (sl.tcache.find? fun e => e.1 = part && e.2.vbase ≤ va && va < e.2.vbase + e.2.size && e.2.r).map (·.2)

/-- What translating a cursor at a slice comes to: the physical address, or a cause; and whether the slice's cache held
it. -/
def aditTranslate (s : State) (core slice cur bytes : Nat) : Except Cause (Nat × Option Leaf) :=
  if cur ≥ 2 ^ 56 ∨ cur % 8 ≠ 0 ∨ cur % 128 + bytes > 128 then .error 0x287
  else
    let part := partOf s core
    let p : Partition := tget {} s.parts part
    let there (pa : Nat) (l : Option Leaf) : Except Cause (Nat × Option Leaf) :=
      match spaceOf pa, homeOf s pa with | .global, .ok _ => .ok (pa, l) | _, _ => .error 0x287
    match findAdit (getSlice s slice) part cur with
    | some l => there (l.pbase + (cur - l.vbase)) none
    | none =>
      match walkTable s p.secure cur .read 3 p.ptroot with
      | .error c => .error (recordCause c)
      | .ok l => there (l.pbase + (cur - l.vbase)) (some l)

/-- The slice's adit engine keeps a translation it has found. -/
def keepLeaf (s : State) (core slice : Nat) (l : Leaf) : State :=
  let sl := getSlice s slice
  setSlice s slice { sl with tcache := sl.tcache ++ [(partOf s core, l)] }

/-- Cycles of a translation that misses the slice's cache (R223); an address that fails the first check is not translated. -/
def aditCycles (s : State) (core slice cur bytes : Nat) : Nat :=
  if cur ≥ 2 ^ 56 ∨ cur % 8 ≠ 0 ∨ cur % 128 + bytes > 128 ∨ (findAdit (getSlice s slice) (partOf s core) cur).isSome then 0
  else walkCost s (routerOfSlice slice) cur 3 (tget {} s.parts (partOf s core) : Partition).ptroot

/-- The slice of a global address. -/
def sliceOf (s : State) (pa : Nat) : Nat := match homeOf s pa with | .ok (.slice n) => n | _ => 0

/-- The home slice reads a record (R220 step 4): an ordinary load. -/
def loadRecord (s : State) (core slot : Nat) (w : Walk) (pa n : Nat) : State :=
  let own := partOf s core
  let there := present s w.slice own (pa / 128)
  let (s, a) := performRead s (.slice w.slice) own pa n .normal false w.pts
  if a.cause ≠ 0 then endWalk s core slot w 3 a.cause 0 []
  else setWalk s core slot { w with waiting := 1, load := some (pa, n), incoming := a.value, pts := tsMax w.pts a.ts,
                                    due := s.cycle + 8 + if there then 0 else dramCycles s.cycle w.slice (pa / 128) }

/-! ## Running rules -/

/-- Runs a rule of the walk whose turn it is. -/
def runRule (s : State) (f : Nat → Nat → Walk → State) : Outcome :=
  match s.actor with
  | .walk core slot =>
    match tfind (getCore s core).walks slot with
    | some w => .next (f core slot w)
    | none => .next s
  | _ => .next s

/-- The walk goes to its next rule, a cycle later. -/
def nextRule (s : State) (core slot : Nat) (w : Walk) : State :=
  setWalk s core slot { w with rp := w.rp + 1, due := s.cycle + 1 }

def RuleSize.bytes : RuleSize → Nat | .b8 => 8 | .b4 => 4 | .b2 => 2 | .b16 => 16

/-- The field of n bytes at an offset of REC (R218). -/
def Walk.field (w : Walk) (off n : Nat) : Option Nat :=
  if off % n = 0 ∧ off + n ≤ w.rload then some (leNat ((w.record.drop off).take n)) else none

def Walk.wreg (w : Walk) (n : Fin 4) : Dword := w.w.getD n 0
def Walk.setW (w : Walk) (n : Fin 4) (v : Dword) : Walk := { w with w := w.w.set n v }

/-- A register named by a rule (R216). -/
def Walk.reg (w : Walk) : RuleReg → Dword
  | .cur => w.cur | .w0 => w.wreg 0 | .w1 => w.wreg 1 | .w2 => w.wreg 2 | .w3 => w.wreg 3 | .step => .ofNat 64 w.step
def Walk.setReg (w : Walk) (r : RuleReg) (v : Dword) : Walk :=
  match r with
  | .cur => { w with cur := v } | .w0 => w.setW 0 v | .w1 => w.setW 1 v | .w2 => w.setW 2 v | .w3 => w.setW 3 v | .step => w

/-- Sets the compare flags. -/
def Walk.compare (w : Walk) (a b : Nat) : Walk := { w with eq := a = b, lt := a < b }

/-- ldr (R219, R220, R222, R223). -/
def execLdr (n : Fin 16) (s : State) : Outcome :=
  runRule s fun core slot w =>
    let bytes := 8 * (n.val + 1)
    match aditTranslate s core w.slice w.cur.toNat bytes with
    | .error c =>
      let wait := aditCycles s core w.slice w.cur.toNat bytes
      if w.tried ∨ wait = 0 then walkFault s core slot { w with tried := false } c
      else setWalk s core slot { w with tried := true, due := s.cycle + wait }
    | .ok (_, some l) =>
      setWalk (keepLeaf s core w.slice l) core slot { w with due := s.cycle + aditCycles s core w.slice w.cur.toNat bytes }
    | .ok (pa, none) =>
      let home := sliceOf s pa
      if home = w.slice then loadRecord s core slot w pa bytes
      else setWalk s core slot { w with waiting := 2, target := home, load := some (pa, bytes),
                                        due := s.cycle + 8 + 12 * hops (routerOfSlice w.slice) (routerOfSlice home) }

/-- ldf (R219). -/
def execLdf (k : Fin 4) (off : Fin 128) (sz : RuleSize) (s : State) : Outcome :=
  runRule s fun core slot w =>
    match w.field off (RuleSize.bytes sz) with
    | some f => nextRule s core slot (w.setW k (.ofNat 64 f))
    | none => ruleFault s core slot w

/-- cmpk (R219). -/
def execCmpk (off : Fin 128) (sz : RuleSize) (s : State) : Outcome :=
  runRule s fun core slot w =>
    let n := RuleSize.bytes sz
    match w.field off n with
    | some f => nextRule s core slot (w.compare (w.key.toNat % 2 ^ (8 * n)) f)
    | none => ruleFault s core slot w

/-- cmpw (R219). -/
def execCmpw (k : Fin 4) (off : Fin 128) (sz : RuleSize) (s : State) : Outcome :=
  runRule s fun core slot w =>
    let n := RuleSize.bytes sz
    match w.field off n with
    | some f => nextRule s core slot (w.compare ((w.wreg k).toNat % 2 ^ (8 * n)) f)
    | none => ruleFault s core slot w

/-- cmpi (R219). -/
def execCmpi (r : RuleReg) (imm : BitVec 11) (s : State) : Outcome :=
  runRule s fun core slot w => nextRule s core slot (w.compare (w.reg r).toNat imm.toNat)

/-- A rule condition (R219). -/
def RuleCond.holds (c : RuleCond) (eq lt : Bool) : Bool :=
  match c with
  | .al => true | .eq => eq | .ne => !eq | .lt => lt | .ge => !lt | .gt => !eq && !lt | .le => eq || lt

/-- br (R219): a target that is not ahead, or past the last rule, is a rule fault (R218). -/
def execRuleBr (c : RuleCond) (tgt : Fin 32) (s : State) : Outcome :=
  runRule s fun core slot w =>
    if tgt.val ≤ w.rp ∨ tgt.val > w.nrule then ruleFault s core slot w
    else if RuleCond.holds c w.eq w.lt then setWalk s core slot { w with rp := tgt.val, due := s.cycle + 1 }
    else nextRule s core slot w

/-- Bucket of R219. -/
def bucket (key : Quad) (k : Nat) (mul : Bool) : Nat :=
  let x := key.toNat % 2 ^ 64 ^^^ key.toNat / 2 ^ 64
  if mul then (if k = 0 then 0 else x * 0x9E3779B97F4A7C15 % 2 ^ 64 / 2 ^ (64 - k))
  else
    let x := x ^^^ x / 2 ^ 32
    let x := x ^^^ x / 2 ^ 16
    let x := x ^^^ x / 2 ^ 8
    x % 2 ^ k

/-- hash (R219). -/
def execHash (n : Fin 4) (k : Fin 25) (sh : Fin 8) (mul : Bool) (s : State) : Outcome :=
  runRule s fun core slot w =>
    nextRule s core slot
      { w with cur := .ofNat 64 ((w.wreg n).toNat + bucket w.key k mul * 2 ^ (sh.val + 3)), rload := 0 }

/-- setc (R219). -/
def execSetc (r : RuleReg) (imm : BitVec 11) (s : State) : Outcome :=
  runRule s fun core slot w => nextRule s core slot { w with cur := w.reg r + imm.signExtend 64, rload := 0 }

/-- wadd (R219). -/
def execWadd (k : Fin 4) (imm : BitVec 11) (s : State) : Outcome :=
  runRule s fun core slot w => nextRule s core slot (w.setW k (w.wreg k + imm.signExtend 64))

/-- follow (R219). -/
def execFollow (off : Fin 128) (s : State) : Outcome :=
  runRule s fun core slot w =>
    match w.field off 8 with
    | some p => walkMove s core slot w p
    | none => ruleFault s core slot w

/-- choose (R219): both fields must lie within RLOAD. -/
def execChoose (off : Fin 128) (s : State) : Outcome :=
  runRule s fun core slot w =>
    match w.field off 8, w.field (off.val + 8) 8 with
    | some a, some b => walkMove s core slot w (if w.lt then a else b)
    | _, _ => ruleFault s core slot w

/-- ret (R219): o must be a multiple of 16, and o + b within RLOAD. -/
def execRet (off : Fin 128) (b : Fin 8) (s : State) : Outcome :=
  runRule s fun core slot w =>
    let n := 16 * (b.val + 1)
    if off.val % 16 ≠ 0 ∨ off.val + n > w.rload then ruleFault s core slot w
    else endWalk s core slot w 0 0 0 ((w.record.drop off).take n)

/-- retw (R219). -/
def execRetw (s : State) : Outcome :=
  runRule s fun core slot w => endWalk s core slot w 0 0 0 (w.w.flatMap fun x => leBytes 8 x.toNat)

/-- miss (R219). -/
def execMiss (s : State) : Outcome := runRule s fun core slot w => endWalk s core slot w 1 0 0 []

/-- fail (R219). -/
def execFail (code : Byte) (s : State) : Outcome := runRule s fun core slot w => endWalk s core slot w 2 0 code.toNat []

/-- idle (R219). -/
def execIdle (s : State) : Outcome := runRule s fun core slot w => nextRule s core slot w

/-! ## Acceptance, arrivals, RESUME and ABORT -/

/-- The rule words of a program line (R215). -/
def ruleWords (line : List Byte) : List Word := (List.range 32).map fun i => .ofNat 32 (leNat ((line.drop (4 * i)).take 4))

/-- A walk asks a peer for its program line: it waits for it in its slot (R215, R412). -/
def askProgram (s : State) (core slot : Nat) (x : Place) (pts : Stamp) : State :=
  let id := s.nextReq
  let p : Part := { lane := 0, va := 0, pa := x.pa, n := 128, home := x.home, inc := x.inc, phase := .travelling s.cycle, win := x.win }
  let s := { setReq s id { engReq s core 16 .load .normal with parts := [p], pts := pts } with nextReq := id + 1 }
  setFetches s core 16 (fetchesOf s core 16 ++ [{ va := slot, n := 128, req := id, ans := .waiting }])

/-- A walk's program has come from a peer: it sets out for its first slice. -/
def takeProgram (s : State) (core slot : Nat) (w : Walk) : State :=
  match takeFetch (fetchesOf s core 16) slot 128 with
  | some (.got bs ts, fs) =>
    setWalk (setFetches s core 16 fs) core slot
      { w with waiting := 2, rules := ruleWords bs, pts := tsMax w.pts ts, due := s.cycle + walkTrip core w.target }
  | some (.fault f, fs) =>
    endWalk (setFetches s core 16 fs) core slot w 3 (match f with | .stop c _ => c | .ends c => c | _ => 0) 0 []
  | _ => s

/-- WALK (R214, R215, R223): a walk leaves the queue when a slot is free; its first slice is chosen, and it sets out. -/
def execWalk (c : WalkCmd) (s : State) : Outcome :=
  runCmd s fun core port m =>
    let k := getCore s core
    match (List.range 16).find? fun i => (tfind k.walks i).isNone with
    | none => s
    | some slot =>
      let s := dropHead s core port
      let place := m.pas.headD {}
      let pts := tsMax k.clock m.pts
      let far : Bool := match place.home with | .remote _ => true | _ => false
      let (s, line) : State × Answer :=
        if far then (askProgram s core slot place pts, { ts := pts }) else performRead s place.home (partOf s core) place.pa 128 .normal false pts
      let first := routerOfCore core * 4
      let (s, slice, extra) : State × Nat × Nat := match aditTranslate s core first c.cur0.toNat 8 with
        | .ok (pa, none) => (s, sliceOf s pa, 0)
        | .ok (pa, some l) => (keepLeaf s core first l, sliceOf s pa, aditCycles s core first c.cur0.toNat 8)
        | .error _ => (s, first, 0)
      let w : Walk :=
        { cur := c.cur0, key := c.key, w := [c.w0, c.w1, 0, 0], rbase := c.rbase, cmd := m, slim := c.slim.toNat,
          nrule := c.nrule, skipix := c.skipix, loopix := c.loopix, entry := c.entry, rmode := c.rmode, trapf := c.trapf,
          pol := match c.pol with | .stop => 0 | .skip => 1 | .trap => 2, rp := c.entry, slice := slice,
          pts := tsMax m.pts line.ts, record := List.replicate 128 0,
          rules := ruleWords line.value,
          waiting := if far then 6 else 2, target := slice, due := s.cycle + walkTrip core slice + extra, age := k.walkAge }
      let k := getCore s core
      let s := setWalk (setCore s core { k with walkAge := k.walkAge + 1 }) core slot w
      if line.cause ≠ 0 then endWalk s core slot w 3 line.cause 0 [] else s

/-- WALK_MIGRATION_ARRIVAL (R223): the walk goes on at the slice it has reached, with the load it moved for. -/
def execWalkMigrationArrival (core : Nat) (slot : Fin 16) (s : State) : Outcome :=
  match tfind (getCore s core).walks slot with
  | some w =>
    if w.waiting = 2 ∧ w.due ≤ s.cycle then
      let w := { w with slice := w.target, waiting := 0 }
      match w.load with
      | some (pa, n) => .next (loadRecord s core slot w pa n)
      | none => .next (setWalk s core slot w)
    else .next s
  | none => .next s

/-- RECORD_LOAD_COMPLETE (R220): the record's bytes reach REC, and the walk goes to its next rule. -/
def execRecordLoadComplete (core : Nat) (slot : Fin 16) (s : State) : Outcome :=
  match tfind (getCore s core).walks slot with
  | some w =>
    if w.waiting = 1 ∧ w.due ≤ s.cycle then
      .next (setWalk s core slot { w with record := w.incoming ++ w.record.drop w.incoming.length, rload := w.incoming.length,
                                          rp := w.rp + 1, waiting := 0, incoming := [], load := none })
    else .next s
  | none => .next s

/-- ADIT_SIGNAL (R214): every earlier walk of the core has completed. -/
def execAditSignal (s : State) : Outcome :=
  runCmd s fun core port m =>
    if (getCore s core).walks.isEmpty then finishCmd s core port 0 0 0 m.pts 1 else s

/-- The oldest walk of a core that is parked. -/
def parkedWalk (c : Core) : Option (Nat × Walk) :=
  c.walks.foldl (fun (b : Option (Nat × Walk)) e =>
    if !e.2.parked then b else match b with | some x => if e.2.age < x.2.age then some e else some x | none => some e) none

/-- ADIT_RESUME (R213, R222): the oldest parked walk retries its ldr. -/
def execAditResume (core : Nat) (s : State) : Outcome :=
  match parkedWalk (getCore s core) with
  | some (slot, w) => .next (setWalk s core slot { w with parked := false, cause := 0, due := s.cycle })
  | none => .next s

/-- ADIT_ABORT (R213, R222): the oldest parked walk ends with its cause. -/
def execAditAbort (core : Nat) (s : State) : Outcome :=
  match parkedWalk (getCore s core) with
  | some (slot, w) => .next (endWalk s core slot w 3 w.cause 0 [])
  | none => .next s

/-! ## Replies -/

/-- A walk's reply has been delivered: its completion sets out, and its slot is free (R214, R221). -/
def finishWalk (s : State) (core slot : Nat) : State :=
  match tfind (getCore s core).walks slot with
  | none => s
  | some w =>
    let h := leNat (w.incoming.take 16)
    let c := getCore s core
    sendCompletion (setCore s core { c with walks := tdel c.walks slot }) core 16 w.cmd (h / 2 ^ 32) (h / 2 ^ 16 % 2 ^ 16)
      w.cause w.pts s.cycle

/-- The tokens of a reply: the header, then the record; the last carries tag 1 (R221). -/
def replyTokens (slot : Nat) (bytes : List Byte) : List OutTok :=
  let n := (bytes.length + 15) / 16
  (List.range n).map fun k =>
    { tok := ⟨.ofNat 128 (leNat ((bytes.drop (16 * k)).take 16)), if k + 1 = n then 1 else 0⟩,
      walk := if k + 1 = n then some slot else none }

/-- A walk that waits moves on: its reply reaches the core, its last store is acknowledged, or its program has come. -/
def moveReply (s : State) (core slot : Nat) : State :=
  match tfind (getCore s core).walks slot with
  | none => s
  | some w =>
    if w.waiting = 3 ∧ w.due ≤ s.cycle then
      if w.rmode then finishWalk s core slot
      else
        -- the tokens carry the walk's reads (R224)
        let e := getEng s core 16
        let s := setEng s core 16 { e with pts := tsMax e.pts w.pts }
        pushTokens (setWalk s core slot { w with waiting := 5 }) core 16 (replyTokens slot w.incoming)
    else if w.waiting = 6 then takeProgram s core slot w
    else if w.waiting = 4 ∧ !(s.reqs.any fun r => r.2.core = core && r.2.unit = walkUnit slot) then
      let lost := ([0, 1, 2, 3] : List Nat).any fun p => (tget {} ((getCore s core).port p).issuers (walkUnit slot) : Issuer).lost
      let s := setCore s core (clearCwait (getCore s core) (walkUnit slot))
      setWalk s core slot { w with waiting := 3, due := s.cycle + walkTrip core w.slice,
                                   cause := if lost ∧ w.cause = 0 then lostCause else w.cause }
    else s

/-- Whether a walk runs a rule now, and the rule: none is a rule fault (R218, R219). -/
def walkRule (s : State) (core slot : Nat) : Option (Option Instr) :=
  match tfind (getCore s core).walks slot with
  | none => none
  | some w =>
    if w.waiting ≠ 0 ∨ w.parked ∨ w.due > s.cycle then none
    else if w.rp > w.nrule then some none
    else some (decodeRule (w.rules.getD w.rp 0).toNat)

end Sys2Proof.Machine
end

