-- ==== Sys2Proof/Machine/Float.lean ====
section
/-! DEFINITION. Floating-point arithmetic and comparison (R129 to R134), the split and the two-term dot product
(R139, R140). -/

namespace Sys2Proof.Machine

open Sys2Proof

/-- The format of a floating-point lane type; FP32 where the type is none. -/
def LaneType.fp (t : LaneType) : Num.Fp := (LaneType.fp? t).getD .fp32

/-- One exact result rounded once into the lane's format, with its flags and its draw (R129). -/
def roundLane (f : Num.Fp) (rm : Rounding) (r : Num.Val × Num.Flags) (env : Num.Env) : Nat × Num.Env :=
  Num.enc f rm r.1 (env.raise r.2)

/-- Pairs of lanes, each mapped to a rounded result, lane 0 first. -/
def mapPairs (f : Nat → Nat → Num.Env → Nat × Num.Env) : List Nat → List Nat → Num.Env → List Nat × Num.Env
  | x :: xs, y :: ys, env =>
    let (z, env) := f x y env
    let (zs, env) := mapPairs f xs ys env
    (z :: zs, env)
  | _, _, env => ([], env)

/-- A two-source floating-point instruction: op gives each lane's exact result and flags. -/
def float2 (s : State) (i : Instr) (lat : Nat) (t : LaneType) (d : Dst) (a b : Src)
    (op : Num.Val → Num.Val → Rounding → Num.Val × Num.Flags) : Outcome :=
  fireTo s i lat d a fun r env =>
    let f := LaneType.fp t
    let w := LaneType.width t
    let (xs, env) := mapPairs (fun x y env => roundLane f r.rm (op (Num.decode f x) (Num.decode f y) r.rm) env)
      (lanes w (r.v a)) (lanes w (r.v b)) env
    (ofLanes w xs, env)

/-- A fused instruction: DST is the third source (R130). -/
def float3 (s : State) (i : Instr) (t : LaneType) (d : Dst) (a b : Src)
    (op : Num.Val → Num.Val → Num.Val → Rounding → Num.Val × Num.Flags) : Outcome :=
  fireTo s i 4 d a fun r env =>
    let f := LaneType.fp t
    let w := LaneType.width t
    let abs_ := List.zip (lanes w (r.v a)) (lanes w (r.v b))
    let (xs, env) := Num.mapEnv (fun (p : (Nat × Nat) × Nat) env =>
        roundLane f r.rm (op (Num.decode f p.1.1) (Num.decode f p.1.2) (Num.decode f p.2) r.rm) env)
      (List.zip abs_ (lanes w (readDst r.e d))) env
    (ofLanes w xs, env)

/-- A one-source floating-point instruction. -/
def float1 (s : State) (i : Instr) (lat : Nat) (t : LaneType) (d : Dst) (a : Src)
    (op : Num.Val → Num.Val × Num.Flags) : Outcome :=
  fireTo s i lat d a fun r env =>
    let f := LaneType.fp t
    let w := LaneType.width t
    let (xs, env) := Num.mapEnv (fun x env => roundLane f r.rm (op (Num.decode f x)) env) (lanes w (r.v a)) env
    (ofLanes w xs, env)

def execFadd (t : LaneType) (d : Dst) (a b : Src) (s : State) : Outcome :=
  float2 s (.fadd t d a b) 4 t d a b Num.add
def execFsub (t : LaneType) (d : Dst) (a b : Src) (s : State) : Outcome :=
  float2 s (.fsub t d a b) 4 t d a b fun x y rm => Num.add x y.negate rm
def execFmul (t : LaneType) (d : Dst) (a b : Src) (s : State) : Outcome :=
  float2 s (.fmul t d a b) 4 t d a b fun x y _ => Num.mul x y
def execFma (t : LaneType) (d : Dst) (a b : Src) (s : State) : Outcome :=
  float3 s (.fma t d a b) t d a b fun x y c rm => Num.fma x y c rm
def execFms (t : LaneType) (d : Dst) (a b : Src) (s : State) : Outcome :=
  float3 s (.fms t d a b) t d a b fun x y c rm => Num.fma x y c.negate rm
def execFnma (t : LaneType) (d : Dst) (a b : Src) (s : State) : Outcome :=
  float3 s (.fnma t d a b) t d a b fun x y c rm => Num.fma x.negate y c rm
def execFdiv (t : LaneType) (d : Dst) (a b : Src) (s : State) : Outcome :=
  float2 s (.fdiv t d a b) 16 t d a b fun x y _ => Num.div x y
def execFsqrt (t : LaneType) (d : Dst) (a : Src) (s : State) : Outcome :=
  float1 s (.fsqrt t d a) 16 t d a Num.sqrt

/-- An instruction that rounds nothing and takes no draw: its result encodes exactly (R131). -/
def exact2 (s : State) (i : Instr) (t : LaneType) (d : Dst) (a b : Src)
    (op : Num.Val → Num.Val → Num.Val × Num.Flags) : Outcome :=
  fireTo s i 4 d a fun r env =>
    let f := LaneType.fp t
    let w := LaneType.width t
    let (xs, env) := mapPairs (fun x y env =>
        let (v, fl) := op (Num.decode f x) (Num.decode f y)
        ((Num.encode f .rne v 0).1, env.raise fl)) (lanes w (r.v a)) (lanes w (r.v b)) env
    (ofLanes w xs, env)

def execFmin (t : LaneType) (d : Dst) (a b : Src) (s : State) : Outcome :=
  exact2 s (.fmin t d a b) t d a b Num.fmin
def execFmax (t : LaneType) (d : Dst) (a b : Src) (s : State) : Outcome :=
  exact2 s (.fmax t d a b) t d a b Num.fmax

/-- fabs and fneg are bit operations on the sign (R132). -/
def execFabs (t : LaneType) (d : Dst) (a : Src) (s : State) : Outcome :=
  fireQ s (.fabs t d a) 1 d a fun r =>
    let w := LaneType.width t
    ofLanes w ((lanes w (r.v a)).map fun x => x % 2 ^ (w - 1))
def execFneg (t : LaneType) (d : Dst) (a : Src) (s : State) : Outcome :=
  fireQ s (.fneg t d a) 1 d a fun r =>
    let w := LaneType.width t
    ofLanes w ((lanes w (r.v a)).map fun x => x + 2 ^ (w - 1))

/-- The class bit of R133. -/
def classBit (f : Num.Fp) (x : Nat) : Nat :=
  match Num.decode f x with
  | .nan sg => if sg then 2 ^ 8 else 2 ^ 9
  | .inf n => if n then 2 ^ 0 else 2 ^ 7
  | .fin n num _ =>
    if num = 0 then (if n then 2 ^ 3 else 2 ^ 4)
    else if x / 2 ^ f.m % 2 ^ f.eb = 0 then (if n then 2 ^ 2 else 2 ^ 5)
    else (if n then 2 ^ 1 else 2 ^ 6)

def execFclass (t : LaneType) (d : Dst) (a : Src) (s : State) : Outcome :=
  fireQ s (.fclass t d a) 1 d a fun r =>
    let w := LaneType.width t
    ofLanes w ((lanes w (r.v a)).map (classBit (LaneType.fp t)))

/-- A floating-point comparison (R134): its per-lane test, and whether any NaN raises NV or a signalling one only. -/
def floatCmp (s : State) (i : Instr) (t : LaneType) (m : Reduce) (p : Fin 8) (a b : Src) (anyNaN : Bool)
    (test : Num.Val → Num.Val → Bool) : Outcome :=
  fire s i 4 fun e _ =>
    let f := LaneType.fp t
    let w := LaneType.width t
    let xs := (lanes w (readSrc e s.cycle a)).map (Num.decode f)
    let ys := (lanes w (readSrc e s.cycle b)).map (Num.decode f)
    let nv : Num.Flags :=
      if anyNaN then (if (xs ++ ys).any (·.isNaN) then Num.fNV else 0) else Num.sigNV (xs ++ ys)
    let c := reduceMode m (List.zipWith test xs ys)
    .ok { acts := [.p (predBit p) (if c then predBit p else 0)], flags := nv }

def execFcmpEq (t : LaneType) (m : Reduce) (p : Fin 8) (a b : Src) (s : State) : Outcome :=
  floatCmp s (.fcmpEq t m p a b) t m p a b false Num.eq
def execFcmpLt (t : LaneType) (m : Reduce) (p : Fin 8) (a b : Src) (s : State) : Outcome :=
  floatCmp s (.fcmpLt t m p a b) t m p a b true Num.lt
def execFcmpLe (t : LaneType) (m : Reduce) (p : Fin 8) (a b : Src) (s : State) : Outcome :=
  floatCmp s (.fcmpLe t m p a b) t m p a b true fun x y => Num.lt x y || Num.eq x y
def execFcmpUn (t : LaneType) (m : Reduce) (p : Fin 8) (a b : Src) (s : State) : Outcome :=
  floatCmp s (.fcmpUn t m p a b) t m p a b false fun x y => x.isNaN || y.isNaN

/-- The term of a lane that split3 returns, as BF16 bits (R101, R139). -/
def splitLane (term : SplitTerm) (x : Nat) : Nat :=
  let (hi, mid, lo) := Num.split3 (Num.decode .fp32 x)
  (Num.encode .bf16 .rtz (match term with | .hi => hi | .mid => mid | .lo => lo) 0).1

def execSplit3 (term : SplitTerm) (d : Dst) (a b : Src) (s : State) : Outcome :=
  fireTo s (.split3 term d a b) 4 d a fun r env =>
    let xs := lanes 32 (r.v a) ++ lanes 32 (r.v b)
    (ofLanes 16 (xs.map (splitLane term)), env.raise (Num.sigNV (xs.map (Num.decode .fp32))))

/-- The sum of two exact products before its one rounding (R140). -/
def dotPair (f : Num.Fp) (rm : Rounding) (a0 b0 a1 b1 : Nat) : Num.Val × Num.Flags :=
  let (p, fp) := Num.mul (Num.decode f a0) (Num.decode f b0)
  let (q, fq) := Num.mul (Num.decode f a1) (Num.decode f b1)
  let (v, fv) := Num.add p q rm
  (v, fp ||| fq ||| fv)

def dotPairs (f g : Num.Fp) (rm : Rounding) : List Nat → List Nat → Num.Env → List Nat × Num.Env
  | a0 :: a1 :: as, b0 :: b1 :: bs, env =>
    let (x, env) := roundLane g rm (dotPair f rm a0 b0 a1 b1) env
    let (xs, env) := dotPairs f g rm as bs env
    (x :: xs, env)
  | _, _, env => ([], env)

def execFdot2 (t : LaneType) (d : Dst) (a b : Src) (s : State) : Outcome :=
  fireTo s (.fdot2 t d a b) 4 d a fun r env =>
    let f := LaneType.fp t
    let w := LaneType.width t
    let g : Num.Fp := if f = .fp32 then .fp64 else .fp32
    let (xs, env) := dotPairs f g r.rm (lanes w (r.v a)) (lanes w (r.v b)) env
    (ofLanes (2 * w) xs, env)

end Sys2Proof.Machine
end

