-- ==== Sys2Proof/Machine/Convert.lean ====
section
/-! DEFINITION. Conversions (R135 to R138) and MX quantisation (R141, R142). -/

namespace Sys2Proof.Machine

open Sys2Proof

/-- Places converted lanes by the lane group (R135): f turns one source lane into one result lane. -/
def placeLanes (ws wd g : Nat) (f : Nat → Num.Env → Nat × Num.Env) (q : Quad) (env : Num.Env) : Quad × Num.Env :=
  let ns := 128 / ws
  let nd := 128 / wd
  if nd > ns then
    let (xs, env) := Num.mapEnv f (lanes ws q) env
    (ofLanes wd (List.replicate (g * ns) 0 ++ xs), env)
  else
    let (xs, env) := Num.mapEnv f (((lanes ws q).drop (g * nd)).take nd) env
    (ofLanes wd xs, env)

/-- Source and destination formats of cvt's rows; the rint rows keep their format (R136). -/
def cvtPair (row : Fin 16) : Num.Fp × Num.Fp :=
  match row.val with
  | 0x0 => (.fp64, .fp32) | 0x1 => (.fp64, .bf16) | 0x2 => (.fp64, .fp16) | 0x3 => (.fp32, .fp64)
  | 0x4 => (.fp32, .bf16) | 0x5 => (.fp32, .fp16) | 0x6 => (.bf16, .fp32) | 0x7 => (.fp16, .fp32)
  | 0x8 => (.bf16, .fp16) | 0x9 => (.fp16, .bf16) | 0xA => (.fp32, .e5m2) | 0xB => (.fp32, .e4m3)
  | 0xC => (.e5m2, .fp32) | 0xD => (.e4m3, .fp32) | 0xE => (.fp32, .fp32) | _ => (.fp64, .fp64)

/-- One lane of cvt: decoded and encoded once; a signalling NaN raises NV. An exact form neither rounds nor draws. -/
def cvtLane (f g : Num.Fp) (exact : Bool) (rm : Rounding) (x : Nat) (env : Num.Env) : Nat × Num.Env :=
  let v := Num.decode f x
  let env := env.raise (Num.sigNV [v])
  if exact then ((Num.encode g .rne v 0).1, env) else Num.enc g rm v env

/-- One lane of rint (R136). -/
def rintLane (f : Num.Fp) (rm : Rounding) (x : Nat) (env : Num.Env) : Nat × Num.Env :=
  let (d, env) := env.draw rm
  match Num.decode f x with
  | .nan sg => (Num.canonNaN f, if sg then env.raise Num.fNV else env)
  | .inf _ => (x, env)
  | .fin s num den =>
    if num = 0 then (x, env)
    else
      let q := Num.roundInt num den rm s d
      let env := if q * den = num then env else env.raise Num.fNX
      (if q = 0 then Num.zeroBits f s else (Num.encode f .rne (.fin s q 1) 0).1, env)

def execCvt (row : Fin 16) (g : Fin 4) (rm : Option Rounding) (d : Dst) (a : Src) (s : State) : Outcome :=
  fireTo s (.cvt row g rm d a) 4 d a fun r env =>
    let (f, h) := cvtPair row
    let m := rm.getD r.rm
    placeLanes f.bits h.bits g
      (if row.val ≥ 0xE then rintLane f m else cvtLane f h (cvtShape row).exact m) (r.v a) env

/-- Source format, result width and signedness of cvti's rows (R137). -/
def cvtiPair (row : Fin 11) : Num.Fp × Nat × Bool :=
  match row.val with
  | 0x0 => (.fp64, 64, true) | 0x1 => (.fp64, 64, false) | 0x2 => (.fp64, 32, true) | 0x3 => (.fp32, 32, true)
  | 0x4 => (.fp32, 32, false) | 0x5 => (.fp32, 64, true) | 0x6 => (.fp32, 16, true) | 0x7 => (.fp32, 8, true)
  | 0x8 => (.bf16, 16, true) | 0x9 => (.fp16, 16, true) | _ => (.fp32, 8, false)

/-- One lane of cvti: FloatToInt with its draw (R88, R137). -/
def cvtiLane (f : Num.Fp) (w : Nat) (sg : Bool) (rm : Rounding) (x : Nat) (env : Num.Env) : Nat × Num.Env :=
  let (d, env) := env.draw rm
  let (k, fl) := Num.floatToInt (Num.decode f x) w sg rm d
  (Num.wrap k w, env.raise fl)

def execCvti (row : Fin 11) (g : Fin 4) (rm : Option Rounding) (d : Dst) (a : Src) (s : State) : Outcome :=
  fireTo s (.cvti row g rm d a) 4 d a fun r env =>
    let (f, w, sg) := cvtiPair row
    placeLanes f.bits w g (cvtiLane f w sg (rm.getD r.rm)) (r.v a) env

/-- Source width and signedness, and result format, of cvtf's rows (R138). -/
def cvtfPair (row : Fin 11) : Nat × Bool × Num.Fp :=
  match row.val with
  | 0x0 => (64, true, .fp64) | 0x1 => (64, false, .fp64) | 0x2 => (32, true, .fp32) | 0x3 => (32, false, .fp32)
  | 0x4 => (32, true, .fp64) | 0x5 => (64, true, .fp32) | 0x6 => (16, true, .bf16) | 0x7 => (16, true, .fp16)
  | 0x8 => (8, true, .fp32) | 0x9 => (8, false, .fp32) | _ => (16, true, .fp32)

/-- One lane of cvtf: the exact integer encoded (R138). -/
def cvtfLane (w : Nat) (sg : Bool) (f : Num.Fp) (exact : Bool) (rm : Rounding) (x : Nat) (env : Num.Env) :
    Nat × Num.Env :=
  let v := Num.valInt (if sg then Num.toSigned x w else x)
  if exact then ((Num.encode f .rne v 0).1, env) else Num.enc f rm v env

def execCvtf (row : Fin 11) (g : Fin 4) (rm : Option Rounding) (d : Dst) (a : Src) (s : State) : Outcome :=
  fireTo s (.cvtf row g rm d a) 4 d a fun r env =>
    let (w, sg, f) := cvtfPair row
    placeLanes w f.bits g (cvtfLane w sg f (cvtfShape row).exact (rm.getD r.rm)) (r.v a) env

/-- The scale code of a block whose largest magnitude is m (R141). -/
def mxScale (f : MxFmt) (v : Num.Val) : Nat × Num.Flags :=
  match v with
  | .fin _ num den =>
    if num = 0 then (0, 0) else ((Num.clampI (Num.expo num den - Num.emaxElem f) (-127) 127 + 127).toNat, 0)
  | _ => (0xFF, Num.fNV)

def execQmxScale (f : MxFmt) (d : Dst) (a : Src) (s : State) : Outcome :=
  fireTo s (.qmxScale f d a) 4 d a fun r env =>
    let (c, fl) := mxScale f (Num.decode .fp32 ((r.v a).toNat % 2 ^ 32))
    (.ofNat 128 c, env.raise fl)

/-- One element of qmx.enc under the scale X (R141). -/
def qmxElem (f : MxFmt) (scale : Nat) (rm : Rounding) (x : Nat) (env : Num.Env) : Nat × Num.Env :=
  if scale = 0xFF then (0, env)
  else
    let v := Num.decode .fp32 x
    let y := v.scale2 (127 - (scale : Int))
    if f = .mxint8 then
      Num.mxElem f y rm (if v.isNaN || v.isInf then env.raise Num.fNV else env)
    else Num.mxElem f y rm (env.raise (Num.sigNV [v]))

def execQmxEnc (f : MxFmt) (d : Dst) (a b : Src) (s : State) : Outcome :=
  fireTo s (.qmxEnc f d a b) 4 d a fun r env =>
    let c := (r.v b).toNat
    let (es, env) := Num.mapEnv (qmxElem f (c % 256) r.rm) (lanes 32 (r.v a)) env
    (ofLanes 8 (List.replicate (4 * (c / 256 % 4)) 0 ++ es), env)

/-- dqmx: four elements decoded into FP32 under RNE (R142). -/
def execDqmx (f : MxFmt) (d : Dst) (a b : Src) (s : State) : Outcome :=
  fireTo s (.dqmx f d a b) 4 d a fun r env =>
    let c := (r.v b).toNat
    let es := ((lanes 8 (r.v a)).drop (4 * (c / 256 % 4))).take 4
    let (xs, env) := Num.mapEnv (fun x env =>
      Num.enc .fp32 .rne (Num.mxDecode f (c % 256) (x % 2 ^ Num.mxBits f)) env) es env
    (ofLanes 32 xs, env)

end Sys2Proof.Machine
end

