-- ==== Sys2Proof/Machine/Copy.lean ====
section
/-! DEFINITION. The copy engine's COPY (R200 to R204). -/

namespace Sys2Proof.Machine

open Sys2Proof

/-- The place of an index vector in the walk's order (R198). -/
def linearIx : List Nat → List Nat → Nat
  | c :: cs, i :: is => i + c * linearIx cs is
  | _, _ => 0

/-- The number of index vectors of a walk. -/
def walkSize (dims : List Nat) : Nat := dims.foldl (· * ·) 1

/-- The copy engine's faults in an access (R204, R212): access denied is 0x215, every other translation fault 0x214. -/
def cpCause (c : Cause) : Cause := if c = 0x091 ∨ c = 0x094 ∨ c = 0x096 then 0x215 else 0x214

/-- The read of n bytes one by one: the elements of the sub-byte formats lie across them (R89). -/
def readEach (s : State) (core port va : Nat) : Nat → State × Except EngFault (List Byte)
  | 0 => (s, .ok [])
  | n + 1 =>
    match engRead s core port va 1 .normal with
    | (s, .error f) => (s, .error f)
    | (s, .ok b) =>
      match readEach s core port (va + 1) n with
      | (s, .ok bs) => (s, .ok (b ++ bs))
      | x => x

/-- Bits of one element of a side's format. -/
def CopySide.bits (x : CopySide) : Nat := (x.fmt.map (·.bits)).getD (8 * x.ew)

/-- The source element at an index vector, and its scale byte (R201). -/
def copyFetch (s : State) (core : Nat) (x : CopySide) (scale : Nat) (dims ix : List Nat) : State × Except EngFault (Nat × Nat) :=
  if x.mx then
    let at_ := ix.headD 0 * x.bits
    match readEach s core 13 (walkAddr x.base x.strides ix + at_ / 8) ((at_ % 8 + x.bits + 7) / 8) with
    | (s, .error f) => (s, .error f)
    | (s, .ok bs) =>
      match engRead s core 13 (scale + linearIx dims ix / 32) 1 .normal with
      | (s, .error f) => (s, .error f)
      | (s, .ok sc) => (s, .ok (leNat bs / 2 ^ (at_ % 8) % 2 ^ x.bits, leNat sc))
  else
    match engRead s core 13 (walkAddr x.base x.strides ix) x.ew .normal with
    | (s, .error f) => (s, .error f)
    | (s, .ok bs) => (s, .ok (leNat bs, 0))

/-- The value of a source element, and the flags of reading it (R202). -/
def copyValue (x : CopySide) (e sc : Nat) : Num.Val × Num.Flags :=
  match x.fmt with
  | some f =>
    if x.mx then
      match f.mx with
      | some m => (Num.mxDecode m sc e, if sc = 0xFF then Num.fBNAN else 0)
      | none => (f.value e, 0)
    else (f.value e, Num.sigNV [f.value e])
  | none => (.fin false 0 1, 0)

/-- A destination element that is not in an MX block (R202). -/
def copyOut (srcInt : Bool) (f : Num.Fmt) (rm : Rounding) (v : Num.Val) (env : Num.Env) : Nat × Num.Env :=
  match f with
  | .fp g => Num.enc g rm v env
  | f =>
    let (d, env) := env.draw rm
    if srcInt then
      let k : Int := match v with | .fin n x _ => Num.sgn n x | _ => 0
      let (k, fl) := Num.satInt k f.bits true
      (Num.wrap k f.bits, env.raise fl)
    else
      let (k, fl) := Num.floatToInt v f.bits true rm d
      (Num.wrap k f.bits, env.raise fl)

/-- Bytes in pieces of eight, with their addresses. -/
def inEights (va : Nat) : Nat → List Byte → List (Nat × List Byte)
  | 0, _ => []
  | n + 1, bs => (va, bs.take 8) :: inEights (va + 8) n (bs.drop 8)

/-- Reads and converts n source elements from an index vector on: their values or bits. -/
def copySources (core : Nat) (c : CopyCmd) (dims : List Nat) : Nat → State → List Nat → Num.Flags →
    State × Except EngFault (List (Nat × Num.Val) × Num.Flags)
  | 0, s, _, fl => (s, .ok ([], fl))
  | n + 1, s, ix, fl =>
    match copyFetch s core (copySrc c) c.sscale.toNat dims ix with
    | (s, .error f) => (s, .error f)
    | (s, .ok (e, sc)) =>
      let (v, g) := if c.conv then copyValue (copySrc c) e sc else (.fin false 0 1, 0)
      match copySources core c dims n s (nextIx dims ix) (fl ||| g) with
      | (s, .ok (vs, fl)) => (s, .ok ((e, v) :: vs, fl))
      | x => x

/-- The writes of one unit of the destination: an element, or a block with its scale. -/
def copyWrites (c : CopyCmd) (dims ix : List Nat) (xs : List (Nat × Num.Val)) (env : Num.Env) : List (Nat × List Byte) × Num.Env :=
  let y := copyDst c
  let at_ := walkAddr y.base y.strides ix
  if !c.conv then ([(at_, leBytes y.ew (xs.headD (0, .fin false 0 1)).1)], env)
  else match y.fmt with
    | none => ([], env)
    | some f =>
      match (if y.mx then f.mx else none) with
      | some m =>
        let (sc, es, env) := Num.mxEncodeBlock m (xs.map (·.2)) c.rm env
        let bytes := 4 * f.bits
        let row := at_ + ix.headD 0 * f.bits / 8
        (inEights row (bytes / 8) (leBytes bytes (joinLanes f.bits es))
          ++ [(c.dscale.toNat + linearIx dims ix / 32, [.ofNat 8 sc])], env)
      | none =>
        let srcInt : Bool := !c.smx && ((copySrc c).fmt.map (·.isInt)).getD false
        let (b, env) := copyOut srcInt f c.rm (xs.headD (0, .fin false 0 1)).2 env
        ([(at_, leBytes y.ew b)], env)

/-- Destination elements of one unit. -/
def copyUnit (c : CopyCmd) : Nat := if c.dmx then 32 else 1

/-- The index vector n places on. -/
def advanceIx (dims : List Nat) : Nat → List Nat → List Nat
  | 0, ix => ix
  | n + 1, ix => advanceIx dims n (nextIx dims ix)

/-- The reads of the source element at an index vector (R201). -/
def copyReads (x : CopySide) (scale : Nat) (dims ix : List Nat) : List (Nat × Nat × Reuse) :=
  if x.mx then
    let at_ := ix.headD 0 * x.bits
    ((List.range ((at_ % 8 + x.bits + 7) / 8)).map fun i => (walkAddr x.base x.strides ix + at_ / 8 + i, 1, .normal))
      ++ [(scale + linearIx dims ix / 32, 1, .normal)]
  else [(walkAddr x.base x.strides ix, x.ew, .normal)]

/-- The reads of the next n source elements. -/
def copyAhead (c : CopyCmd) (dims : List Nat) : Nat → List Nat → List (Nat × Nat × Reuse)
  | 0, _ => []
  | n + 1, ix => copyReads (copySrc c) c.sscale.toNat dims ix ++ copyAhead c dims n (nextIx dims ix)

/-- A copy has written n more elements, with the generator and flags as they then stand. -/
def copied (s : State) (core : Nat) (dims : List Nat) (n : Nat) (env : Num.Env) : State :=
  let e := getEng s core 13
  setEng s core 13 { e with pos := advanceIx dims n e.pos, count := e.count + n, gen := env.sr, espf := e.espf ||| env.flags }

/-- A copy stops on a fault, or ends with a cause. -/
def copyBad (core : Nat) (s : State) : EngFault → State
  | .stop x va => stopEngine s core 13 (cpCause x) va
  | .ends x => let e := getEng s core 13; endCommand s core 13 e.espf.toNat e.count x
  | _ => s

/-- The unit at the engine's position, once its reads are answered: its writes, and the generator and flags after it. -/
def copyNext (s : State) (core : Nat) (c : CopyCmd) (dims : List Nat) : State × Except EngFault (List (Nat × List Byte) × Num.Env) :=
  let e := getEng s core 13
  match copySources core c dims (copyUnit c) s e.pos 0 with
  | (s, .error f) => (s, .error f)
  | (s, .ok (xs, fl)) =>
    let w := copyWrites c dims e.pos xs { flags := fl, sr := e.gen }
    match writesFault s core w.1 with
    | some f => (s, .error f)
    | none => (s, .ok w)

/-- Copies units from the engine's position on, as far as their reads are answered. -/
def copyRun (core : Nat) (c : CopyCmd) (dims : List Nat) : Nat → State → State
  | 0, s =>
    let e := getEng s core 13
    settleEngine (setEng s core 13 { e with final := some (e.count, 0) }) core 13
  | n + 1, s =>
    engStep s core 13 (copyNext s core c dims)
      (fun s w => copyRun core c dims n (copied (engStores s core 13 w.1) core dims (copyUnit c) w.2))
      (copyBad core)

/-- COPY (R200 to R204): from the start, or from the element at which it stopped or waited; up to 64 of its reads are outstanding. -/
def execCopy (c : CopyCmd) (s : State) : Outcome :=
  runCmd s fun core _ m =>
    let dims := copyDims c
    let e := getEng s core 13
    let e := if e.pos = [] then
        { e with state := 1, pos := dims.map fun _ => 0, pts := m.pts, gen := if c.seed = 0 then e.gen else c.seed }
      else { e with state := 1 }
    let left := walkSize dims - e.count
    let s := engAhead (setEng s core 13 e) core 13 (copyAhead c dims (min left 64) e.pos)
    copyRun core c dims (left / copyUnit c) s

end Sys2Proof.Machine
end

