-- ==== Sys2Proof/Machine/PnIx.lean ====
section
/-! DEFINITION. The partition network's CONF, GATHER and SCATTER (R206 to R209), and the intersection unit's MASK and
LIST (R210, R211). -/

namespace Sys2Proof.Machine

open Sys2Proof

/-! ## Commands that make tokens -/

/-- How far a command has come in a turn: the tokens it has made, how far it reads on, why it goes no further, and the cause with which it has
ended. -/
structure Progress where
  s : State
  toks : List OutTok := []
  tail : List Nat
  fault : Option EngFault := none
  ends : Option Cause := none

/-- Whether a command goes on in this turn: until it has made a token. -/
def Progress.more (r : Progress) : Bool := r.toks.isEmpty && r.fault.isNone

/-- The command's tokens wait for delivery, and with the last of them the command ends or stops. -/
def settleProgress (core port : Nat) (stopCause : Cause) (r : Progress) : State :=
  let e := { getEng r.s core port with state := 1, tail := r.tail }
  let made := r.toks.foldl (fun n t => n + t.units) e.count
  let e := match r.fault with
    | some (.ends c) => { e with final := some (made, c) }
    | some (.stop _ va) => { e with cause := stopCause, addr := .ofNat 64 va }
    | _ => match r.ends with | some c => { e with final := some (made, c) } | none => e
  let s := setEng r.s core port e
  let s := match r.fault with | some (.ask va n rc) => engAsk s core port va n rc | _ => s
  settleEngine (pushTokens s core port r.toks) core port

/-- How far a running command reads on: from what it holds, or from its position. -/
def tailOf (e : Engine) (start : List Nat) : List Nat := if e.tail = [] then start else e.tail

/-- A token of 32-bit lanes, the unused ones all ones (R210, R211). -/
def onesToken (xs : List Nat) (last : Bool) : Token :=
  ⟨.ofNat 128 (joinLanes 32 (xs ++ List.replicate (4 - xs.length) (2 ^ 32 - 1))), if last then 1 else 0⟩

/-! ## The partition network -/

/-- An indexed request of a core, or an update of its partition network, has not yet left the network: its radix walk goes on (R206, R207). -/
def inNetwork (s : State) (core : Nat) : Bool :=
  s.reqs.any fun e => e.2.core = core && (e.2.laneBits < 128 || e.2.unit = engUnit 14 || e.2.unit = leftUnit 14) &&
    e.2.parts.any fun p => match p.phase with | .translating _ => true | _ => false

/-- CONF (R207): it waits until every earlier request has left the network. -/
def execConf (lsel : Bool) (shift : BitVec 5) (s : State) : Outcome :=
  runCmd s fun core port m =>
    let c := getCore s core
    if inNetwork s core then s else finishCmd (setCore s core { c with laneSel := lsel, laneShift := shift.toNat }) core port 0 0 0 m.pts 1

/-- The bank lane of a translated request (R206, R207). -/
def bankLane (c : Core) (h : Home) (pa : Nat) : Nat :=
  if c.laneSel then pa / 2 ^ c.laneShift % 16
  else match h with
    | .cpad _ => pa / 16 % 16
    | .clus _ _ => pa / 256 % 16
    | .mpad b => b % 16
    | .slice n => n % 16
    | .remote m => m % 16
    | .host _ => pa / 128 % 16

/-- Index bytes, and the index that makes no request. -/
def iwBytes (w : Fin 2) : Nat := 4 * 2 ^ w.val
def noIndex (w : Fin 2) : Nat := 2 ^ (8 * iwBytes w) - 1

/-- An engine reads a number of n bytes. -/
def engNat (s : State) (core port va n : Nat) (rc : Reuse) : State × Except EngFault Nat :=
  match engRead s core port (va % 2 ^ 64) n rc with
  | (s, .ok bs) => (s, .ok (leNat bs))
  | (s, .error f) => (s, .error f)

/-- One position of a GATHER: the index, then its data. -/
def gatherOne (s : State) (core : Nat) (c : GatherCmd) (p : Nat) : State × Except EngFault Nat :=
  match engNat s core 14 (c.ibase.toNat + p * iwBytes c.iwl) (iwBytes c.iwl) .normal with
  | (s, .error f) => (s, .error f)
  | (s, .ok i) => if i = noIndex c.iwl then (s, .ok 0) else engNat s core 14 (c.dbase.toNat + i * 2 ^ c.ewl.val) (2 ^ c.ewl.val) c.rc

/-- Gathers up to n positions from p on, until a token is made; v is the token being built. -/
def gatherRun (core : Nat) (c : GatherCmd) : Nat → Nat → Nat → Progress → Progress
  | 0, _, _, r => r
  | n + 1, p, v, r =>
    let lanes := 16 / 2 ^ c.ewl.val
    match gatherOne r.s core c p with
    | (_, .error f) => { r with fault := some f, tail := [p, v] }
    | (s, .ok x) =>
      let v := v + x * 2 ^ (8 * 2 ^ c.ewl.val * (p % lanes))
      if n = 0 ∨ (p + 1) % lanes = 0 then
        { r with s := s, toks := [{ tok := ⟨.ofNat 128 v, if n = 0 then 1 else 0⟩, pos := [p + 1], units := 1 }], tail := [p + 1, 0],
                 ends := if n = 0 then some 0 else none }
      else gatherRun core c n (p + 1) v { r with s := s }

/-- The bytes of a read that has been answered. -/
def answeredBytes (fs : List Fetch) (va n : Nat) : Option (List Byte) :=
  match takeFetch fs va n with | some (.got bs _, _) => some bs | _ => none

/-- The reads ahead of a GATHER: the indices of the next positions, and the data of those whose index has come. -/
def gatherAhead (c : GatherCmd) (fs : List Fetch) (p n : Nat) : List (Nat × Nat × Reuse) :=
  (List.range n).flatMap fun k =>
    let a := (c.ibase.toNat + (p + k) * iwBytes c.iwl) % 2 ^ 64
    (a, iwBytes c.iwl, .normal) :: match answeredBytes fs a (iwBytes c.iwl) with
      | some bs => if leNat bs = noIndex c.iwl then [] else [((c.dbase.toNat + leNat bs * 2 ^ c.ewl.val) % 2 ^ 64, 2 ^ c.ewl.val, c.rc)]
      | none => []

/-- GATHER (R208): from its first position, or from the one at which it stopped or waited. -/
def execGather (c : GatherCmd) (s : State) : Outcome :=
  runCmd s fun core port m =>
    let e := getEng s core port
    let t := tailOf e [e.pos.headD 0, 0]
    let (p, v) := (t.headD 0, t.getD 1 0)
    let left := c.nidx.toNat - p
    let s := setEng s core port { e with state := 1, pos := if e.pos = [] then [0] else e.pos, pts := if e.pos = [] then m.pts else e.pts }
    let s := engAhead s core port (gatherAhead c (fetchesOf s core port) p (min left 32))
    settleProgress core port 0x242 (gatherRun core c left p v { s := s, tail := t })

/-- The index and value reads of n positions of a SCATTER group. -/
def scatterReads (core : Nat) (c : ScatterCmd) : Nat → Nat → State → State × Except EngFault (List (Nat × Nat))
  | 0, _, s => (s, .ok [])
  | n + 1, p, s =>
    match engNat s core 14 (c.ibase.toNat + p * iwBytes c.iwl) (iwBytes c.iwl) .normal with
    | (s, .error f) => (s, .error f)
    | (s, .ok i) =>
      match engNat s core 14 (c.vbase.toNat + p * 2 ^ c.ewl.val) (2 ^ c.ewl.val) .normal with
      | (s, .error f) => (s, .error f)
      | (s, .ok v) =>
        match scatterReads core c n (p + 1) s with
        | (s, .ok xs) => (s, .ok ((i, v) :: xs))
        | x => x

/-- Two values of one index (R209). -/
def combineDup (op : ScatterOp) (ew : Nat) (a b : Nat) : Nat :=
  match op with
  | .st => b
  | .add => (a + b) % 2 ^ (8 * ew)
  | .fadd => farFadd (if ew = 4 then .fp32 else .fp64) a b

/-- Duplicates combined onto their leaders, the lowest positions (R124, R209). -/
def leaders (op : ScatterOp) (ew none_ : Nat) (xs : List (Nat × Nat)) : List (Nat × Nat) :=
  xs.foldl (fun l x =>
    if x.1 = none_ then l
    else if l.any (·.1 = x.1) then l.map fun y => if y.1 = x.1 then (y.1, combineDup op ew y.2 x.2) else y
    else l ++ [x]) []

/-- The lane width of an update. -/
def laneWidthOf (ew : Nat) : LaneWidth := match ew with | 8 => .w64 | 4 => .w32 | 2 => .w16 | _ => .w8

def scatterOp (op : ScatterOp) (ew : Nat) : MemOp :=
  match op with | .st => .store | .add => .add (laneWidthOf ew) | .fadd => .fadd (laneWidthOf ew)

/-- The posted updates of a group (R152, R209): none while a repair queue they would need is full. -/
def postGroup (s : State) (core : Nat) (c : ScatterCmd) (xs : List (Nat × Nat)) : Option State :=
  let ew := 2 ^ c.ewl.val
  let op := scatterOp c.op ew
  let words : List (Nat × Nat × Nat × Quad × Quad) :=
    (List.zip (List.range xs.length) xs).map fun k => (k.1, (c.dbase.toNat + k.2.1 * ew) % 2 ^ 64, ew, .ofNat 128 k.2.2, 0)
  if mustHold s core (words.map fun w => lookUp s core w.2.1 ew (MemOp.use op)) then none
  else if words.isEmpty then some s
  else
    let id := s.nextReq
    let u : UnitId := ⟨core, engUnit 14⟩
    let m : MemSpec := { op := op, posted := true, words := words, sink := .nul }
    let r : Req := { core := core, unit := u.ix, slot := 0, op := op, posted := true, reuse := .normal, noalloc := false,
                     laneBits := 128, sink := .nul, parts := [], pts := engPts s core 14, update := true, born := s.cycle }
    some (words.foldl (fun s w => postPart s u id m w) { setReq s id r with nextReq := id + 1 })

/-- The reads of the group at position p. -/
def scatterAhead (c : ScatterCmd) (p n : Nat) : List (Nat × Nat × Reuse) :=
  (List.range n).flatMap fun k => [((c.ibase.toNat + (p + k) * iwBytes c.iwl) % 2 ^ 64, iwBytes c.iwl, .normal),
    ((c.vbase.toNat + (p + k) * 2 ^ c.ewl.val) % 2 ^ 64, 2 ^ c.ewl.val, .normal)]

/-- A SCATTER stops on a fault, or ends with a cause. -/
def scatterBad (core : Nat) (s : State) : EngFault → State
  | .stop _ va => stopEngine s core 14 0x242 va
  | .ends x => let e := getEng s core 14; endCommand s core 14 0 e.count x
  | _ => s

/-- Scatters groups from position p on, g of them at most, as far as their reads are answered. -/
def scatterRun (core : Nat) (c : ScatterCmd) : Nat → Nat → State → State
  | 0, _, s =>
    let e := getEng s core 14
    settleEngine (setEng s core 14 { e with final := some (e.count, 0) }) core 14
  | g + 1, p, s =>
    let n := min 16 (c.nidx.toNat - p)
    engStep s core 14 (scatterReads core c n p s)
      (fun t xs =>
        let ls := leaders c.op (2 ^ c.ewl.val) (noIndex c.iwl) xs
        match postGroup t core c ls with
        | none => s
        | some t =>
          let e := getEng t core 14
          scatterRun core c g (p + n) (setEng t core 14 { e with pos := [p + n], count := e.count + ls.length }))
      (scatterBad core)

/-- SCATTER (R209): from its first group, or from the one at which it stopped or waited. -/
def execScatter (c : ScatterCmd) (s : State) : Outcome :=
  runCmd s fun core port m =>
    let e := getEng s core port
    let p := e.pos.headD 0
    let s := setEng s core port { e with state := 1, pos := [p], pts := if e.pos = [] then m.pts else e.pts }
    let s := engAhead s core port (scatterAhead c p (min 16 (c.nidx.toNat - p)))
    scatterRun core c ((c.nidx.toNat - p + 15) / 16) p s

/-! ## The intersection unit -/

/-- The bases of a MASK's masks, each with its tree flag. -/
def maskBases (c : MaskCmd) : List (Nat × Bool) :=
  (List.zip [c.m0.toNat, c.m1.toNat, c.m2.toNat, c.m3.toNat] ((List.range 4).map fun n => c.tree.getLsbD n)).take (c.nm.val + 1)

/-- Set bits among the low n of a byte. -/
def bitsBelow (b n : Nat) : Nat := ((List.range n).filter fun k => b / 2 ^ k % 2 = 1).length

/-- Set bits of a tree mask's top array below bit k, from its byte j on. -/
def countTop (core base k : Nat) : Nat → Nat → State → State × Except EngFault Nat
  | 0, _, s => (s, .ok 0)
  | n + 1, j, s =>
    match engNat s core 15 (base + j) 1 .normal with
    | (s, .error f) => (s, .error f)
    | (s, .ok b) =>
      match countTop core base k n (j + 1) s with
      | (s, .ok r) => (s, .ok (r + bitsBelow b (min 8 (k - 8 * j))))
      | x => x

/-- Eight bits of a mask from bit i on, i a multiple of 8 (R210). -/
def maskByte (core len i : Nat) (m : Nat × Bool) (s : State) : State × Except EngFault Nat :=
  if !m.2 then engNat s core 15 (m.1 + i / 8) 1 .normal
  else
    let top := i / 64
    match engNat s core 15 (m.1 + top / 8) 1 .normal with
    | (s, .error f) => (s, .error f)
    | (s, .ok b) =>
      if b / 2 ^ (top % 8) % 2 = 0 then (s, .ok 0)
      else match countTop core m.1 top ((top + 7) / 8) 0 s with
        | (s, .error f) => (s, .error f)
        | (s, .ok r) => engNat s core 15 (m.1 + 8 * ((len + 4095) / 4096) + 8 * r + i % 64 / 8) 1 .normal

/-- Eight combined bits. -/
def maskBits (core len i : Nat) (isOr : Bool) : List (Nat × Bool) → State → State × Except EngFault Nat
  | [], s => (s, .ok (if isOr then 0 else 255))
  | m :: ms, s =>
    match maskByte core len i m s with
    | (s, .error f) => (s, .error f)
    | (s, .ok a) =>
      match maskBits core len i isOr ms s with
      | (s, .ok b) => (s, .ok (if isOr then a ||| b else a &&& b))
      | x => x

/-- The index a set bit emits. -/
def maskIndex (c : MaskCmd) (i : Nat) : Nat := (c.ibase.toNat + i) % 2 ^ 32

/-- Four found bits become a token when a fifth is found, for only then is it not the last. -/
def maskFound (c : MaskCmd) (r : Progress) (held : List Nat) (i : Nat) : Progress × List Nat :=
  if held.length = 4 then
    ({ r with toks := r.toks ++ [{ tok := onesToken (held.map (maskIndex c)) false, pos := [held.getLastD 0 + 1], units := 4 }] }, [i])
  else (r, held ++ [i])

/-- Scans up to n bytes of the masks from bit i on, until a token is made; held are the bits found and not yet in a token. -/
def maskRun (core : Nat) (c : MaskCmd) : Nat → Nat → List Nat → Progress → Progress
  | 0, i, held, r =>
    { r with toks := r.toks ++ [{ tok := onesToken (held.map (maskIndex c)) true, pos := [c.len.toNat], units := held.length }],
             tail := i :: held, ends := some 0 }
  | n + 1, i, held, r =>
    if !r.more then { r with tail := i :: held }
    else
      let i0 := i / 8 * 8
      match maskBits core c.len.toNat i0 c.isOr (maskBases c) r.s with
      | (_, .error f) => { r with fault := some f, tail := i :: held }
      | (s, .ok b) =>
        let found := (List.range 8).filter fun k => b / 2 ^ k % 2 = 1 && i ≤ i0 + k && i0 + k < c.len.toNat
        let (r, held) := found.foldl (fun (x : Progress × List Nat) k => maskFound c x.1 x.2 (i0 + k)) ({ r with s := s }, held)
        maskRun core c n (i0 + 8) held r

/-- MASK (R210). -/
def execMask (c : MaskCmd) (s : State) : Outcome :=
  runCmd s fun core port m =>
    let e := getEng s core port
    let t := tailOf e [e.pos.headD 0]
    let i := t.headD 0
    let s := setEng s core port { e with state := 1, pos := if e.pos = [] then [0] else e.pos, pts := if e.pos = [] then m.pts else e.pts }
    settleProgress core port 0x253 (maskRun core c ((c.len.toNat + 7) / 8 - i / 8) i (t.drop 1) { s := s, tail := t })

/-- Where the merge of a LIST stands: the positions, the elements there as far as they have been read, their predecessors, and the pairs found
and not yet in a token. -/
structure Merge where
  p : Nat
  q : Nat
  a : Option Nat := none
  b : Option Nat := none
  pa : Option Nat := none
  pb : Option Nat := none
  held : List Nat := []

/-- A merge as an engine keeps it between its turns. -/
def optNats : Option Nat → List Nat | some v => [1, v] | none => [0, 0]
def natsOpt (l : List Nat) (i : Nat) : Option Nat := if l.getD i 0 = 1 then some (l.getD (i + 1) 0) else none
def Merge.nats (m : Merge) : List Nat := [m.p, m.q] ++ optNats m.a ++ optNats m.b ++ optNats m.pa ++ optNats m.pb ++ m.held
def mergeOf (l : List Nat) : Merge :=
  { p := l.getD 0 0, q := l.getD 1 0, a := natsOpt l 2, b := natsOpt l 4, pa := natsOpt l 6, pb := natsOpt l 8, held := l.drop 10 }

/-- A list element the merge has reached, read unless it is known: its value, and whether it is not above its predecessor (R211). -/
def listElem (s : State) (core base p : Nat) (known prev : Option Nat) : State × Except EngFault (Nat × Bool) :=
  match known with
  | some v => (s, .ok (v, false))
  | none =>
    match engNat s core 15 (base + 4 * p) 4 .normal with
    | (s, .error f) => (s, .error f)
    | (s, .ok v) => (s, .ok (v, prev.any fun x => v ≤ x))

/-- The end token of a LIST. -/
def listEnd (r : Progress) (m : Merge) (cause : Cause) : Progress :=
  { r with toks := r.toks ++ [{ tok := onesToken m.held true, pos := [m.p, m.q], units := m.held.length / 2 }], tail := m.nats, ends := some cause }

/-- Two found pairs become a token when a third is found. -/
def listFound (r : Progress) (m : Merge) : Progress × Merge :=
  if m.held.length = 4 then
    ({ r with toks := r.toks ++ [{ tok := onesToken m.held false, pos := [m.held.getD 2 0 + 1, m.held.getD 3 0 + 1], units := 2 }] },
     { m with held := [m.p, m.q] })
  else (r, { m with held := m.held ++ [m.p, m.q] })

/-- Merges on, until a token is made. -/
def listRun (core : Nat) (c : ListCmd) : Nat → Merge → Progress → Progress
  | 0, m, r => if r.more then listEnd r m 0 else { r with tail := m.nats }
  | n + 1, m, r =>
    if !r.more then { r with tail := m.nats }
    else if m.p ≥ c.na.toNat ∨ m.q ≥ c.nb.toNat then listEnd r m 0
    else match listElem r.s core c.abase.toNat m.p m.a m.pa with
      | (_, .error f) => { r with fault := some f, tail := m.nats }
      | (s, .ok (x, badA)) =>
        if badA then listEnd { r with s := s } m 0x252
        else
          let m := { m with a := some x }
          match listElem s core c.bbase.toNat m.q m.b m.pb with
          | (_, .error f) => { r with s := s, fault := some f, tail := m.nats }
          | (s, .ok (y, badB)) =>
            let r := { r with s := s }
            if badB then listEnd r m 0x252
            else if x = y then
              let (r, m) := listFound r m
              listRun core c n { m with p := m.p + 1, q := m.q + 1, a := none, b := none, pa := some x, pb := some y } r
            else if x < y then listRun core c n { m with p := m.p + 1, a := none, b := some y, pa := some x } r
            else listRun core c n { m with q := m.q + 1, a := some x, b := none, pb := some y } r

/-- The predecessor of a list element, where there is one. -/
def listPrev (s : State) (core base p : Nat) : State × Except EngFault (Option Nat) :=
  if p = 0 then (s, .ok none)
  else match engNat s core 15 (base + 4 * (p - 1)) 4 .normal with
    | (s, .error f) => (s, .error f)
    | (s, .ok v) => (s, .ok (some v))

/-- The merge from a position on, its predecessors read again. -/
def mergeFrom (s : State) (core : Nat) (c : ListCmd) (p q : Nat) : State × Except EngFault Merge :=
  match listPrev s core c.abase.toNat p with
  | (s, .error f) => (s, .error f)
  | (s, .ok pa) =>
    match listPrev s core c.bbase.toNat q with
    | (s, .error f) => (s, .error f)
    | (s, .ok pb) => (s, .ok { p := p, q := q, pa := pa, pb := pb })

/-- LIST (R211). -/
def execList (c : ListCmd) (s : State) : Outcome :=
  runCmd s fun core port m =>
    let e := getEng s core port
    let s := setEng s core port { e with state := 1, pos := if e.pos = [] then [0, 0] else e.pos, pts := if e.pos = [] then m.pts else e.pts }
    let start : State × Except EngFault Merge :=
      if e.tail = [] then mergeFrom s core c (e.pos.headD 0) (e.pos.getD 1 0) else (s, .ok (mergeOf e.tail))
    settleProgress core port 0x253 (match start with
      | (_, .error f) => { s := s, tail := e.tail, fault := some f }
      | (s, .ok k) => listRun core c (c.na.toNat + c.nb.toNat - k.p - k.q + 1) k { s := s, tail := e.tail })

end Sys2Proof.Machine
end

