-- ==== Sys2Proof/Machine/Matrix.lean ====
section
/-! DEFINITION. The matrix node: its registers, completion and stops (R230, R233 to R239, R259), its operands (R236 to
R238), dense, sparse and cooperative products (R240 to R246, R257). -/

namespace Sys2Proof.Machine

open Sys2Proof

/-! ## Registers -/

def getMn (s : State) (core : Nat) : Node := (getCore s core).mn
def setMn (s : State) (core : Nat) (n : Node) : State := setCore s core { getCore s core with mn := n }

def Node.mode (n : Node) (b : Nat) : Nat := if b = 0 then n.mode0 else n.mode1
def Node.setMode (n : Node) (b m : Nat) : Node := if b = 0 then { n with mode0 := m } else { n with mode1 := m }
def Node.bank (n : Node) (b : Nat) : Tbl Byte := if b = 0 then n.acc0 else n.acc1
def Node.setBank (n : Node) (b : Nat) (t : Tbl Byte) : Node := if b = 0 then { n with acc0 := t } else { n with acc1 := t }

/-- Bytes of a bank element, and columns of a bank (R239). -/
def cellBytes (mode : Nat) : Nat := if mode = 1 then 8 else 4
def bankWidth (mode : Nat) : Nat := if mode = 1 then 80 else 160

/-- A bank element (R239). -/
def Node.cell (n : Node) (b i j : Nat) : Nat :=
  let k := cellBytes (n.mode b)
  leNat (Memory.readN (n.bank b) (640 * i + k * j) k)
def Node.setCell (n : Node) (b i j v : Nat) : Node :=
  let k := cellBytes (n.mode b)
  n.setBank b (Memory.writeN (n.bank b) (640 * i + k * j) (leBytes k v))

/-- The value of a bank element in its bank's mode. -/
def modeVal (mode v : Nat) : Num.Val :=
  match mode with | 0 => Num.decode .fp32 v | 1 => Num.decode .fp64 v | _ => Num.valInt (Num.toSigned v 32)
def Node.val (n : Node) (b i j : Nat) : Num.Val := modeVal (n.mode b) (n.cell b i j)

/-- FP32 bits of a value that is rounded once, with its flags. -/
def fp32Bits (v : Num.Val) (e : Num.Env) : Nat × Num.Env := Num.enc .fp32 .rne v e

/-- RMX and RSM (R247): −∞ and +0 where nothing is listed. -/
def Node.rmxVal (n : Node) (i : Nat) : Num.Val := Num.decode .fp32 (tget 0xff800000 n.rmx i).toNat
def Node.rsmVal (n : Node) (i : Nat) : Num.Val := Num.decode .fp32 (tget 0 n.rsm i).toNat
/-- A scalar register. -/
def Node.mcVal (n : Node) (i : Nat) : Num.Val := Num.decode .fp32 (tget 0 n.mc i).toNat

/-! ## Completion, CHAIN and stops -/

/-- Raises an operation's flags. -/
def mnFlags (s : State) (core : Nat) (f : BitVec 7) : State :=
  let n := getMn s core
  setMn s core { n with opFlags := n.opFlags ||| f }

/-- Bits of a token. -/
def tokBit (m : Cmd) (n : Nat) : Bool := bit (pw m.packet 0) n

/-- The lines of an operation are given up, and their pins released (R242). -/
def dropLines (s : State) (core : Nat) : State :=
  let s := (fetchesOf s core 12).foldl (fun s f =>
    match f.pin, f.home with
    | true, some (.slice n) =>
      let sl := getSlice s n
      (match sl.anyLine (f.pa / 128) with
        | some (k, l) => setSlice s n { sl with lines := tput sl.lines k { l with pin := l.pin - 1 } }
        | none => s)
    | _, _ => s) s
  setFetches s core 12 []

/-- The head token completes after a number of cycles: a CHAIN token's cause and flags wait for the next token of its
issuer (R230, R234, R235); ACT falls (R270). -/
def finishMn (s : State) (core count cause after : Nat) : State :=
  match headCmd s core 12 with
  | none => s
  | some m =>
    let n := getMn s core
    let (c0, f0) : Cause × BitVec 7 := tget (0, 0) n.chains m.unit
    let fl := n.opFlags ||| f0
    let all := if c0 ≠ 0 then c0 else cause
    let chain := tokBit m 45
    let bytes := n.opBytes
    let n := { n with flg := n.flg ||| n.opFlags, last := if cause ≠ 0 then cause else n.last, tokens := n.tokens + 1,
                      active := false, next := 0, count := 0, opFlags := 0, opBytes := 0, tolerance := false, matched := false,
                      coopSince := none, stopped := 0, cause := 0, addr := 0, part := false, busy := s.cycle + after, base := 0, work := 0,
                      col := 0, undo := none, itstat := n.itstat &&& ~~~0x100,
                      chains := if chain then tput n.chains m.unit (all, fl) else tdel n.chains m.unit }
    let s := dropHead (dropLines (setMn s core n) core) core 12
    if chain then s
    else sendCompletion s core 12 m (fl.toNat + bytes % 2 ^ 16 * 2 ^ 16) count all (getEng s core 12).pts (s.cycle + after)

/-- An operation that ends at once with a cause changes nothing (R234). -/
def refuseMn (s : State) (core cause : Nat) : State := finishMn s core 0 cause 16

/-- The node stops on a fault, at a point from which RESUME goes on (R259). -/
def stopMn (s : State) (core : Nat) (cause : Cause) (va count : Nat) : State :=
  let n := getMn s core
  let s := dropLines (setMn s core { n with stopped := 1, cause := cause, addr := .ofNat 64 va, active := true, count := count, part := false, undo := none }) core
  raisePort s core 12 cause (.ofNat 64 va) (.ofNat 128 count)

/-- The banks as the operation found them (R234). -/
def Node.undone (n : Node) : Node := match n.undo with | some (a, b) => { n with acc0 := a, acc1 := b } | none => n

/-- What an operation meets while it reads or writes: data that has not come, for which it waits; a stop; or a cause that ends it, with
nothing changed in the banks unless it has been stopped (R234). -/
def mnFault (s : State) (core count : Nat) : EngFault → State
  | .stop c va => if engBusy s core 12 then s else stopMn s core c va count
  | .ends c => if engBusy s core 12 then s else finishMn (setMn s core (getMn s core).undone) core count c 16
  | _ => s

/-- The node takes its next turn in the same cycle. -/
def mnAgain (s : State) (core : Nat) : State := { s with agenda := .engine core 12 :: s.agenda }

/-- Runs the token at the head of a matrix node's queue: the core, the token, its node with the operation begun. Its reads follow what its
carrying instruction depended on and the accesses of every earlier token (R261). -/
def runMn (s : State) (f : State → Nat → State) : Outcome :=
  runCmd s fun core _ m =>
    let n := getMn s core
    let s := if n.active then s
      else setEng (setMn s core { n with active := true, next := 0, count := 0, opFlags := 0, opBytes := 0, tolerance := false, part := false,
                                         base := 0, work := 0, col := 0, undo := some (n.acc0, n.acc1) }) core 12
        { getEng s core 12 with pts := tsMax (getEng s core 12).pts m.pts }
    f s core

/-- A part of the operation begins, and takes a number of cycles. -/
def beginPart (s : State) (core cyc : Nat) : State :=
  setMn s core { getMn s core with part := true, busy := s.cycle + cyc }

/-- Runs a part that takes a number of cycles: it begins, and when its time is over `act` is what it does. -/
def runPart (s : State) (core cyc : Nat) (act : State → State) : State :=
  let n := getMn s core
  if n.part then (if s.cycle < n.busy then s else act (setMn s core { n with part := false }))
  else beginPart s core cyc

/-! ## Operands -/

/-- A descriptor (R236). -/
structure Operand where
  base : Nat
  aux1 : Nat
  aux2 : Nat
  pitch : Nat
  fmt : Num.Fmt
  sp : Nat
  lay : Nat
  bsz : Nat
  ix : Nat
deriving DecidableEq, Repr

def dfield (d : BitVec 256) (hi lo : Nat) : Nat := d.toNat / 2 ^ lo % 2 ^ (hi + 1 - lo)

def operandOf (d : BitVec 256) : Operand :=
  { base := dfield d 63 0, aux1 := dfield d 127 64, aux2 := dfield d 191 128, pitch := dfield d 223 192,
    fmt := (Num.fmtOf (dfield d 228 224)).getD (.fp .fp64), sp := dfield d 230 229, lay := dfield d 232 231,
    bsz := 8 * 2 ^ dfield d 234 233, ix := if dfield d 235 235 = 1 then 8 else 4 }

def Node.operand (n : Node) (k : Fin 16) : Operand := operandOf (tget 0 n.md k)

def Operand.bankNo (x : Operand) : Nat := x.base % 2
def Operand.row0 (x : Operand) : Nat := x.base / 2 ^ 8 % 2 ^ 7
def Operand.col0 (x : Operand) : Nat := x.base / 2 ^ 16 % 2 ^ 8
def Operand.eb (x : Operand) : Nat := x.fmt.bits / 8

/-- A format whose elements stand in blocks (R238). -/
def blockFmt : Num.Fmt → Bool | .dx _ => true | .mxint8 => true | _ => false

/-- The format that names a bank's mode (R237). -/
def modeFmt (mode : Nat) : Num.Fmt := match mode with | 0 => .fp .fp32 | 1 => .fp .fp64 | _ => .int32

/-- A bank operand of R rows and C columns that does not suit its bank's mode or its size (R237). -/
def Operand.badBank (x : Operand) (n : Node) (r c : Nat) : Bool :=
  let mode := n.mode x.bankNo
  let (r, c) := if x.lay = 1 then (c, r) else (r, c)
  x.sp = 2 && (x.fmt ≠ modeFmt mode || x.row0 + r > 96 || x.col0 + c > bankWidth mode)

/-- The causes of R259 for those of a translation: 0x188 denied or wrong space, 0x187 not mapped. -/
def mnCause (c : Cause) : Cause := if c = 0x091 ∨ c = 0x094 ∨ c = 0x096 ∨ c = 0x3A1 ∨ c = 0x3A2 then 0x188 else 0x187

/-- Whether an access reaches the space its descriptor names (R236, R237). -/
def inSpace (sp : Nat) (h : Home) : Bool :=
  match h with | .slice _ => sp = 0 | .mpad _ => sp = 1 | _ => false

/-- Where an access of the node goes, or its fault. -/
def mnRoute (s : State) (core sp va n : Nat) (use : Use) : Except EngFault Route :=
  if va ≥ 2 ^ 56 then .error (.stop 0x187 va)
  else match lookUp s core va n use with
    | .fault _ c => .error (if c = 0x097 then .ends 0x097 else .stop (mnCause c) va)
    | .ok r => if inSpace sp r.home then .ok r else .error (.stop 0x188 va)

/-- A read that an operation needs: the space, the address, the bytes. -/
abbrev TileRead := Nat × Nat × Nat

/-- Cores whose node takes part in the cooperative product that a core's node runs (R257). -/
def coopPartners (s : State) (core : Nat) : List Nat :=
  if (getMn s core).matched then
    ((List.range 16).map fun i => core / 16 * 16 + i).filter fun k => k ≠ core && (getMn s k).matched
      && (headCmd s k 12).map (fun m => fld (pw m.packet 0) 127 96) = (headCmd s core 12).map fun m => fld (pw m.packet 0) 127 96
  else []

/-- The lines that an operation has read or asked for: each line once, a cooperative product's for all its cores (R242, R257). -/
def tileLines (s : State) (core : Nat) : List Fetch := fetchesOf s core 12 ++ (coopPartners s core).flatMap fun k => fetchesOf s k 12

def lineOf (s : State) (core : Nat) (r : Route) : Option Fetch :=
  (tileLines s core).find? fun f => f.home = some r.home && f.pa = r.pa / 128 * 128

/-- The tile fetch unit asks for a line (R242, R299). -/
def askLine (s : State) (core va : Nat) (r : Route) : State :=
  let id := s.nextReq
  let line := r.pa / 128 * 128
  let (s, p) := sendPart s core 32 0 va 128 0 0 .read .normal false (walkCycles s core va .read) { r with pa := line }
  let s := { setReq s id { engReq s core 12 .load .normal with parts := [p] } with nextReq := id + 1 }
  setFetches s core 12 (fetchesOf s core 12 ++ [{ va := va, n := 128, req := id, ans := .waiting, pa := line, home := some r.home }])

/-- One node holds at most 1,024 pins, and those it has asked for (R242). -/
def tileFull (s : State) (core : Nat) : Bool := ((fetchesOf s core 12).filter fun f => f.pin || f.ans = .waiting).length ≥ 1024

/-- The line of a read is asked for, unless it has been, or the read faults: that is met when the operation comes to it. -/
def needLine (s : State) (core : Nat) (x : TileRead) : State :=
  match mnRoute s core x.1 x.2.1 x.2.2 .read with
  | .error _ => s
  | .ok r => if (lineOf s core r).isSome ∨ tileFull s core then s else askLine s core x.2.1 r

def needLines (s : State) (core : Nat) (xs : List TileRead) : State := xs.foldl (fun s x => needLine s core x) s

/-- The reads of the parts that lie ahead are asked for, part by part, as far as the limits allow. -/
def needParts (core : Nat) (needs : Nat → List TileRead) : Nat → Nat → State → State
  | 0, _, s => s
  | k + 1, b, s => if tileFull s core then s else needParts core needs k (b + 1) (needLines s core (needs b))

/-- Pins of lines that no later part needs are released (R242). -/
def releasePins (s : State) (core : Nat) (later : List TileRead) : State :=
  let kept := later.filterMap fun x => match mnRoute s core x.1 x.2.1 x.2.2 .read with | .ok r => some (r.pa / 128) | .error _ => none
  (fetchesOf s core 12).foldl (fun s f =>
    match f.pin && !kept.contains (f.pa / 128), f.home with
    | true, some (.slice n) =>
      let sl := getSlice s n
      let s := match sl.anyLine (f.pa / 128) with
        | some (k, l) => setSlice s n { sl with lines := tput sl.lines k { l with pin := l.pin - 1 } }
        | none => s
      setFetches s core 12 ((fetchesOf s core 12).map fun g => if g.req = f.req then { g with pin := false } else g)
    | _, _ => s) s

/-- The node reads n bytes at a virtual address in a space, from the line that holds them. -/
def mnRead (s : State) (core sp va n : Nat) : State × Except EngFault (List Byte) :=
  match mnRoute s core sp va n .read with
  | .error f => (s, .error f)
  | .ok r =>
    match lineOf s core r with
    | none => (s, .error (.ask va n .normal))
    | some f =>
      match f.ans with
      | .waiting => (s, .error .wait)
      | .got bs ts => (engSaw s core 12 ts, .ok ((bs.drop (r.pa % 128)).take n))
      | .fault g => (s, .error g)

/-- The reads for a number of n bytes: byte by byte where it is not aligned. -/
def needNat (sp va n : Nat) : List TileRead :=
  let va := va % 2 ^ 64
  if va % n = 0 then [(sp, va, n)] else (List.range n).map fun i => (sp, va + i, 1)

/-- The node reads a number of n bytes, byte by byte where it is not aligned. -/
def mnNat (s : State) (core sp va n : Nat) : State × Except EngFault Nat :=
  let va := va % 2 ^ 64
  let rec go : Nat → Nat → State → State × Except EngFault Nat
    | 0, _, s => (s, .ok 0)
    | k + 1, a, s =>
      match mnRead s core sp a 1 with
      | (s, .error f) => (s, .error f)
      | (s, .ok b) =>
        match go k (a + 1) s with
        | (s, .ok v) => (s, .ok (leNat b + 256 * v))
        | x => x
  if va % n = 0 then
    match mnRead s core sp va n with
    | (s, .error f) => (s, .error f)
    | (s, .ok bs) => (s, .ok (leNat bs))
  else go n va s

/-- The cache format of a DX kind (R300). -/
def dxCode : Num.Dx → Nat | .dx8 => 2 | .dx6 => 3 | .dx4 => 4
/-- Blocks of a DX line (R92). -/
def dxBlocks : Num.Dx → Nat | .dx8 => 4 | .dx6 => 5 | .dx4 => 8

/-- Whether a physical line lies in a format window that holds lines of a DX format (R238). -/
def dxLine (s : State) (pa : Nat) (d : Num.Dx) : Bool :=
  match findView s.fw (pa / 128) with | some (_, fw, _) => spaceOf pa = .view && fw.cfmt.toNat = dxCode d | none => false

/-- A DX line's bytes and its sidecar. -/
def readDxLine (s : State) (core sp va : Nat) (d : Num.Dx) : State × Except EngFault (List Byte × List Byte) :=
  match mnRoute s core sp va 128 .read with
  | .error f => (s, .error f)
  | .ok r =>
    if !dxLine s r.pa d then (s, .error (.ends 0x189))
    else match lineOf s core r with
      | none => (s, .error (.ask va 128 .normal))
      | some f =>
        match f.ans with
        | .waiting => (s, .error .wait)
        | .got bs ts => (engSaw s core 12 ts, .ok (bs.take 128, bs.drop 128))
        | .fault g => (s, .error g)

/-- The reads for element (r, c) of an operand (R238). -/
def Operand.needs (x : Operand) (r c : Nat) : List TileRead :=
  let (run, pos) := if x.lay = 1 then (c, r) else (r, c)
  if x.sp = 2 then []
  else match x.fmt with
    | .dx d => [(x.sp, x.base + run * x.pitch + pos / 32 / dxBlocks d * 128, 128)]
    | .mxint8 => needNat x.sp (x.base + run * x.pitch + pos) 1 ++ needNat x.sp (x.aux1 + run * x.pitch / 32 + pos / 32) 1
    | _ => needNat x.sp (x.base + run * x.pitch + pos * x.eb) x.eb

/-- The reads for m rows from row r on, n elements of each from column c on. -/
def Operand.gridNeeds (x : Operand) (c n r m : Nat) : List TileRead :=
  (List.range m).flatMap fun i => (List.range n).flatMap fun j => x.needs (r + i) (c + j)

/-- Element (r, c) of an operand: its value, and the flags of reading it (R238, R89, R93). -/
def fetchElem (s : State) (core : Nat) (x : Operand) (r c : Nat) : State × Except EngFault (Num.Val × Num.Flags) :=
  let (run, pos) := if x.lay = 1 then (c, r) else (r, c)
  if x.sp = 2 then (s, .ok ((getMn s core).val x.bankNo (x.row0 + run) (x.col0 + pos), 0))
  else match x.fmt with
    | .dx d =>
      let b := pos / 32
      match readDxLine s core x.sp (x.base + run * x.pitch + b / dxBlocks d * 128) d with
      | (s, .error f) => (s, .error f)
      | (s, .ok (bs, side)) =>
        let j := b % dxBlocks d
        let e := leNat ((bs.drop (4 * d.bits * j)).take (4 * d.bits)) / 2 ^ (d.bits * (pos % 32)) % 2 ^ d.bits
        (s, .ok (Num.dxDecode d (side.getD (2 * j) 0).toNat (side.getD (2 * j + 1) 0).toNat e, 0))
    | .mxint8 =>
      match mnNat s core x.sp (x.base + run * x.pitch + pos) 1 with
      | (s, .error f) => (s, .error f)
      | (s, .ok e) =>
        match mnNat s core x.sp (x.aux1 + run * x.pitch / 32 + pos / 32) 1 with
        | (s, .error f) => (s, .error f)
        | (s, .ok sc) => (s, .ok (Num.mxDecode .mxint8 sc e, if sc = 0xFF then Num.fBNAN else 0))
    | f =>
      match mnNat s core x.sp (x.base + run * x.pitch + pos * x.eb) x.eb with
      | (s, .error f) => (s, .error f)
      | (s, .ok e) => (s, .ok (f.value e, Num.sigNV [f.value e]))

/-- How elements are read: by row and column. -/
abbrev Getter := State → Nat → Nat → State × Except EngFault (Num.Val × Num.Flags)

/-- n elements of a row from column c on. -/
def fetchRow (get : Getter) (r : Nat) : Nat → Nat → State → State × Except EngFault (List Num.Val × Num.Flags)
  | 0, _, s => (s, .ok ([], 0))
  | n + 1, c, s =>
    match get s r c with
    | (s, .error f) => (s, .error f)
    | (s, .ok (v, fl)) =>
      match fetchRow get r n (c + 1) s with
      | (s, .ok (vs, gl)) => (s, .ok (v :: vs, fl ||| gl))
      | x => x

/-- m rows from row r on, n elements of each from column c on. -/
def fetchGrid (get : Getter) (c n : Nat) : Nat → Nat → State → State × Except EngFault (List (List Num.Val) × Num.Flags)
  | 0, _, s => (s, .ok ([], 0))
  | m + 1, r, s =>
    match fetchRow get r n c s with
    | (s, .error f) => (s, .error f)
    | (s, .ok (vs, fl)) =>
      match fetchGrid get c n m (r + 1) s with
      | (s, .ok (vss, gl)) => (s, .ok (vs :: vss, fl ||| gl))
      | x => x

/-- The reads of B for a block: its columns, each with the elements of the block's K indices. -/
def transposed (get : Getter) : Getter := fun s r c => get s c r

/-! ## Dense products (R240 to R243) -/

/-- The bank mode of a product's format, none where it is not accepted (R240). -/
def productMode : Num.Fmt → Option Nat
  | .fp .fp64 => some 1
  | .int8 => some 2
  | .fp .fp32 | .fp .bf16 | .fp .fp16 | .dx _ | .mxint8 => some 0
  | _ => none

/-- One block of a product into an accumulator element's bits (R99, R100, R102, R241). -/
def productStep (mode : Nat) (split : Bool) (old : Nat) (as bs : List Num.Val) (e : Num.Env) : Nat × Num.Env :=
  match mode with
  | 1 =>
    let (v, e) := (List.zip as bs).foldl (fun (a : Num.Val × Num.Env) p => Num.fp64Step a.1 p.1 p.2 a.2) (Num.decode .fp64 old, e)
    ((Num.encode .fp64 .rne v 0).1, e)
  | 0 =>
    let ps := if split then (List.zip as bs).flatMap fun p => Num.splitProducts p.1 p.2
      else List.zipWith Num.blockProduct as bs
    let (v, e) := Num.blockStep (Num.decode .fp32 old) ps e
    ((Num.encode .fp32 .rne v 0).1, e)
  | _ =>
    let sum := (List.zip as bs).foldl (fun (n : Int) p =>
      match p.1, p.2 with | .fin a x _, .fin b y _ => n + Num.sgn a x * Num.sgn b y | _, _ => n) 0
    (Num.wrap ((old : Int) + sum) 32, e)

/-- Adds one block into a bank for the given rows: C(i, j) <- step(C(i, j)). -/
def addBlock (b mode : Nat) (split zero : Bool) (place : Nat → Nat → Nat × Nat) (rows : List (Nat × List Num.Val))
    (cols : List (Nat × List Num.Val)) (x : Node × Num.Env) : Node × Num.Env :=
  rows.foldl (fun x r => cols.foldl (fun (x : Node × Num.Env) c =>
    let (i, j) := place r.1 c.1
    let (v, e) := productStep mode split (if zero then 0 else x.1.cell b i j) r.2 c.2 x.2
    (x.1.setCell b i j v, e)) x) x

/-- A list with its places. -/
def numbered {α : Type} (xs : List α) : List (Nat × α) := List.zip (List.range xs.length) xs

/-- Work per cycle: cycles of W multiply-adds (R240). -/
def productCycles (f : Num.Fmt) (w : Nat) : Nat :=
  match f with
  | .fp .fp64 => (w + 255) / 256
  | .fp .fp32 => (6 * w + 4095) / 4096
  | .fp _ => (w + 4095) / 4096
  | .dx .dx4 => (w + 16383) / 16384
  | _ => (w + 8191) / 8192

/-- An operation that reads all it needs before it writes anything (R259): its lines are asked for; once they have come it works for a number
of cycles, and then acts with what it has read. -/
def wholeOp {α : Type} (s : State) (core cyc : Nat) (needs : List TileRead) (get : State → State × Except EngFault α) (act : State → α → State) : State :=
  let s := needLines s core needs
  match get s with
  | (_, .error f) => mnFault s core (getMn s core).count f
  | (t, .ok a) => if (getMn s core).part then runPart t core cyc fun t => act t a else beginPart s core cyc

/-- Two grids of operands, with the flags of reading them. -/
def fetchPair (f g : State → State × Except EngFault (List (List Num.Val) × Num.Flags)) (s : State) :
    State × Except EngFault (List (List Num.Val) × List (List Num.Val) × Num.Flags) :=
  match f s with
  | (s, .error e) => (s, .error e)
  | (s, .ok (as, fa)) =>
    match g s with
    | (s, .error e) => (s, .error e)
    | (s, .ok (bs, fb)) => (s, .ok (as, bs, fa ||| fb))

/-- A product in progress: where it adds, how elements of A and B are read, and for each block its reads and its multiply-adds. -/
structure Product where
  bank : Nat
  m : Nat
  n : Nat
  k : Nat
  acc : Bool
  mode : Nat
  split : Bool
  fmt : Num.Fmt
  place : Nat → Nat → Nat × Nat
  getA : Getter
  getB : Getter
  needs : Nat → List TileRead
  count : Nat → Nat

/-- Blocks of a product. -/
def Product.blocks (p : Product) : Nat := (p.k + 31) / 32

/-- Indices of K in a block. -/
def Product.width (p : Product) (blk : Nat) : Nat := min 32 (p.k - 32 * blk)

/-- The values of a block: rows of A, columns of B, and the flags of reading them. -/
def productBlock (s : State) (p : Product) (blk : Nat) : State × Except EngFault (List (List Num.Val) × List (List Num.Val) × Num.Flags) :=
  fetchPair (fetchGrid p.getA (32 * blk) (p.width blk) p.m 0) (fetchGrid (transposed p.getB) (32 * blk) (p.width blk) p.n 0) s

/-- The node begins w more multiply-adds: it works on them from the end of those before, or from now where it has had to wait (R240, R243). -/
def Node.begins (n : Node) (cycle w : Nat) (f : Num.Fmt) : Node :=
  let base := if cycle > n.base + productCycles f n.work then cycle - productCycles f n.work else n.base
  { n with part := true, base := base, work := n.work + w, busy := base + productCycles f (n.work + w) }

/-- What comes after a block: the pins it alone needed are released, and the node goes on with the next, or ends (R242, R260). -/
def afterBlock (s : State) (core blocks : Nat) (needs : Nat → List TileRead) (count : Nat) : State :=
  let n := getMn s core
  if n.next ≥ blocks then finishMn s core count 0 16
  else mnAgain (releasePins s core ((List.range (blocks - n.next)).flatMap fun i => needs (n.next + i))) core

/-- A turn of a product: its next block begins once its lines have come, and is added when its time is over; a fault stops it there (R259). -/
def productTurn (core : Nat) (p : Product) (s : State) : State :=
  let blk := (getMn s core).next
  let s := needParts core p.needs (p.blocks - blk) blk s
  match productBlock s p blk with
  | (_, .error f) => mnFault s core (p.count blk) f
  | (t, .ok (as, bs, fl)) =>
    let n := getMn t core
    let n := if n.part then n else n.begins s.cycle (p.m * p.n * p.width blk) p.fmt
    if s.cycle < n.busy then setMn s core n
    else
      let (n, e) := addBlock p.bank p.mode p.split (blk = 0 && !p.acc) p.place (numbered as) (numbered bs) (n, { flags := fl })
      afterBlock (mnFlags (setMn t core { n with next := blk + 1, part := false }) core e.flags) core p.blocks p.needs (p.count (blk + 1))

/-- Causes with which a dense product ends when it starts (R237 to R240). -/
def denseFaults (n : Node) (a b : Operand) (bank m nn k width : Nat) : List (Bool × Cause) :=
  let mode := productMode a.fmt
  [(a.fmt ≠ b.fmt || mode.isNone, 0x183),
   (mode.isSome && mode ≠ some (n.mode bank), 0x185), (n.mode bank = 1 && width > 80, 0x185),
   ((a.sp = 2 && a.bankNo = bank) || (b.sp = 2 && b.bankNo = bank), 0x185),
   (blockFmt a.fmt && (k % 32 ≠ 0 || a.lay ≠ 0 || b.lay ≠ 1), 0x189), (a.lay ≥ 2 || b.lay ≥ 2, 0x189),
   (a.badBank n m k || b.badBank n k nn, 0x189)]

/-- The reads of a block of a dense product: rows ra on of A, columns cb on of B. -/
def blockNeeds (a b : Operand) (ra m cb n k blk : Nat) : List TileRead :=
  let w := min 32 (k - 32 * blk)
  a.gridNeeds (32 * blk) w ra m ++ b.gridNeeds cb n (32 * blk) w

/-- A turn of a dense product of M × K by K × N. -/
def denseProduct (s : State) (core : Nat) (t : MnTok) (m nn : Nat) (place : Nat → Nat → Nat × Nat) (a b : Operand) : State :=
  let k := t.k.toNat
  productTurn core
    { bank := t.bank, m := m, n := nn, k := k, acc := t.acc, mode := (productMode a.fmt).getD 0, split := a.fmt = .fp .fp32, fmt := a.fmt,
      place := place, getA := fun s r c => fetchElem s core a r c, getB := fun s r c => fetchElem s core b r c,
      needs := blockNeeds a b 0 m 0 nn k, count := id } s

/-- A check that runs when an operation starts, and not when it resumes. -/
def whenStarting (s : State) (core : Nat) (fs : List (Bool × Cause)) (go : State → State) : State :=
  if (getMn s core).next ≠ 0 then go s
  else match lowestCause fs with | some c => refuseMn s core c | none => go s

/-- DROW and DCOL (R241). -/
def dRow (t : MnTok) : Nat := t.opf.toNat % 128
def dCol (t : MnTok) : Nat := t.opf.toNat / 256 % 256

/-- MMA (R241). -/
def execMma (t : MnTok) (s : State) : Outcome :=
  runMn s fun s core =>
    let n := getMn s core
    let (a, b) := (n.operand t.mda, n.operand t.mdb)
    whenStarting s core (denseFaults n a b t.bank t.m.toNat t.n.toNat t.k.toNat (dCol t + t.n.toNat)) fun s =>
      denseProduct s core t t.m.toNat t.n.toNat (fun i j => (dRow t + i, dCol t + j)) a b

/-- MMAT (R241): the result is transposed. -/
def execMmat (t : MnTok) (s : State) : Outcome :=
  runMn s fun s core =>
    let n := getMn s core
    let (a, b) := (n.operand t.mda, n.operand t.mdb)
    whenStarting s core (denseFaults n a b t.bank t.m.toNat t.n.toNat t.k.toNat (dCol t + t.m.toNat)) fun s =>
      denseProduct s core t t.m.toNat t.n.toNat (fun i j => (dRow t + j, dCol t + i)) a b

/-! ## Sparse products (R244 to R246) -/

/-- Reads n numbers of w bytes. -/
def mnNats (core sp w : Nat) : Nat → Nat → State → State × Except EngFault (List Nat)
  | 0, _, s => (s, .ok [])
  | n + 1, va, s =>
    match mnNat s core sp va w with
    | (s, .error f) => (s, .error f)
    | (s, .ok v) =>
      match mnNats core sp w n (va + w) s with
      | (s, .ok vs) => (s, .ok (v :: vs))
      | x => x

/-- Whether a list never falls. -/
def nondecreasing : List Nat → Bool
  | a :: b :: t => a ≤ b && nondecreasing (b :: t)
  | _ => true

/-- One run of at most 32 terms of a sparse product (R244, R245): its block row, its terms as place of the block, row of B
and k′, whether it begins its block row, and whether it ends it. -/
structure SparseRun where
  brow : Nat
  terms : List (Nat × Nat × Nat)
  first : Bool
  last : Bool

/-- Pieces of 32, at least one. -/
def pieces32 {α : Type} (xs : List α) : List (List α) :=
  (List.range (max 1 ((xs.length + 31) / 32))).map fun i => (xs.drop (32 * i)).take 32

/-- The runs of a sparse product, in order. -/
def sparseRuns (bs : Nat) (rp cols : List Nat) : List SparseRun :=
  let base := rp.headD 0
  (List.range (rp.length - 1)).flatMap fun i =>
    let (lo, hi) := (rp.getD i 0, rp.getD (i + 1) 0)
    let terms := (List.range (hi - lo)).flatMap fun q =>
      (List.range bs).map fun k => (lo + q, cols.getD (lo + q - base) 0 * bs + k, k)
    let ps := pieces32 terms
    (numbered ps).map fun p => { brow := i, terms := p.2, first := p.1 = 0, last := p.1 + 1 = ps.length }

/-- The values of one row of a run. -/
def sparseRow (core : Nat) (a : Operand) (bs i : Nat) : List (Nat × Nat × Nat) → State → State × Except EngFault (List Num.Val × Num.Flags)
  | [], s => (s, .ok ([], 0))
  | (p, _, k) :: ts, s =>
    match mnNat s core a.sp (a.base + (p * bs * bs + i % bs * bs + k) * a.eb) a.eb with
    | (s, .error f) => (s, .error f)
    | (s, .ok e) =>
      match sparseRow core a bs i ts s with
      | (s, .ok (vs, fl)) => (s, .ok (a.fmt.value e :: vs, fl ||| Num.sigNV [a.fmt.value e]))
      | x => x

/-- The values of the rows of a run. -/
def sparseRows (core : Nat) (a : Operand) (bs : Nat) (ts : List (Nat × Nat × Nat)) : List Nat → State →
    State × Except EngFault (List (Nat × List Num.Val) × Num.Flags)
  | [], s => (s, .ok ([], 0))
  | i :: is, s =>
    match sparseRow core a bs i ts s with
    | (s, .error f) => (s, .error f)
    | (s, .ok (vs, fl)) =>
      match sparseRows core a bs ts is s with
      | (s, .ok (rs, gl)) => (s, .ok ((i, vs) :: rs, fl ||| gl))
      | x => x

/-- Column j of B at the rows of a run. -/
def sparseCol (core : Nat) (b : Operand) (j : Nat) : List (Nat × Nat × Nat) → State → State × Except EngFault (List Num.Val × Num.Flags)
  | [], s => (s, .ok ([], 0))
  | (_, r, _) :: ts, s =>
    match fetchElem s core b r j with
    | (s, .error f) => (s, .error f)
    | (s, .ok (v, fl)) =>
      match sparseCol core b j ts s with
      | (s, .ok (vs, gl)) => (s, .ok (v :: vs, fl ||| gl))
      | x => x

def sparseCols (core : Nat) (b : Operand) (ts : List (Nat × Nat × Nat)) : Nat → Nat → State →
    State × Except EngFault (List (Nat × List Num.Val) × Num.Flags)
  | 0, _, s => (s, .ok ([], 0))
  | n + 1, j, s =>
    match sparseCol core b j ts s with
    | (s, .error f) => (s, .error f)
    | (s, .ok (vs, fl)) =>
      match sparseCols core b ts n (j + 1) s with
      | (s, .ok (cs, gl)) => (s, .ok ((j, vs) :: cs, fl ||| gl))
      | x => x

/-- The reads of a run: its rows of A, and column by column the rows of B that its terms name. -/
def runNeeds (a b : Operand) (bs n : Nat) (u : SparseRun) : List TileRead :=
  ((List.range bs).flatMap fun i => u.terms.flatMap fun t => needNat a.sp (a.base + (t.1 * bs * bs + i * bs + t.2.2) * a.eb) a.eb)
    ++ (List.range n).flatMap fun j => u.terms.flatMap fun t => b.needs t.2.1 j

/-- The values of a run: rows of A and columns of B with their places, and the flags of reading them. -/
def runValues (s : State) (core : Nat) (a b : Operand) (bs n : Nat) (u : SparseRun) :
    State × Except EngFault (List (Nat × List Num.Val) × List (Nat × List Num.Val) × Num.Flags) :=
  match sparseRows core a bs u.terms ((List.range bs).map fun i => u.brow * bs + i) s with
  | (s, .error f) => (s, .error f)
  | (s, .ok (rows, fa)) =>
    match sparseCols core b u.terms n 0 s with
    | (s, .error f) => (s, .error f)
    | (s, .ok (cols, fb)) => (s, .ok (rows, cols, fa ||| fb))

/-- Multiply-adds of a run (R243): 32 for each column where a row of CSR has nonzeros, bs for each term and column of BSR. -/
def runWork (bs n : Nat) (u : SparseRun) : Nat := if u.terms.isEmpty then 0 else if bs = 1 then 32 * n else bs * n * u.terms.length

/-- A turn of a sparse product on its runs. -/
def sparseTurn (core : Nat) (t : MnTok) (bs mode : Nat) (a b : Operand) (us : List SparseRun) (s : State) : State :=
  let n := getMn s core
  let needs (i : Nat) : List TileRead := match us[i]? with | some u => runNeeds a b bs t.n.toNat u | none => []
  match us[n.next]? with
  | none => finishMn s core n.count 0 16
  | some u =>
    let s := needParts core needs (us.length - n.next) n.next s
    match runValues s core a b bs t.n.toNat u with
    | (_, .error f) => mnFault s core n.count f
    | (v, .ok (rows, cols, fl)) =>
      let n := getMn v core
      let n := if n.part then n else n.begins s.cycle (runWork bs t.n.toNat u) a.fmt
      if s.cycle < n.busy then setMn s core n
      else
        let (n, e) : Node × Num.Env := if u.terms.isEmpty ∧ t.acc then (n, {})
          else addBlock t.bank mode (a.fmt = .fp .fp32) (u.first && !t.acc) (fun i j => (dRow t + i, dCol t + j)) rows cols (n, { flags := fl })
        let count := if u.last then n.count + 1 else n.count
        afterBlock (mnFlags (setMn v core { n with next := n.next + 1, part := false, count := count }) core e.flags) core us.length needs count

/-- Causes with which a sparse product ends when it starts (R244, R245). -/
def sparseFaults (n : Node) (t : MnTok) (a b : Operand) (lay bs : Nat) : List (Bool × Cause) :=
  let mode := productMode a.fmt
  [(a.fmt ≠ b.fmt || blockFmt a.fmt || mode.isNone, 0x183),
   (mode.isSome && mode ≠ some (n.mode t.bank), 0x185), (n.mode t.bank = 1 && dCol t + t.n.toNat > 80, 0x185),
   (b.sp = 2 && b.bankNo = t.bank, 0x185),
   (a.lay ≠ lay || b.lay ≥ 2 || t.m.toNat % bs ≠ 0 || t.k.toNat % bs ≠ 0, 0x189), (b.badBank n t.k.toNat t.n.toNat, 0x189)]

/-- A sparse product: the structure first, then the values (R246). -/
def sparseProduct (s : State) (core : Nat) (t : MnTok) (a b : Operand) (bs : Nat) : State :=
  let rows := t.m.toNat / bs + 1
  let s := needLines s core ((List.range rows).flatMap fun i => needNat a.sp (a.aux1 + i * a.ix) a.ix)
  match mnNats core a.sp a.ix rows a.aux1 s with
  | (_, .error f) => mnFault s core (getMn s core).count f
  | (s, .ok rp) =>
    let (lo, hi) := (rp.headD 0, rp.getLastD 0)
    if !nondecreasing rp ∨ hi - lo > 2 ^ 24 then refuseMn s core 0x186
    else
      let s := needLines s core ((List.range (hi - lo)).flatMap fun i => needNat a.sp (a.aux2 + (lo + i) * a.ix) a.ix)
      match mnNats core a.sp a.ix (hi - lo) (a.aux2 + lo * a.ix) s with
      | (_, .error f) => mnFault s core (getMn s core).count f
      | (s, .ok cols) =>
        if cols.any (· ≥ t.k.toNat / bs) then refuseMn s core 0x186
        else sparseTurn core t bs ((productMode a.fmt).getD 0) a b (sparseRuns bs rp cols) s

/-- MMA.CSR (R244): a CSR operand is a block-sparse one with blocks of one element. -/
def execMmaCsr (t : MnTok) (s : State) : Outcome :=
  runMn s fun s core =>
    let n := getMn s core
    let (a, b) := (n.operand t.mda, n.operand t.mdb)
    whenStarting s core (sparseFaults n t a b 2 1) fun s => sparseProduct s core t a b 1

/-- MMA.BSR (R245). -/
def execMmaBsr (t : MnTok) (s : State) : Outcome :=
  runMn s fun s core =>
    let n := getMn s core
    let (a, b) := (n.operand t.mda, n.operand t.mdb)
    whenStarting s core (sparseFaults n t a b 3 a.bsz) fun s => sparseProduct s core t a b a.bsz

/-! ## Cooperative products (R257) -/

/-- COOPID of a token. -/
def coopId (m : Cmd) : Nat := fld (pw m.packet 0) 127 96

/-- A core whose head is an MMA.C that waits for its partners: the token's word. -/
def coopWaiting (s : State) (core : Nat) : Option Cmd :=
  match headCmd s core 12 with
  | some m => if (getMn s core).coopSince.isSome ∧ (pw m.packet 0).toNat % 256 = 5 then some m else none
  | none => none

/-- Cores of a cluster that wait with one COOPID for one of its products. -/
def coopGroup (s : State) (cluster id turn : Nat) : List Nat :=
  ((List.range 16).map fun i => cluster * 16 + i).filter fun k =>
    match coopWaiting s k with | some m => coopId m = id && tget 0 (getMn s k).coop id = turn | none => false

/-- The fields in which the partners' tokens must match. -/
def coopShape (s : State) (core : Nat) (m : Cmd) : List Nat :=
  let t := mnTok (pw m.packet 0)
  let n := getMn s core
  let (a, b) := (n.operand t.mda, n.operand t.mdb)
  [t.m.toNat, t.n.toNat, t.k.toNat, t.acc.toNat, t.bank.val, dfield (tget 0 n.md t.mda) 228 224, a.lay,
   dfield (tget 0 n.md t.mdb) 228 224, b.lay]

/-- Ends the product's turn at a core: its token counts among those of its COOPID. -/
def coopDone (s : State) (core : Nat) (m : Cmd) : State :=
  let n := getMn s core
  setMn s core { n with coop := tput n.coop (coopId m) (tget 0 n.coop (coopId m) + 1), coopSince := none, matched := true }

/-- A core whose part of a cooperative product ends leaves the lines it has read to a partner that goes on (R257). -/
def leaveLines (s : State) (core : Nat) : State :=
  match coopPartners s core with
  | k :: _ => setFetches (setFetches s k 12 (fetchesOf s k 12 ++ fetchesOf s core 12)) core 12 []
  | [] => s

/-- A core's part of a cooperative product: an MMA of its rows of A and columns of B. -/
def coopPart (s : State) (core : Nat) (m : Cmd) : State :=
  let t := mnTok (pw m.packet 0)
  let n := getMn s core
  let (a, b) := (n.operand t.mda, n.operand t.mdb)
  let (mm, nn) := (t.m.toNat / 4, t.n.toNat / 4)
  let l := core % 16
  let last : Bool := n.part && n.next + 1 = (t.k.toNat + 31) / 32 && n.busy ≤ s.cycle
  whenStarting s core (denseFaults n a b t.bank t.m.toNat t.n.toNat t.k.toNat nn) fun s =>
    productTurn core
      { bank := t.bank, m := mm, n := nn, k := t.k.toNat, acc := t.acc, mode := (productMode a.fmt).getD 0, split := a.fmt = .fp .fp32, fmt := a.fmt,
        place := fun i j => (i, j), getA := fun s r c => fetchElem s core a (l / 4 * mm + r) c,
        getB := fun s r c => fetchElem s core b r (l % 4 * nn + c),
        needs := blockNeeds a b (l / 4 * mm) mm (l % 4 * nn) nn t.k.toNat, count := id }
      (if last then leaveLines s core else s)

/-- MMA.C (R257): the last of the 16 partners to arrive sets the whole product going; a token that stopped goes on alone. -/
def execMmaC (_t : MnTok) (s : State) : Outcome :=
  runMn s fun s core =>
    match headCmd s core 12 with
    | none => s
    | some m =>
      let n := getMn s core
      if n.matched then coopPart s core m
      else
        let s := setMn s core { n with coopSince := some (n.coopSince.getD s.cycle) }
        let ks := coopGroup s (core / 16) (coopId m) (tget 0 n.coop (coopId m))
        if ks.length < 16 then s
        else
          let same := ks.all fun k => match headCmd s k 12 with | some x => coopShape s k x = coopShape s core m | none => false
          ks.foldl (fun s k =>
            match headCmd s k 12 with
            | some x => if same then coopPart (coopDone s k x) k x else refuseMn (coopDone s k x) k 0x1D1
            | none => s) s

/-- COOP_TIMEOUT (R257): partners that have not all arrived within 2^20 cycles of the first. -/
def execCoopTimeout (cluster : Nat) (coopid : BitVec 32) (s : State) : Outcome :=
  let ks := ((List.range 16).map fun i => cluster * 16 + i).filter fun k =>
    match coopWaiting s k with | some m => coopId m = coopid.toNat | none => false
  let late (k : Nat) : Bool := (getMn s k).coopSince.any fun c => c + 2 ^ 20 ≤ s.cycle
  let turns := (ks.filter late).map fun k => tget 0 (getMn s k).coop coopid.toNat
  .next ((ks.filter fun k => turns.contains (tget 0 (getMn s k).coop coopid.toNat)).foldl (fun s k =>
    match headCmd s k 12 with
    | some m => refuseMn (coopDone s k m) k 0x1D0
    | none => s) s)

end Sys2Proof.Machine
end

