-- ==== Sys2Proof/Machine/Trans.lean ====
section
/-! DEFINITION. The eight transcendentals (R143 to R145): tables and coefficients, exact rational evaluation, and one
rounding. -/

namespace Sys2Proof.Machine

open Sys2Proof

/-! ## Tables and coefficients, as FP32 bits (R144) -/

namespace Trans

/-- t2[j] = 2^(j/64) in FP32 (R144). -/
def t2 : List Nat :=
  [0x3F800000, 0x3F8164D2, 0x3F82CD87, 0x3F843A29, 0x3F85AAC3, 0x3F871F62, 0x3F88980F, 0x3F8A14D5] ++
  [0x3F8B95C2, 0x3F8D1ADF, 0x3F8EA43A, 0x3F9031DC, 0x3F91C3D3, 0x3F935A2B, 0x3F94F4F0, 0x3F96942D] ++
  [0x3F9837F0, 0x3F99E046, 0x3F9B8D3A, 0x3F9D3EDA, 0x3F9EF532, 0x3FA0B051, 0x3FA27043, 0x3FA43516] ++
  [0x3FA5FED7, 0x3FA7CD94, 0x3FA9A15B, 0x3FAB7A3A, 0x3FAD583F, 0x3FAF3B79, 0x3FB123F6, 0x3FB311C4] ++
  [0x3FB504F3, 0x3FB6FD92, 0x3FB8FBAF, 0x3FBAFF5B, 0x3FBD08A4, 0x3FBF179A, 0x3FC12C4D, 0x3FC346CD] ++
  [0x3FC5672A, 0x3FC78D75, 0x3FC9B9BE, 0x3FCBEC15, 0x3FCE248C, 0x3FD06334, 0x3FD2A81E, 0x3FD4F35B] ++
  [0x3FD744FD, 0x3FD99D16, 0x3FDBFBB8, 0x3FDE60F5, 0x3FE0CCDF, 0x3FE33F89, 0x3FE5B907, 0x3FE8396A] ++
  [0x3FEAC0C7, 0x3FED4F30, 0x3FEFE4BA, 0x3FF28177, 0x3FF5257D, 0x3FF7D0DF, 0x3FFA83B3, 0x3FFD3E0C]

/-- tl[j] = log2(1 + (2j + 1)/128) in FP32 (R144). -/
def tl : List Nat :=
  [0x3C37F286, 0x3D08E68F, 0x3D626FD6, 0x3D9D517F, 0x3DC8C50B, 0x3DF39761, 0x3E0EE68D, 0x3E23B550] ++
  [0x3E383A17, 0x3E4C76E8, 0x3E606DB6, 0x3E74205F, 0x3E83C857, 0x3E8D602E, 0x3E96D888, 0x3EA03232] ++
  [0x3EA96DF0, 0x3EB28C7F, 0x3EBB8E96, 0x3EC474E4, 0x3ECD4012, 0x3ED5F0C4, 0x3EDE8797, 0x3EE70525] ++
  [0x3EEF69FF, 0x3EF7B6B4, 0x3EFFEBCD, 0x3F0404E8, 0x3F08089E, 0x3F0C0146, 0x3F0FEF1F, 0x3F13D260] ++
  [0x3F17AB44, 0x3F1B7A00, 0x3F1F3ECA, 0x3F22F9D5, 0x3F26AB53, 0x3F2A5374, 0x3F2DF268, 0x3F31885C] ++
  [0x3F35157D, 0x3F3899F5, 0x3F3C15EE, 0x3F3F8991, 0x3F42F506, 0x3F465872, 0x3F49B3FB, 0x3F4D07C7] ++
  [0x3F5053F7, 0x3F5398AF, 0x3F56D60F, 0x3F5A0C3A, 0x3F5D3B4E, 0x3F60636A, 0x3F6384AD, 0x3F669F35] ++
  [0x3F69B31E, 0x3F6CC083, 0x3F6FC781, 0x3F72C832, 0x3F75C2B0, 0x3F78B714, 0x3F7BA578, 0x3F7E8DF2]

/-- tr[j] = 1/(1 + (2j + 1)/128) in FP32 (R144). -/
def tr : List Nat :=
  [0x3F7E03F8, 0x3F7A232D, 0x3F76603E, 0x3F72B9D6, 0x3F6F2EB7, 0x3F6BBDB3, 0x3F6865AC, 0x3F652598] ++
  [0x3F61FC78, 0x3F5EE95C, 0x3F5BEB62, 0x3F5901B2, 0x3F562B81, 0x3F53680D, 0x3F50B6A0, 0x3F4E168A] ++
  [0x3F4B8728, 0x3F4907DA, 0x3F46980C, 0x3F443730, 0x3F41E4BC, 0x3F3FA030, 0x3F3D6910, 0x3F3B3EE7] ++
  [0x3F392144, 0x3F370FBB, 0x3F3509E7, 0x3F330F63, 0x3F311FD4, 0x3F2F3ADE, 0x3F2D602B, 0x3F2B8F6A] ++
  [0x3F29C84A, 0x3F280A81, 0x3F2655C4, 0x3F24A9CF, 0x3F23065E, 0x3F216B31, 0x3F1FD80A, 0x3F1E4CAD] ++
  [0x3F1CC8E1, 0x3F1B4C70, 0x3F19D723, 0x3F1868C8, 0x3F17012E, 0x3F15A025, 0x3F144581, 0x3F12F114] ++
  [0x3F11A2B4, 0x3F105A38, 0x3F0F177A, 0x3F0DDA52, 0x3F0CA29C, 0x3F0B7034, 0x3F0A42F8, 0x3F091AC7] ++
  [0x3F07F781, 0x3F06D905, 0x3F05BF37, 0x3F04A9FA, 0x3F039930, 0x3F028CC0, 0x3F01848E, 0x3F008081]

/-- tq[j] = (1 + (2j + 1)/32)^(-1/2) in FP32 (R144). -/
def tq : List Nat :=
  [0x3F7C1764, 0x3F74C867, 0x3F6E133E, 0x3F67E3ED, 0x3F6229ED, 0x3F5CD76E, 0x3F57E0CF, 0x3F533C2E] ++
  [0x3F4EE116, 0x3F4AC83F, 0x3F46EB5A, 0x3F4344E6, 0x3F3FD012, 0x3F3C889F, 0x3F396ACE, 0x3F36734A] ++
  [0x3F339F19, 0x3F30EB96, 0x3F2E565C, 0x3F2BDD46, 0x3F297E62, 0x3F2737F0, 0x3F250855, 0x3F22EE1D] ++
  [0x3F20E7F5, 0x3F1EF4A4, 0x3F1D130E, 0x3F1B422C, 0x3F19810C, 0x3F17CED0, 0x3F162AA9, 0x3F1493D9] ++
  [0x3F1309AF, 0x3F118B87, 0x3F1018C6, 0x3F0EB0E0, 0x3F0D534F, 0x3F0BFF97, 0x3F0AB544, 0x3F0973E8] ++
  [0x3F083B1E, 0x3F070A87, 0x3F05E1C7, 0x3F04C08B, 0x3F03A682, 0x3F029362, 0x3F0186E2, 0x3F0080C1]

/-- ts[j] = sin(j pi/32) in FP32 (R144). -/
def ts : List Nat :=
  [0x00000000, 0x3DC8BD36, 0x3E47C5C2, 0x3E94A031, 0x3EC3EF15, 0x3EF15AEA, 0x3F0E39DA, 0x3F226799] ++
  [0x3F3504F3, 0x3F45E403, 0x3F54DB31, 0x3F61C598, 0x3F6C835E, 0x3F74FA0B, 0x3F7B14BE, 0x3F7EC46D] ++
  [0x3F800000, 0x3F7EC46D, 0x3F7B14BE, 0x3F74FA0B, 0x3F6C835E, 0x3F61C598, 0x3F54DB31, 0x3F45E403] ++
  [0x3F3504F3, 0x3F226799, 0x3F0E39DA, 0x3EF15AEA, 0x3EC3EF15, 0x3E94A031, 0x3E47C5C2, 0x3DC8BD36] ++
  [0x00000000, 0xBDC8BD36, 0xBE47C5C2, 0xBE94A031, 0xBEC3EF15, 0xBEF15AEA, 0xBF0E39DA, 0xBF226799] ++
  [0xBF3504F3, 0xBF45E403, 0xBF54DB31, 0xBF61C598, 0xBF6C835E, 0xBF74FA0B, 0xBF7B14BE, 0xBF7EC46D] ++
  [0xBF800000, 0xBF7EC46D, 0xBF7B14BE, 0xBF74FA0B, 0xBF6C835E, 0xBF61C598, 0xBF54DB31, 0xBF45E403] ++
  [0xBF3504F3, 0xBF226799, 0xBF0E39DA, 0xBEF15AEA, 0xBEC3EF15, 0xBE94A031, 0xBE47C5C2, 0xBDC8BD36]

/-- tc[j] = cos(j pi/32) in FP32 (R144). -/
def tc : List Nat :=
  [0x3F800000, 0x3F7EC46D, 0x3F7B14BE, 0x3F74FA0B, 0x3F6C835E, 0x3F61C598, 0x3F54DB31, 0x3F45E403] ++
  [0x3F3504F3, 0x3F226799, 0x3F0E39DA, 0x3EF15AEA, 0x3EC3EF15, 0x3E94A031, 0x3E47C5C2, 0x3DC8BD36] ++
  [0x00000000, 0xBDC8BD36, 0xBE47C5C2, 0xBE94A031, 0xBEC3EF15, 0xBEF15AEA, 0xBF0E39DA, 0xBF226799] ++
  [0xBF3504F3, 0xBF45E403, 0xBF54DB31, 0xBF61C598, 0xBF6C835E, 0xBF74FA0B, 0xBF7B14BE, 0xBF7EC46D] ++
  [0xBF800000, 0xBF7EC46D, 0xBF7B14BE, 0xBF74FA0B, 0xBF6C835E, 0xBF61C598, 0xBF54DB31, 0xBF45E403] ++
  [0xBF3504F3, 0xBF226799, 0xBF0E39DA, 0xBEF15AEA, 0xBEC3EF15, 0xBE94A031, 0xBE47C5C2, 0xBDC8BD36] ++
  [0x00000000, 0x3DC8BD36, 0x3E47C5C2, 0x3E94A031, 0x3EC3EF15, 0x3EF15AEA, 0x3F0E39DA, 0x3F226799] ++
  [0x3F3504F3, 0x3F45E403, 0x3F54DB31, 0x3F61C598, 0x3F6C835E, 0x3F74FA0B, 0x3F7B14BE, 0x3F7EC46D]

/-- ln 2 in FP32 (R144). -/
def e1 : Nat := 0x3F317218
/-- (ln 2)^2/2 in FP32 (R144). -/
def e2 : Nat := 0x3E75FDF0
/-- (ln 2)^3/6 in FP32 (R144). -/
def e3 : Nat := 0x3D635847
/-- 1/ln 2 in FP32 (R144). -/
def g1 : Nat := 0x3FB8AA3B
/-- -1/(2 ln 2) in FP32 (R144). -/
def g2 : Nat := 0xBF38AA3B
/-- 1/(3 ln 2) in FP32 (R144). -/
def g3 : Nat := 0x3EF6384F
/-- -1/(4 ln 2) in FP32 (R144). -/
def g4 : Nat := 0xBEB8AA3B
/-- log2 e in FP32 (R144). -/
def lg : Nat := 0x3FB8AA3B
/-- -1/6 in FP32 (R144). -/
def a3 : Nat := 0xBE2AAAAB
/-- 1/120 in FP32 (R144). -/
def a5 : Nat := 0x3C088889
/-- -1/2 in FP32 (R144). -/
def b2 : Nat := 0xBF000000
/-- 1/24 in FP32 (R144). -/
def b4 : Nat := 0x3D2AAAAB

/-- The whole part of pi × 2^1400: the constant to far more bits than any reduction of an FP32 argument needs
(log entry 12). -/
def piScaled : Nat := 0x3243F6A8885A308D313198A2E03707344A4093822299F31D0082EFA98EC4E6C89452821E638D01377BE5466CF34E90C6CC0AC29B7C97C50DD3F84D5B5B54709179216D5D98979FB1BD1310BA698DFB5AC2FFD72DBD01ADFB7B8E1AFED6A267E96BA7C9045F12C7F9924A19947B3916CF70801F2E2858EFC16636920D871574E69A458FEA3F4933D7E0D95748F728EB658718BCD5882154AEE7B54A41DC25A59B59C30D5392AF26013C5D1B023286085

end Trans

/-! ## Exact rationals -/

/-- An exact rational: a numerator and a positive denominator. -/
structure Ratio where
  n : Int
  d : Nat
deriving DecidableEq, Repr

namespace Ratio

def ofInt (k : Int) : Ratio := ⟨k, 1⟩
def add (x y : Ratio) : Ratio := ⟨x.n * y.d + y.n * x.d, x.d * y.d⟩
def neg (x : Ratio) : Ratio := ⟨-x.n, x.d⟩
def sub (x y : Ratio) : Ratio := x.add y.neg
def mul (x y : Ratio) : Ratio := ⟨x.n * y.n, x.d * y.d⟩
def inv (x : Ratio) : Ratio := ⟨(if x.n < 0 then -1 else 1) * (x.d : Int), x.n.natAbs⟩
def div (x y : Ratio) : Ratio := x.mul y.inv
/-- x × 2^k. -/
def scale2 (x : Ratio) (k : Int) : Ratio := if k < 0 then ⟨x.n, x.d * 2 ^ (-k).toNat⟩ else ⟨x.n * 2 ^ k.toNat, x.d⟩
/-- The value of FP32 bits of a finite number. -/
def ofBits (b : Nat) : Ratio :=
  match Num.decode .fp32 b with
  | .fin s n d => ⟨Num.sgn s n, d⟩
  | _ => ⟨0, 1⟩
/-- The value of a table's entry. -/
def entry (t : List Nat) (j : Nat) : Ratio := ofBits (t.getD j 0)
/-- As a value; an exact zero is +0. -/
def toVal (x : Ratio) : Num.Val := Num.ofInt x.n x.d false
/-- A polynomial in v, its coefficients from the constant up. -/
def poly (v : Ratio) : List Ratio → Ratio
  | [] => ⟨0, 1⟩
  | c :: cs => c.add (v.mul (poly v cs))

end Ratio

/-- The nearest integer to x × k, ties to even, with the sign of x. -/
def nearest (x : Ratio) (k : Ratio) : Int :=
  let y := x.mul k
  Num.sgn (y.n < 0) (Num.roundInt y.n.natAbs y.d .rne (y.n < 0) 0)

/-- Beyond this power of two every format of R143 has overflowed or underflowed, so a larger one changes no
result. -/
def powLimit : Int := 2000

/-- E(y), the exponential core of R145. -/
def expCore (y : Ratio) : Ratio :=
  let n := nearest y ⟨64, 1⟩
  let k := n.fdiv 64
  let j := (n - 64 * k).toNat
  let v := y.sub ⟨n, 64⟩
  let p := Ratio.poly v [⟨1, 1⟩, .ofBits Trans.e1, .ofBits Trans.e2, .ofBits Trans.e3]
  ((Ratio.entry Trans.t2 j).mul p).scale2 (Num.clampI k (-powLimit) powLimit)

/-- A finite nonzero lane as m × 2^e with 1 ≤ m < 2, its sign left out. -/
def normalise (num den : Nat) : Ratio × Int :=
  let e := Num.expo num den
  (Ratio.scale2 ⟨num, den⟩ (-e), e)

/-- The logarithm steps of R145, x > 0. -/
def logCore (num den : Nat) : Ratio :=
  let (m, e) := normalise num den
  if m.n = m.d then .ofInt e
  else
    let j := ((m.n - m.d) * 64).toNat / m.d
    let c : Ratio := ⟨129 + 2 * j, 128⟩
    let v := (m.sub c).div c
    let g := Ratio.poly v [⟨0, 1⟩, .ofBits Trans.g1, .ofBits Trans.g2, .ofBits Trans.g3, .ofBits Trans.g4]
    ((Ratio.ofInt e).add (Ratio.entry Trans.tl j)).add g

/-- The reciprocal steps of R145 for a magnitude. -/
def rcpCore (num den : Nat) : Ratio :=
  let (m, e) := normalise num den
  if m.n = m.d then (Ratio.ofInt 1).scale2 (-e)
  else
    let j := ((m.n - m.d) * 64).toNat / m.d
    let t := Ratio.entry Trans.tr j
    let u := (m.mul t).sub ⟨1, 1⟩
    (t.mul (Ratio.poly u [⟨1, 1⟩, ⟨-1, 1⟩, ⟨1, 1⟩, ⟨-1, 1⟩])).scale2 (-e)

/-- The reciprocal square-root steps of R145, x > 0. -/
def rsqCore (num den : Nat) : Ratio :=
  let h := (Num.expo num den).fdiv 2
  let m := Ratio.scale2 ⟨num, den⟩ (-(2 * h))
  if m.n = m.d then (Ratio.ofInt 1).scale2 (-h)
  else
    let j := ((m.n - m.d) * 16).toNat / m.d
    let t := Ratio.entry Trans.tq j
    let u := (m.mul (t.mul t)).sub ⟨1, 1⟩
    (t.mul (Ratio.poly u [⟨1, 1⟩, ⟨-1, 2⟩, ⟨3, 8⟩, ⟨-5, 16⟩])).scale2 (-h)

/-- pi over 32. -/
def piOver32 : Ratio := ⟨Trans.piScaled, 2 ^ 1405⟩

/-- The reduction that sine and cosine share: j, sr and cr (R145). -/
def trigCore (x : Ratio) : Nat × Ratio × Ratio :=
  let n := nearest x piOver32.inv
  let j := (n % 64).toNat
  let v := x.sub ((Ratio.ofInt n).mul piOver32)
  let sr := Ratio.poly v [⟨0, 1⟩, ⟨1, 1⟩, ⟨0, 1⟩, .ofBits Trans.a3, ⟨0, 1⟩, .ofBits Trans.a5]
  let cr := Ratio.poly v [⟨1, 1⟩, ⟨0, 1⟩, .ofBits Trans.b2, ⟨0, 1⟩, .ofBits Trans.b4]
  (j, sr, cr)

/-! ## The eight functions: specials, then p (R145) -/

/-- A NaN lane: NV when it is signalling. -/
def nanLane (sg : Bool) : Num.Val × Num.Flags := (.nan false, if sg then Num.fNV else 0)
def zeroVal (s : Bool) : Num.Val := .fin s 0 1
def oneVal (s : Bool) : Num.Val := .fin s 1 1
/-- The exact value of a finite lane. -/
def ratioOf (s : Bool) (n d : Nat) : Ratio := ⟨Num.sgn s n, d⟩

def rcpVal : Num.Val → Num.Val × Num.Flags
  | .nan sg => nanLane sg
  | .inf s => (zeroVal s, 0)
  | .fin s n d => if n = 0 then (.inf s, Num.fDZ) else ((if s then (rcpCore n d).neg else rcpCore n d).toVal, 0)

def rsqVal : Num.Val → Num.Val × Num.Flags
  | .nan sg => nanLane sg
  | .inf s => if s then (.nan false, Num.fNV) else (zeroVal false, 0)
  | .fin s n d =>
    if n = 0 then (.inf s, Num.fDZ) else if s then (.nan false, Num.fNV) else ((rsqCore n d).toVal, 0)

def exp2Val : Num.Val → Num.Val × Num.Flags
  | .nan sg => nanLane sg
  | .inf s => if s then (zeroVal false, 0) else (.inf false, 0)
  | .fin s n d => ((expCore (ratioOf s n d)).toVal, 0)

def log2Val : Num.Val → Num.Val × Num.Flags
  | .nan sg => nanLane sg
  | .inf s => if s then (.nan false, Num.fNV) else (.inf false, 0)
  | .fin s n d =>
    if n = 0 then (.inf true, Num.fDZ) else if s then (.nan false, Num.fNV) else ((logCore n d).toVal, 0)

def sigVal : Num.Val → Num.Val × Num.Flags
  | .nan sg => nanLane sg
  | .inf s => (if s then zeroVal false else oneVal false, 0)
  | .fin s n d =>
    let t := expCore ((ratioOf s n d).mul (Ratio.ofBits Trans.lg)).neg
    (((Ratio.ofInt 1).div ((Ratio.ofInt 1).add t)).toVal, 0)

def tanhVal : Num.Val → Num.Val × Num.Flags
  | .nan sg => nanLane sg
  | .inf s => (oneVal s, 0)
  | .fin s n d =>
    if n = 0 then (zeroVal s, 0)
    else
      let t := expCore (((ratioOf s n d).mul (Ratio.ofBits Trans.lg)).scale2 1).neg
      ((((Ratio.ofInt 1).sub t).div ((Ratio.ofInt 1).add t)).toVal, 0)

def sinVal : Num.Val → Num.Val × Num.Flags
  | .nan sg => nanLane sg
  | .inf _ => (.nan false, Num.fNV)
  | .fin s n d =>
    if n = 0 then (zeroVal s, 0)
    else
      let (j, sr, cr) := trigCore (ratioOf s n d)
      ((((Ratio.entry Trans.ts j).mul cr).add ((Ratio.entry Trans.tc j).mul sr)).toVal, 0)

def cosVal : Num.Val → Num.Val × Num.Flags
  | .nan sg => nanLane sg
  | .inf _ => (.nan false, Num.fNV)
  | .fin s n d =>
    let (j, sr, cr) := trigCore (ratioOf s n d)
    ((((Ratio.entry Trans.tc j).mul cr).sub ((Ratio.entry Trans.ts j).mul sr)).toVal, 0)

def execFrcp (t : LaneType) (d : Dst) (a : Src) (s : State) : Outcome :=
  float1 s (.frcp t d a) 8 t d a rcpVal
def execFrsq (t : LaneType) (d : Dst) (a : Src) (s : State) : Outcome :=
  float1 s (.frsq t d a) 8 t d a rsqVal
def execFexp2 (t : LaneType) (d : Dst) (a : Src) (s : State) : Outcome :=
  float1 s (.fexp2 t d a) 8 t d a exp2Val
def execFlog2 (t : LaneType) (d : Dst) (a : Src) (s : State) : Outcome :=
  float1 s (.flog2 t d a) 8 t d a log2Val
def execFsig (t : LaneType) (d : Dst) (a : Src) (s : State) : Outcome :=
  float1 s (.fsig t d a) 8 t d a sigVal
def execFtanh (t : LaneType) (d : Dst) (a : Src) (s : State) : Outcome :=
  float1 s (.ftanh t d a) 8 t d a tanhVal
def execFsin (t : LaneType) (d : Dst) (a : Src) (s : State) : Outcome :=
  float1 s (.fsin t d a) 8 t d a sinVal
def execFcos (t : LaneType) (d : Dst) (a : Src) (s : State) : Outcome :=
  float1 s (.fcos t d a) 8 t d a cosVal

end Sys2Proof.Machine
end

