-- ==== Sys2Proof/Machine/MatrixOps.lean ====
section
/-! DEFINITION. The matrix node's other operations: softmax (R247 to R249), scan (R250), epilogue and stores (R251 to
R255, R258), loads (R253), the bank and register operations (R235, R237, R256), and its RESUME and ABORT (R259). -/

namespace Sys2Proof.Machine

open Sys2Proof

/-! ## Arithmetic, each step rounded once to FP32 -/

/-- A result before rounding, rounded to FP32 under RNE. -/
def round32 (r : Num.Val × Num.Flags) (e : Num.Env) : Num.Val × Num.Env := Num.roundVal .fp32 r.1 (e.raise r.2)

def mul32 (a b : Num.Val) (e : Num.Env) : Num.Val × Num.Env := round32 (Num.mul a b) e
def add32 (a b : Num.Val) (e : Num.Env) : Num.Val × Num.Env := round32 (Num.add a b .rne) e
def fma32 (a b c : Num.Val) (e : Num.Env) : Num.Val × Num.Env := round32 (Num.fma a b c .rne) e

/-- exp2r (R247). -/
def exp2r (x : Num.Val) (e : Num.Env) : Num.Val × Num.Env := round32 (exp2Val x) e

def posZero : Num.Val := .fin false 0 1
def negInf : Num.Val := .inf true

/-- FP32 bits of a value that is already FP32's. -/
def bits32 (v : Num.Val) : Nat := (Num.encode .fp32 .rne v 0).1

/-- The value of FP32 bits. -/
def val32 (b : Nat) : Num.Val := Num.decode .fp32 b

/-- A dot product chained over blocks of 32 from a starting value (R99, R264). -/
def chainDot (split : Bool) (acc : Num.Val) (as bs : List Num.Val) (e : Num.Env) : Num.Val × Num.Env :=
  (List.zip (pieces32 as) (pieces32 bs)).foldl (fun (x : Num.Val × Num.Env) p =>
    let ps := if split then (List.zip p.1 p.2).flatMap fun q => Num.splitProducts q.1 q.2 else List.zipWith Num.blockProduct p.1 p.2
    Num.blockStep x.1 ps x.2) (acc, e)

/-- Sets FP32 elements of a bank's row from column c on. -/
def Node.setRow (n : Node) (b i c : Nat) (vs : List Num.Val) : Node :=
  (numbered vs).foldl (fun n p => n.setCell b i (c + p.1) (bits32 p.2)) n

/-- The values of a bank's rows 0 to m − 1, columns 0 to c − 1. -/
def Node.region (n : Node) (b m c : Nat) : List (List Num.Val) :=
  (List.range m).map fun i => (List.range c).map fun j => n.val b i j

/-- Cycles in which an operation works on M × N elements of the banks (R253). -/
def bankCycles (m n : Nat) : Nat := (m * n + 255) / 256

/-! ## Online softmax -/

/-- A value of each element of a list, the environment threaded through. -/
def mapVals {α : Type} (f : α → Num.Env → Num.Val × Num.Env) : List α → Num.Env → List Num.Val × Num.Env
  | [], e => ([], e)
  | x :: xs, e =>
    let (y, e) := f x e
    let (ys, e) := mapVals f xs e
    (y :: ys, e)

/-- The rounded exact sum of a row's weights. -/
def weightSum (ps : List Num.Val) (e : Num.Env) : Num.Val × Num.Env :=
  if ps.any (·.isNaN) then (.nan false, e) else round32 (Num.exactSum ps, 0) e

/-- One row of MSM.QK (R247): its scores, with the running output's first `on` columns. -/
def softmaxRow (n : Node) (bank on i : Nat) (ss : List Num.Val) (e : Num.Env) : Node × Num.Env :=
  let old := n.rmxVal i
  let m := ss.foldl (fun a b => (Num.fmax a b).1) old
  let o := 1 - bank
  if m = negInf then (n.setRow bank i 0 (ss.map fun _ => posZero), e)
  else
    let (ps, e) := mapVals (fun x e => let (d, e) := add32 x m.negate e; exp2r d e) ss e
    let n := n.setRow bank i 0 ps
    let (t, e) := weightSum ps e
    let (n, sum, e) : Node × Num.Val × Num.Env :=
      if old = negInf then (n.setRow o i 0 (List.replicate on posZero), t, e)
      else
        let (d, e) := add32 old m.negate e
        let (c, e) := exp2r d e
        let (vs, e) := mapVals (fun j e => mul32 (n.val o i j) c e) (List.range on) e
        let (r, e) := mul32 (n.rsmVal i) c e
        let (r, e) := add32 r t e
        (n.setRow o i 0 vs, r, e)
    ({ n with rmx := tput n.rmx i (.ofNat 32 (bits32 m)), rsm := tput n.rsm i (.ofNat 32 (bits32 sum)) }, e)

/-- MSM.QK (R247). -/
def execMsmQk (t : MnTok) (s : State) : Outcome :=
  runMn s fun s core =>
    let n := getMn s core
    let (a, b) := (n.operand t.mda, n.operand t.mdb)
    let (m, nn, k) := (t.m.toNat, t.n.toNat, t.k.toNat)
    let on := t.opf.toNat % 256
    let masked := t.opf.getLsbD 15
    let moff := Num.toSigned (t.opf.toNat / 2 ^ 16) 16
    let scale := val32 (t.opf.toNat / 2 ^ 32)
    whenStarting s core
      ((productMode a.fmt ≠ some 0, 0x183) ::
        -- O is written too where ON rescales it, so no operand may then lie in it (R239)
        (n.mode 0 ≠ 0 || n.mode 1 ≠ 0 || (on ≠ 0 && ((a.sp = 2 && a.bankNo ≠ t.bank) || (b.sp = 2 && b.bankNo ≠ t.bank))), 0x185)
        :: denseFaults n a b t.bank m nn k nn) fun s =>
      wholeOp s core (productCycles a.fmt (m * nn * k)) (a.gridNeeds 0 k 0 m ++ b.gridNeeds 0 nn 0 k)
        (fetchPair (fetchGrid (fun s r c => fetchElem s core a r c) 0 k m 0) (fetchGrid (fun s r c => fetchElem s core b c r) 0 k nn 0))
        fun s (qs, ks, fl) =>
          let split : Bool := a.fmt = .fp .fp32
          let score (i j : Nat) (q kk : List Num.Val) (e : Num.Env) : Num.Val × Num.Env :=
            let (d, e) := chainDot split posZero q kk e
            let (x, e) := mul32 scale d e
            (if masked ∧ (j : Int) - i > moff then negInf else x, e)
          let (n, e) := (numbered qs).foldl (fun (x : Node × Num.Env) q =>
            let (ss, e) := mapVals (fun kk e => score q.1 kk.1 q.2 kk.2 e) (numbered ks) x.2
            softmaxRow x.1 t.bank on q.1 ss e) (getMn s core, { flags := fl })
          finishMn (mnFlags (setMn s core n) core e.flags) core m 0 16

/-- MSM.PV (R248): P is taken from the other bank in V's format. -/
def execMsmPv (t : MnTok) (s : State) : Outcome :=
  runMn s fun s core =>
    let n := getMn s core
    let v := n.operand t.mdb
    let (m, nn, k) := (t.m.toNat, t.n.toNat, t.k.toNat)
    let other := 1 - t.bank.val
    let weight : Getter := fun s r c =>
      let p := (getMn s core).val other r c
      match v.fmt with
      | .fp .fp32 => (s, .ok (p, 0))
      | .fp f => let (b, fl) := Num.encode f .rne p 0; (s, .ok (Num.decode f b, fl))
      | _ => (s, .ok (p, 0))
    whenStarting s core
      [(v.fmt ≠ .fp .bf16 && v.fmt ≠ .fp .fp16 && v.fmt ≠ .fp .fp32, 0x183), (n.mode 0 ≠ 0 || n.mode 1 ≠ 0, 0x185),
       (v.sp = 2 && v.bankNo = t.bank, 0x185), (v.lay ≥ 2 || v.badBank n k nn, 0x189)] fun s =>
      productTurn core
        { bank := t.bank, m := m, n := nn, k := k, acc := t.acc, mode := 0, split := v.fmt = .fp .fp32, fmt := v.fmt, place := fun i j => (i, j),
          getA := weight, getB := fun s r c => fetchElem s core v r c, needs := fun blk => v.gridNeeds 0 nn (32 * blk) (min 32 (k - 32 * blk)),
          count := fun b => if 32 * b ≥ k then m else 0 } s

/-- MSM.FIN (R249). -/
def execMsmFin (t : MnTok) (s : State) : Outcome :=
  runMn s fun s core =>
    let n := getMn s core
    let (m, nn) := (t.m.toNat, t.n.toNat)
    whenStarting s core [(n.mode t.bank ≠ 0, 0x185)] fun s =>
      runPart s core (bankCycles m nn) fun s =>
      let (n, e) := (List.range m).foldl (fun (x : Node × Num.Env) i =>
        let (vs, e) := mapVals (fun j e => round32 (Num.div (x.1.val t.bank i j) (x.1.rsmVal i)) e) (List.range nn) x.2
        let n := x.1.setRow t.bank i 0 vs
        ({ n with rmx := tdel n.rmx i, rsm := tdel n.rsm i }, e)) (getMn s core, {})
      finishMn (mnFlags (setMn s core n) core e.flags) core m 0 16

/-! ## Scan -/

/-- One chunk of eight rows of a column (R250): the pairs (A, B) kept, then the rows' values and the new h. -/
def scanChunk (rows : List (Num.Val × Num.Val)) (h : Num.Val) (e : Num.Env) : List Num.Val × Num.Val × Num.Env :=
  let (_, pairs, e) := rows.foldl (fun (x : (Num.Val × Num.Val) × List (Num.Val × Num.Val) × Num.Env) r =>
    let (na, e) := mul32 r.1 x.1.1 x.2.2
    let (nb, e) := fma32 r.1 x.1.2 r.2 e
    ((na, nb), x.2.1 ++ [(na, nb)], e)) ((.fin false 1 1, posZero), [], e)
  let (vs, e) := mapVals (fun p e => fma32 p.1 h p.2 e) pairs e
  (vs, vs.getLastD h, e)

/-- A column in chunks of eight. -/
def scanColumn : Nat → List (Num.Val × Num.Val) → Num.Val → Num.Env → List Num.Val × Num.Env
  | 0, _, _, e => ([], e)
  | n + 1, rows, h, e =>
    let (vs, h, e) := scanChunk (rows.take 8) h e
    let (ws, e) := scanColumn n (rows.drop 8) h e
    (vs ++ ws, e)

/-- Sets a column of a bank. -/
def Node.setCol (n : Node) (b j : Nat) (vs : List Num.Val) : Node :=
  (numbered vs).foldl (fun n p => n.setCell b p.1 j (bits32 p.2)) n

/-- MSCAN (R250). -/
def execMscan (t : MnTok) (s : State) : Outcome :=
  runMn s fun s core =>
    let n := getMn s core
    let (a, b) := (n.operand t.mda, n.operand t.mdb)
    let (m, nn) := (t.m.toNat, t.n.toNat)
    whenStarting s core
      [(a.fmt ≠ b.fmt || (a.fmt ≠ .fp .fp32 && a.fmt ≠ .fp .bf16), 0x183), (n.mode t.bank ≠ 0, 0x185),
       ((a.sp = 2 && a.bankNo = t.bank) || (b.sp = 2 && b.bankNo = t.bank), 0x185),
       (a.lay ≥ 2 || b.lay ≥ 2 || a.badBank n m nn || b.badBank n m nn, 0x189)] fun s =>
      wholeOp s core (bankCycles m nn) (a.gridNeeds 0 nn 0 m ++ b.gridNeeds 0 nn 0 m)
        (fetchPair (fetchGrid (fun s r c => fetchElem s core a c r) 0 m nn 0) (fetchGrid (fun s r c => fetchElem s core b c r) 0 m nn 0))
        fun s (as, bs, fl) =>
          let start := getMn s core
          let (n, e) := (numbered (List.zip as bs)).foldl (fun (x : Node × Num.Env) c =>
            let h := if t.acc then start.val t.bank (t.opf.toNat % 128) c.1 else posZero
            let (vs, e) := scanColumn (m / 8) (List.zip c.2.1 c.2.2) h x.2
            (x.1.setCol t.bank c.1 vs, e)) (start, { flags := fl })
          finishMn (mnFlags (setMn s core n) core e.flags) core m 0 16

/-! ## Epilogue -/

/-- EPI (R251), as the low 16 bits of OPF. -/
def epiOf (t : MnTok) : Nat := t.opf.toNat % 2 ^ 16

/-- The epilogue of an element x whose partner in the other bank is g (R251). -/
def epilogue (n : Node) (epi : Nat) (x g : Num.Val) (e : Num.Env) : Num.Val × Num.Env :=
  let on (b : Nat) : Bool := epi / 2 ^ b % 2 = 1
  let (t, e) := if on 4 then mul32 x (n.mcVal (epi / 2 ^ 5 % 16)) e else (x, e)
  let (t, e) := if on 9 then add32 t (n.mcVal (epi / 2 ^ 10 % 16)) e else (t, e)
  let (y, e) : Num.Val × Num.Env := match epi % 8 with
    | 1 => (if t.isNaN then .nan false else if Num.lt posZero t then t else posZero, e)
    | 2 => round32 (sigVal t) e
    | 3 => round32 (tanhVal t) e
    | 4 =>
      let (g, e) := round32 (sigVal t) e
      mul32 t g e
    | 5 => exp2r t e
    | _ => (t, e)
  if on 3 then mul32 y g e else (y, e)

/-- The bank modes a nonzero epilogue requires (R251). -/
def epiFault (n : Node) (bank epi : Nat) : Bool :=
  epi ≠ 0 && (n.mode bank ≠ 0 || (epi / 2 ^ 3 % 2 = 1 && n.mode (1 - bank) ≠ 0))

/-- The epilogue of an element of a bank. -/
def Node.epi (n : Node) (bank epi i j : Nat) (e : Num.Env) : Num.Val × Num.Env :=
  if epi = 0 then (n.val bank i j, e) else epilogue n epi (n.val bank i j) (n.val (1 - bank) i j) e

/-- MEPI (R252). -/
def execMepi (t : MnTok) (s : State) : Outcome :=
  runMn s fun s core =>
    let n := getMn s core
    let (m, nn) := (t.m.toNat, t.n.toNat)
    whenStarting s core [(epiFault n t.bank (epiOf t) || (n.mode t.bank = 1 && nn > 80), 0x185)] fun s =>
      runPart s core (bankCycles m nn) fun s =>
      let n := getMn s core
      if epiOf t = 0 then finishMn s core m 0 16
      else
        let (n, e) := (List.range m).foldl (fun (x : Node × Num.Env) i =>
          let (vs, e) := mapVals (fun j e => n.epi t.bank (epiOf t) i j e) (List.range nn) x.2
          (x.1.setRow t.bank i 0 vs, e)) (n, {})
        finishMn (mnFlags (setMn s core n) core e.flags) core m 0 16

/-! ## Loads -/

/-- The mode a load's format gives (R253). -/
def loadMode : Num.Fmt → Option Nat
  | .fp .fp64 => some 1
  | .int8 | .int32 => some 2
  | .fp .fp32 | .fp .bf16 | .fp .fp16 | .fp .e5m2 | .fp .e4m3 | .dx _ | .mxint8 => some 0
  | _ => none

/-- A value put into a bank's mode, or added there (R253, R256). -/
def putMode (mode : Nat) (acc : Bool) (old : Nat) (v : Num.Val) (e : Num.Env) : Nat × Num.Env :=
  match mode with
  | 0 | 1 =>
    let f : Num.Fp := if mode = 0 then .fp32 else .fp64
    let (b, e) := Num.enc f .rne v e
    if acc then
      let (w, fl) := Num.add (Num.decode f old) (Num.decode f b) .rne
      Num.enc f .rne w (e.raise fl)
    else (b, e)
  | _ =>
    let k : Int := match v with | .fin s x _ => Num.sgn s x | _ => 0
    (Num.wrap (k + if acc then (old : Int) else 0) 32, e)

/-- Writes rows of values into a bank region. -/
def putRegion (n : Node) (bank : Nat) (acc : Bool) (r0 c0 : Nat) (rows : List (List Num.Val)) (e : Num.Env) : Node × Num.Env :=
  (numbered rows).foldl (fun (x : Node × Num.Env) r => (numbered r.2).foldl (fun (x : Node × Num.Env) c =>
    let (v, e) := putMode (x.1.mode bank) acc (x.1.cell bank (r0 + r.1) (c0 + c.1)) c.2 x.2
    (x.1.setCell bank (r0 + r.1) (c0 + c.1) v, e)) x) (n, e)

/-- MLD (R253). -/
def execMld (t : MnTok) (s : State) : Outcome :=
  runMn s fun s core =>
    let n := getMn s core
    let a := n.operand t.mda
    let (m, nn) := (t.m.toNat, t.n.toNat)
    let mode := loadMode a.fmt
    whenStarting s core
      [(mode.isNone, 0x183), (mode.isSome && mode ≠ some (n.mode t.bank), 0x185), (n.mode t.bank = 1 && dCol t + nn > 80, 0x185),
       (a.sp = 2 && a.bankNo = t.bank, 0x185), (a.lay ≥ 2 || a.badBank n m nn, 0x189)] fun s =>
      wholeOp s core (bankCycles m nn) (a.gridNeeds 0 nn 0 m) (fetchGrid (fun s r c => fetchElem s core a r c) 0 nn m 0) fun s (rows, fl) =>
        let (n, e) := putRegion (getMn s core) t.bank t.acc (dRow t) (dCol t) rows { flags := fl }
        finishMn (mnFlags (setMn s core n) core e.flags) core m 0 16

/-! ## Stores -/

/-- A write of the node: its address, its bytes, and for a DX line its format and sidecar. -/
structure MnWrite where
  va : Nat
  bytes : List Byte
  side : Option (Num.Dx × List Byte) := none

/-- The node issues one write, or says why it cannot. -/
def mnStore (s : State) (core sp : Nat) (w : MnWrite) : State × Option EngFault :=
  match mnRoute s core sp (w.va % 2 ^ 64) w.bytes.length .write with
  | .error f => (s, some f)
  | .ok r =>
    match w.side with
    | none => (engStore s core 12 (w.va % 2 ^ 64) w.bytes, none)
    | some (d, side) =>
      if !dxLine s r.pa d then (s, some (.ends 0x189))
      else (engStore s core 12 (w.va % 2 ^ 64) w.bytes side (2 * (r.pa % 128 / (4 * d.bits))), none)

/-- Conversions of R254: whether a bank mode allows a destination format. -/
def storeAllowed (mode : Nat) : Num.Fmt → Bool
  | .fp .fp32 => mode ≠ 2
  | .fp .bf16 | .fp .fp16 | .fp .e5m2 | .fp .e4m3 | .dx _ | .mxint8 => mode = 0
  | .int8 => mode ≠ 1
  | .fp .fp64 => mode = 1
  | .int32 => mode = 2
  | _ => false

/-- One element in a plain format (R254). -/
def storeElem (mode : Nat) (f : Num.Fmt) (rm : Rounding) (v : Num.Val) (e : Num.Env) : Nat × Num.Env :=
  match f with
  | .fp g => Num.enc g rm v e
  | f =>
    let w := f.bits
    if mode = 2 then
      let k : Int := match v with | .fin s x _ => Num.sgn s x | _ => 0
      let (k, fl) := Num.satInt k w true
      (Num.wrap k w, e.raise fl)
    else
      let (d, e) := e.draw rm
      let (k, fl) := Num.floatToInt v w true rm d
      (Num.wrap k w, e.raise fl)

/-- Bytes of one run of n elements of a destination. -/
def runLength (f : Num.Fmt) (n : Nat) : Nat :=
  match f with
  | .dx d => ((n + 31) / 32 + dxBlocks d - 1) / dxBlocks d * 128
  | f => n * f.bits / 8

/-- The writes of row i of a destination whose element (0, 0) stands at (r0, c0) of it, from values y (R238, R254). -/
def rowWrites (x : Operand) (mode : Nat) (rm : Rounding) (r0 c0 i : Nat) (ys : List Num.Val) (e : Num.Env) : List MnWrite × Num.Env :=
  match x.fmt with
  | .dx d =>
    (numbered (pieces32 ys)).foldl (fun (a : List MnWrite × Num.Env) p =>
      let b := c0 / 32 + p.1
      let (ea, eb, es, e) := Num.dxEncodeBlock d p.2 rm a.2
      (a.1 ++ [{ va := x.base + (r0 + i) * x.pitch + b / dxBlocks d * 128 + b % dxBlocks d * 4 * d.bits,
                 bytes := leBytes (4 * d.bits) (joinLanes d.bits es), side := some (d, [.ofNat 8 ea, .ofNat 8 eb]) }], e)) ([], e)
  | .mxint8 =>
    (numbered (pieces32 ys)).foldl (fun (a : List MnWrite × Num.Env) p =>
      let b := c0 / 32 + p.1
      let (sc, es, e) := Num.mxEncodeBlock .mxint8 p.2 rm a.2
      (a.1 ++ [{ va := x.base + (r0 + i) * x.pitch + 32 * b, bytes := leBytes 32 (joinLanes 8 es) },
               { va := x.aux1 + (r0 + i) * x.pitch / 32 + b, bytes := [.ofNat 8 sc] }], e)) ([], e)
  | f =>
    (numbered ys).foldl (fun (a : List MnWrite × Num.Env) p =>
      let (v, e) := storeElem mode f rm p.2 a.2
      let (run, pos) := if x.lay = 1 then (c0 + p.1, r0 + i) else (r0 + i, c0 + p.1)
      (a.1 ++ [{ va := x.base + run * x.pitch + pos * x.eb, bytes := leBytes x.eb v }], e)) ([], e)

/-- The first store of a row, and of how many of its writes it carries the bytes: those that lie side by side in one line (R254). -/
def firstStore : List MnWrite → Option (MnWrite × Nat)
  | [] => none
  | w :: ws =>
    match firstStore ws with
    | some (v, k) =>
      if w.side.isNone ∧ v.side.isNone ∧ w.va + w.bytes.length = v.va ∧ w.va / 128 = v.va / 128 then some ({ w with bytes := w.bytes ++ v.bytes }, k + 1)
      else some (w, 1)
    | none => some (w, 1)

/-- Issues the first store of a row: how many of its writes are issued. Where the store faults, its writes go one by one, up to the element that
faults (R259). -/
def storeNext (s : State) (core sp : Nat) (ws : List MnWrite) : State × Except EngFault Nat :=
  match firstStore ws, ws with
  | some (w, k), v :: _ =>
    (match mnStore s core sp w with
      | (t, none) => (t, .ok k)
      | (_, some f) =>
        if k = 1 then (s, .error f)
        else match mnStore s core sp v with
          | (t, none) => (t, .ok 1)
          | (_, some g) => (s, .error g))
  | _, _ => (s, .ok 0)

/-- The stores of an operation have all been acknowledged: it completes one cycle later (R254). -/
def finishStores (s : State) (core count cause : Nat) : State :=
  if engBusy s core 12 then s
  else finishMn (setCore s core (clearCwait (getCore s core) (engUnit 12))) core count cause 1

/-- A turn of a store: one store of the rows it is at, `rows` of them, whose writes and generator are given; they make `bytes` bytes. -/
def storeTurn (s : State) (core sp rows bytes : Nat) (w : List MnWrite × Num.Env) : State :=
  let n := getMn s core
  match storeNext s core sp (w.1.drop n.col) with
  | (_, .error f) => mnFault s core n.next f
  | (s, .ok k) =>
    let n := getMn s core
    if n.col + k < w.1.length then setMn s core { n with col := n.col + k }
    else mnFlags (setMn s core { n with next := n.next + rows, col := 0, gen := w.2.sr, opBytes := n.opBytes + bytes }) core w.2.flags

/-- RM, SROW and SCOL of a store (R254). -/
def storeRm (t : MnTok) : Rounding := roundingOf (t.opf.toNat / 2 ^ 16 % 8)
def sRow (t : MnTok) : Nat := t.opf.toNat / 2 ^ 19 % 128
def sCol (t : MnTok) : Nat := t.opf.toNat / 2 ^ 26 % 256

/-- The values of a bank row through the epilogue. -/
def epiRow (n : Node) (t : MnTok) (i nn : Nat) (e : Num.Env) : List Num.Val × Num.Env :=
  mapVals (fun j e => n.epi t.bank (epiOf t) (sRow t + i) (sCol t + j) e) (List.range nn) e

/-- A turn of MST and MST.C: a store of the row at the node's position; the generator and the position move on with each whole row. -/
def rowTurn (core : Nat) (t : MnTok) (x : Operand) (m nn r0 c0 : Nat) (s : State) : State :=
  let n := getMn s core
  if n.next ≥ m then finishStores s core n.next 0
  else
    let (ys, e) := epiRow n t n.next nn { sr := n.gen }
    storeTurn s core x.sp 1 0 (rowWrites x (n.mode t.bank) (storeRm t) r0 c0 n.next ys e)

/-- Whether a DX destination names a line that its window holds in another format (R238). -/
def dxStray (s : State) (core : Nat) (x : Operand) (m nn r0 c0 : Nat) : Bool :=
  match x.fmt with
  | .dx d => (List.range m).any fun i => (rowWrites x 0 .rne r0 c0 i (List.replicate nn posZero) {}).1.any fun w =>
      match mnRoute s core x.sp (w.va % 2 ^ 64) w.bytes.length .write with | .ok r => !dxLine s r.pa d | .error _ => false
  | _ => false

/-- Causes with which a store ends when it starts (R254): m rows and n columns of the bank, of a matrix of mm rows and nn
columns. -/
def storeFaults (n : Node) (t : MnTok) (x : Operand) (nc mm nn : Nat) : List (Bool × Cause) :=
  [(!storeAllowed (n.mode t.bank) x.fmt, 0x183), (epiFault n t.bank (epiOf t) || (n.mode t.bank = 1 && sCol t + nc > 80), 0x185),
   (x.sp = 2 || x.lay ≥ 2 || (blockFmt x.fmt && (x.lay ≠ 0 || nc % 32 ≠ 0)), 0x189),
   (x.pitch < runLength x.fmt (if x.lay = 1 then mm else nn), 0x189)]

/-- MST (R254). -/
def execMst (t : MnTok) (s : State) : Outcome :=
  runMn s fun s core =>
    let n := getMn s core
    let x := n.operand t.mdc
    let (m, nn) := (t.m.toNat, t.n.toNat)
    whenStarting s core ((n.col = 0 && dxStray s core x m nn 0 0, 0x189) :: storeFaults n t x nn m nn) (rowTurn core t x m nn 0 0)

/-- MST.C (R258): the core's part goes to its place in the whole matrix. -/
def execMstC (t : MnTok) (s : State) : Outcome :=
  runMn s fun s core =>
    let n := getMn s core
    let x := n.operand t.mdc
    let (m, nn) := (t.m.toNat / 4, t.n.toNat / 4)
    let l := core % 16
    whenStarting s core ((n.col = 0 && dxStray s core x m nn (l / 4 * m) (l % 4 * nn), 0x189) :: storeFaults n t x nn t.m.toNat t.n.toNat)
      (rowTurn core t x m nn (l / 4 * m) (l % 4 * nn))

/-- Pieces of 32 bytes, n of them. -/
def segments : Nat → List Byte → List (List Byte)
  | 0, _ => []
  | n + 1, bs => bs.take 32 :: segments n (bs.drop 32)

/-- A row's converted bytes (R255). -/
def rowBytes (n : Node) (t : MnTok) (f : Num.Fmt) (i nn : Nat) (e : Num.Env) : List Byte × Num.Env :=
  let (ys, e) := epiRow n t i nn e
  let (es, e) := Num.mapEnv (storeElem (n.mode t.bank) f (storeRm t)) ys e
  (es.flatMap (leBytes (f.bits / 8)), e)

/-- The segments of the eight rows of a group, in bitmap order. -/
def groupSegments (n : Node) (t : MnTok) (f : Num.Fmt) (nn : Nat) : Nat → Nat → Num.Env → List (List Byte) × Num.Env
  | 0, _, e => ([], e)
  | k + 1, i, e =>
    let (bs, e) := rowBytes n t f i nn e
    let (gs, e) := groupSegments n t f nn k (i + 1) e
    (segments (nn * f.bits / 256) bs ++ gs, e)

/-- The image of a group (R255): its header, then its nonzero segments. -/
def groupImage (gs : List (List Byte)) : List Byte :=
  let live := (numbered gs).filter fun g => g.2.any (· ≠ 0)
  let map := live.foldl (fun m g => m + 2 ^ g.1) 0
  leBytes 32 (map + live.length * 2 ^ 160) ++ live.flatMap (·.2)

/-- The writes of a group's image: 32 bytes each. -/
def groupWrites (at_ : Nat) (img : List Byte) : List MnWrite :=
  (numbered (segments (img.length / 32) img)).map fun p => { va := at_ + 32 * p.1, bytes := p.2 }

/-- A turn of MST.Z: a store of the group at the node's position, unless its end would pass the limit. -/
def groupTurn (core : Nat) (t : MnTok) (x : Operand) (m nn limit : Nat) (s : State) : State :=
  let n := getMn s core
  if n.next ≥ m then finishStores s core n.next 0
  else
    let (gs, e) := groupSegments n t x.fmt nn 8 n.next { sr := n.gen }
    let img := groupImage gs
    if n.opBytes + img.length > limit then finishStores s core n.next 0x1C3
    else storeTurn s core x.sp 8 img.length (groupWrites (x.base + n.opBytes) img, e)

/-- MST.Z (R255). -/
def execMstZ (t : MnTok) (s : State) : Outcome :=
  runMn s fun s core =>
    let n := getMn s core
    let x := n.operand t.mdc
    let (m, nn) := (t.m.toNat, t.n.toNat)
    let plain : Bool := match x.fmt with | .fp .fp32 | .fp .bf16 | .fp .fp16 | .fp .e5m2 | .fp .e4m3 => true | _ => false
    whenStarting s core
      [(plain && !storeAllowed (n.mode t.bank) x.fmt, 0x183), (epiFault n t.bank (epiOf t) || (n.mode t.bank = 1 && sCol t + nn > 80), 0x185),
       (!plain || x.sp = 2 || x.lay ≠ 0 || x.pitch ≠ 0 || x.base % 32 ≠ 0 || nn * x.eb % 32 ≠ 0, 0x189)] (groupTurn core t x m nn (t.opf.toNat / 2 ^ 40 % 2 ^ 24 * 32))

/-! ## Bank and register operations -/

/-- MZERO (R256). -/
def execMzero (t : MnTok) (s : State) : Outcome :=
  runMn s fun s core =>
    let n := getMn s core
    let n := (n.setBank t.bank []).setMode t.bank (t.opf.toNat % 4)
    let n := if t.opf.getLsbD 2 then { n with rmx := [], rsm := [] } else n
    finishMn (setMn s core n) core 0 0 16

/-- MCOPY (R256). -/
def execMcopy (t : MnTok) (s : State) : Outcome :=
  runMn s fun s core =>
    let n := getMn s core
    let other := 1 - t.bank.val
    let (m, nn) := (t.m.toNat, t.n.toNat)
    let (sr, sc) := (dRow t, dCol t)
    let (dr, dc) := (t.opf.toNat / 2 ^ 16 % 128, t.opf.toNat / 2 ^ 24 % 256)
    whenStarting s core [(n.mode 0 ≠ n.mode 1 || (n.mode 0 = 1 && (sc + nn > 80 || dc + nn > 80)), 0x185)] fun s =>
      runPart s core (bankCycles m nn) fun s =>
      let n := getMn s core
      let (n, e) : Node × Num.Env :=
        if t.acc then
          putRegion n t.bank true dr dc ((List.range m).map fun i => (List.range nn).map fun j => n.val other (sr + i) (sc + j)) {}
        else ((List.range m).foldl (fun n i => (List.range nn).foldl (fun n j =>
          n.setCell t.bank (dr + i) (dc + j) (n.cell other (sr + i) (sc + j))) n) n, {})
      finishMn (mnFlags (setMn s core n) core e.flags) core m 0 16

/-- MCSET (R256). -/
def execMcset (t : MnTok) (s : State) : Outcome :=
  runMn s fun s core =>
    let n := getMn s core
    let v : Word := .ofNat 32 (t.opf.toNat / 2 ^ 32)
    let n := if t.opf.getLsbD 4 then { n with gen := if v = 0 then 1 else v } else { n with mc := tput n.mc (t.opf.toNat % 16) v }
    finishMn (setMn s core n) core 0 0 16

/-- MDSET (R237): the descriptor was checked when the send fired. -/
def execMdset (t : MnTok) (w1 w2 : Quad) (s : State) : Outcome :=
  runMn s fun s core =>
    let n := getMn s core
    finishMn (setMn s core { n with md := tput n.md (t.opf.toNat % 16) (descOf w1 w2) }) core 0 0 16

/-- MSIG (R233): every earlier token has completed. -/
def execMsig (_t : MnTok) (s : State) : Outcome := runMn s fun s core => finishMn s core 0 0 1

/-- The iteration registers as R270 lays them out. -/
def iterRegs (n : Node) : List Byte :=
  leBytes 4 n.ittol.toNat ++ leBytes 4 n.itcap ++ leBytes 4 n.itcnt.toNat ++ leBytes 4 n.itres.toNat ++ leBytes 4 n.itprv.toNat
    ++ leBytes 4 n.itstat.toNat ++ List.replicate 24 0

/-- The status block (R235). -/
def statusBlock (n : Node) : List Byte :=
  leBytes 4 n.flg.toNat ++ leBytes 2 (n.last % 1024) ++ [0, 0] ++ leBytes 8 n.tokens ++ iterRegs n

/-- MSTS (R235). -/
def execMsts (t : MnTok) (s : State) : Outcome :=
  runMn s fun s core =>
    let n := getMn s core
    let x := n.operand t.mdc
    whenStarting s core [(x.sp ≥ 2 || x.base % 64 ≠ 0, 0x189)] fun s =>
      if n.next ≠ 0 then finishStores s core 0 0
      else match mnStore s core x.sp { va := x.base, bytes := statusBlock n } with
        | (_, some f) => mnFault s core 0 f
        | (s, none) =>
          let n := { getMn s core with next := 1 }
          setMn s core (if t.opf.getLsbD 0 then { n with flg := 0 } else n)

end Sys2Proof.Machine
end

