-- ==== Sys2Proof/Machine/Iterate.lean ====
section
/-! DEFINITION. Resident tiles: MPOLY, MITER.NS, MITER.GEN, MRES and MFEED (R263 to R277), and the matrix node's RESUME
and ABORT (R259, R273). -/

namespace Sys2Proof.Machine

open Sys2Proof

/-! ## FBUF, GRM and the iteration registers -/

/-- Copies rows 0 to m − 1, the first w bytes of each, of a bank into FBUF (R263). -/
def Node.latch (n : Node) (bank m w : Nat) : Node :=
  { n with fbuf := (List.range m).foldl (fun t i => Memory.writeN t (640 * i) (Memory.readN (n.bank bank) (640 * i) w)) n.fbuf }

/-- An FP32 element of FBUF, and of GRM (R263, R274). -/
def Node.feed (n : Node) (i j : Nat) : Num.Val := val32 (leNat (Memory.readN n.fbuf (640 * i + 4 * j) 4))
def Node.gram (n : Node) (i j : Nat) : Num.Val := val32 (leNat (Memory.readN n.grm (384 * i + 4 * j) 4))

/-- Writes the Gram matrix, row by row. -/
def Node.setGram (n : Node) (gs : List (List Num.Val)) : Node :=
  { n with grm := (numbered gs).foldl (fun t r => Memory.writeN t (384 * r.1) (r.2.flatMap fun v => leBytes 4 (bits32 v))) n.grm }

/-- A field of ITSTAT (R270). -/
def Node.stat (n : Node) (hi lo : Nat) : Nat := n.itstat.toNat / 2 ^ lo % 2 ^ (hi + 1 - lo)
def Node.setStat (n : Node) (hi lo v : Nat) : Node :=
  { n with itstat := .ofNat 32 (n.itstat.toNat - n.stat hi lo * 2 ^ lo + v % 2 ^ (hi + 1 - lo) * 2 ^ lo) }

/-- A form begins (R270): its code, and ACT. -/
def Node.begin (n : Node) (mop : Nat) : Node := { (n.setStat 31 24 mop).setStat 8 8 1 with next := 1 }

/-- The cycles that a form takes to start (R275, R399: of its 16 for start and completion, half come before its first part). -/
def startCycles (n : Node) : Nat := if n.next = 0 then 8 else 0

/-- Ends a form; an iteration says how it ended. -/
def endForm (s : State) (core count cause : Nat) (fin : Option Nat) : State :=
  let n := getMn s core
  let n := match fin with | some v => n.setStat 5 4 v | none => n
  finishMn (setMn s core n) core count cause 8

/-! ## Products and residuals (R264, R268) -/

/-- An operand element under PREC: kept, or rounded to BF16. -/
def precVal (prec : Bool) (v : Num.Val) (e : Num.Env) : Num.Val × Num.Env := if prec then Num.roundVal .bf16 v e else (v, e)

/-- Rows of operand elements under PREC. -/
def precRows (prec : Bool) (rows : List (List Num.Val)) (e : Num.Env) : List (List Num.Val) × Num.Env :=
  rows.foldl (fun (x : List (List Num.Val) × Num.Env) r =>
    let (vs, e) := mapVals (precVal prec) r x.2
    (x.1 ++ [vs], e)) ([], e)

/-- Every product of a row and a column, from a starting value for each place. -/
def products (prec : Bool) (start : Nat → Nat → Num.Val) (rows cols : List (List Num.Val)) (e : Num.Env) : List (List Num.Val) × Num.Env :=
  (numbered rows).foldl (fun (x : List (List Num.Val) × Num.Env) r =>
    let (vs, e) := mapVals (fun (c : Nat × List Num.Val) e => chainDot (!prec) (start r.1 c.1) r.2 c.2 e) (numbered cols) x.2
    (x.1 ++ [vs], e)) ([], e)

/-- Columns of rows. -/
def columns (n : Nat) (rows : List (List Num.Val)) : List (List Num.Val) :=
  (List.range n).map fun j => rows.map fun r => r.getD j posZero

/-- The identity's element. -/
def unitVal (i j : Nat) : Num.Val := if i = j then .fin false 1 1 else posZero

/-- The differences of two grids, each rounded once. -/
def differences (xs ys : List (List Num.Val)) (e : Num.Env) : List Num.Val × Num.Env :=
  mapVals (fun (p : Num.Val × Num.Val) e => add32 p.1 p.2.negate e) (List.zip xs.flatten ys.flatten) e

/-- The larger of two magnitudes. -/
def maxAbs (r v : Num.Val) : Num.Val :=
  let a : Num.Val := match v with | .fin _ n d => .fin false n d | .inf _ => .inf false | v => v
  if Num.lt r a then a else r

/-- The residual of a list of differences (R268). -/
def residual (frob : Bool) (vs : List Num.Val) (e : Num.Env) : Num.Val × Num.Env :=
  if vs.any (·.isNaN) then (.nan false, e)
  else if !frob then (vs.foldl maxAbs posZero, e)
  else if vs.any (·.isInf) then (.inf false, e)
  else
    let (q, e) := round32 (Num.exactSum (vs.map fun v => (Num.mul v v).1), 0) e
    round32 (Num.sqrt q) e

/-- Cycles of w products at the rate of PREC (R264, R275). -/
def precCycles (prec : Bool) (w : Nat) : Nat := if prec then (w + 4095) / 4096 else (6 * w + 4095) / 4096

/-- G = X Xᵀ of rows under PREC, and the residual of G − I (R269, R271). -/
def gramResidual (prec frob : Bool) (xs : List (List Num.Val)) (e : Num.Env) : List (List Num.Val) × Num.Val × Num.Env :=
  let (ps, e) := precRows prec xs e
  let (g, e) := products prec (fun _ _ => posZero) ps ps e
  let id := (List.range xs.length).map fun i => (List.range xs.length).map fun j => unitVal i j
  let (ds, e) := differences g id e
  let (r, e) := residual frob ds e
  (g, r, e)

/-! ## MFEED, MPOLY, MRES -/

/-- Bank mode of MFEED for B's format (R266). -/
def feedMode : Num.Fmt → Option Nat | .fp .fp32 | .fp .bf16 => some 0 | .fp .fp64 => some 1 | _ => none

/-- MFEED (R266). -/
def execMfeed (t : MnTok) (s : State) : Outcome :=
  runMn s fun s core =>
    let n := getMn s core
    let b := n.operand t.mdb
    let (m, nn, k) := (t.m.toNat, t.n.toNat, t.k.toNat)
    let mode := feedMode b.fmt
    whenStarting s core
      [(mode.isNone, 0x183), (mode.isSome && mode ≠ some (n.mode t.bank), 0x185), (n.mode t.bank = 1 && (k > 80 || nn > 80), 0x185),
       (b.sp = 2 && b.bankNo = t.bank, 0x185), (b.lay ≥ 2 || b.badBank n k nn, 0x189)] fun s =>
      let md := mode.getD 0
      let start := startCycles (getMn s core)
      let s := if (getMn s core).next ≠ 0 then s else setMn s core (((getMn s core).latch t.bank m (k * cellBytes md)).begin 0x14)
      wholeOp s core (start + 16 + productCycles b.fmt (m * nn * k)) (b.gridNeeds 0 nn 0 k)
        (fetchGrid (transposed fun s r c => fetchElem s core b r c) 0 k nn 0) fun s (bs, fb) =>
        let n := getMn s core
        let elem (i j : Nat) : Num.Val := modeVal md (leNat (Memory.readN n.fbuf (640 * i + cellBytes md * j) (cellBytes md)))
        let fs := (List.range m).map fun i => (List.range k).map fun j => elem i j
        let (as, e) := precRows (b.fmt = .fp .bf16) fs { flags := fb }
        let (n, e) := (numbered as).foldl (fun (x : Node × Num.Env) r => (numbered bs).foldl (fun (x : Node × Num.Env) c =>
          let old := if t.acc then n.cell t.bank r.1 c.1 else 0
          let (v, e) := (List.zip (pieces32 r.2) (pieces32 c.2)).foldl (fun (y : Nat × Num.Env) p =>
            productStep md (b.fmt = .fp .fp32) y.1 p.1 p.2 y.2) (old, x.2)
          (x.1.setCell t.bank r.1 c.1 v, e)) x) (n, e)
        endForm (mnFlags (setMn s core n) core e.flags) core m 0 none

/-- A Horner step of MPOLY (R267): X's columns under PREC, c_k, PREC, d, the step. -/
def hornerStep (s : State) (core bank : Nat) (prec : Bool) (cols : List (List Num.Val)) (c : Nat → Num.Val) (d st : Nat) : State :=
  let n := getMn s core
  let (ys, e) := precRows prec (n.region bank cols.length cols.length) {}
  let (zs, e) := products prec (fun i j => if i = j then c (d - st) else posZero) ys cols e
  let n := (numbered zs).foldl (fun n r => n.setRow bank r.1 0 r.2) n
  mnFlags (setMn s core { n.setStat 23 16 st with next := st + 2, count := st }) core e.flags

/-- MPOLY (R267, R274, R275): the latch, then its steps; step st is next when the node's position is st + 1. -/
def execMpoly (t : MnTok) (s : State) : Outcome :=
  runMn s fun s core =>
    let w := t.m.toNat
    let o := t.opf.toNat
    let (cb, d, prec) := (o % 16, o / 2 ^ 4 % 16, t.opf.getLsbD 8)
    whenStarting s core [((getMn s core).mode t.bank ≠ 0, 0x185)] fun s =>
      let start := startCycles (getMn s core)
      let s := if (getMn s core).next ≠ 0 then s
        else
          let n := (((getMn s core).latch t.bank w (4 * w)).begin 0x10).setStat 23 16 0
          setMn s core ((List.range w).foldl (fun n i =>
            n.setRow t.bank i 0 ((List.range w).map fun j => if i = j then n.mcVal (cb + d) else posZero)) n)
      let n := getMn s core
      if n.next = 1 then runPart s core (start + 8) fun s => mnAgain (setMn s core { getMn s core with next := 2 }) core
      else
        runPart s core (precCycles prec (w ^ 3) + 8) fun s =>
          let (xs, e) := precRows prec ((List.range w).map fun i => (List.range w).map fun j => n.feed i j) {}
          -- the flags of rounding X count once
          let s := if n.next = 2 then mnFlags s core e.flags else s
          let s := hornerStep s core t.bank prec (columns w xs) (fun k => n.mcVal (cb + k)) d (n.next - 1)
          if n.next - 1 ≥ d then endForm s core d 0 none else mnAgain s core

/-- MRES (R269). -/
def execMres (t : MnTok) (s : State) : Outcome :=
  runMn s fun s core =>
    let (m, nn) := (t.m.toNat, t.n.toNat)
    let (diff, frob, prec) := (t.opf.getLsbD 0, t.opf.getLsbD 1, t.opf.getLsbD 2)
    let other := 1 - t.bank.val
    whenStarting s core [((getMn s core).mode t.bank ≠ 0 || (diff && (getMn s core).mode other ≠ 0), 0x185)] fun s =>
      let start := startCycles (getMn s core)
      let s := if (getMn s core).next ≠ 0 then s else setMn s core ((getMn s core).begin 0x13)
      runPart s core (start + (if diff then bankCycles m nn + 8 else precCycles prec (m * m * nn) + 8)) fun s =>
      let n := getMn s core
      let xs := n.region t.bank m nn
      let (n, r, e) : Node × Num.Val × Num.Env :=
        if diff then
          let (ds, e) := differences xs (n.region other m nn) {}
          let (r, e) := residual frob ds e
          (n, r, e)
        else
          let (g, r, e) := gramResidual prec frob xs {}
          (n.setGram g, r, e)
      let s := mnFlags (setMn s core { n with itres := .ofNat 32 (bits32 r) }) core e.flags
      endForm s core 0 0 none

/-! ## Iterations -/

/-- Fields of an iteration's OPF (R265). -/
structure IterTok where
  tol : Num.Val
  cap : Nat
  cb : Nat
  cont : Bool
  dtrap : Bool
  divw : Nat
  frob : Bool
  prec : Bool

def iterTok (t : MnTok) : IterTok :=
  let o := t.opf.toNat
  { tol := val32 (o / 2 ^ 32), cap := o / 2 ^ 16 % 2 ^ 16, cb := o / 2 ^ 12 % 16, cont := t.opf.getLsbD 11, dtrap := t.opf.getLsbD 10,
    divw := o / 2 ^ 7 % 8, frob := t.opf.getLsbD 6, prec := t.opf.getLsbD 5 }

/-- The registers when an iteration starts (R270). -/
def iterBegin (n : Node) (t : MnTok) (mop : Nat) : Node :=
  let x := iterTok t
  let n := { n.begin mop with itcap := x.cap, ittol := .ofNat 32 (t.opf.toNat / 2 ^ 32) }
  let n := n.setStat 1 0 0
  if x.cont then n else { n with itcnt := 0, itprv := 0x7f800000, itres := 0x7f800000 }.setStat 11 9 0

/-- DivergenceTest (R273): GROW, and the cause where the iteration diverges. -/
def divergence (n : Node) (divw : Nat) (r : Num.Val) : Node × Option Cause :=
  if r.isNaN ∨ r = .inf false then (n, some 0x190)
  else
    let g := if Num.lt (val32 n.itprv.toNat) r then min 7 (n.stat 11 9 + 1) else 0
    (n.setStat 11 9 g, if divw ≠ 0 ∧ g ≥ divw then some 0x191 else none)

/-- A divergence ends the operation, or under DTRAP stops the node (R273). -/
def diverge (s : State) (core : Nat) (dtrap : Bool) (cause : Cause) : State :=
  let n := getMn s core
  if dtrap then
    raisePort (dropLines (setMn s core { n with stopped := 2, cause := cause, addr := 0, undo := none }) core) core 12 cause 0 (.ofNat 128 n.count)
  else endForm s core n.count cause (some 2)

/-- Whether a residual is within the tolerance. -/
def withinTol (r tol : Num.Val) : Bool := Num.lt r tol || Num.eq r tol

/-- An iteration at its cap ends; else the node goes on with its next part. -/
def capTest (s : State) (core : Nat) : State :=
  let n := getMn s core
  if n.itcnt.toNat = n.itcap then endForm s core n.count 0x192 (some 1) else mnAgain s core

/-- The tolerance test, and the cap after it (R271 to R273). -/
def tolTest (s : State) (core : Nat) (tol : Num.Val) : State :=
  let n := getMn s core
  if withinTol (val32 n.itres.toNat) tol then endForm s core n.count 0 (some 0) else capTest s core

/-- The exact sum of terms a × x, rounded once. -/
def sumTerms (ts : List (Num.Val × Num.Val)) (e : Num.Env) : Num.Val × Num.Env :=
  match ts with
  | [] => (posZero, e)
  | p :: ps =>
    let (v, f) := Num.mul p.1 p.2
    round32 (ps.foldl (fun (x : Num.Val × Num.Flags) q =>
      let (w, g) := Num.mul q.1 q.2
      let (y, h) := Num.add x.1 w .rne
      (y, x.2 ||| g ||| h)) (v, f)) e

/-- MITER.NS after its tests (R271): the update of the iterate. -/
def nsUpdate (n : Node) (x : IterTok) (bank m nn : Nat) : Node × Num.Env :=
  let (a, b) := (n.mcVal x.cb, n.mcVal (x.cb + 1))
  let fs := (List.range m).map fun i => (List.range nn).map fun j => n.feed i j
  let (gs, e) := precRows x.prec ((List.range m).map fun i => (List.range m).map fun j => n.gram i j) {}
  let (ps, e) := precRows x.prec fs e
  let (qs, e) := products x.prec (fun _ _ => posZero) gs (columns nn ps) e
  let (n, e) := (numbered (List.zip fs qs)).foldl (fun (y : Node × Num.Env) r =>
    let (vs, e) := mapVals (fun (p : Num.Val × Num.Val) e => sumTerms [(a, p.1), (b, p.2)] e) (List.zip r.2.1 r.2.2) y.2
    (y.1.setRow bank r.1 0 vs, e)) (n, e)
  ({ n with itcnt := n.itcnt + 1, count := n.count + 1 }.setStat 1 0 0, e)

/-- PHASE 0 of MITER.NS (R271): the iterate is latched, its Gram matrix formed, and its residual tested. -/
def nsResidual (s : State) (core : Nat) (t : MnTok) : State :=
  let x := iterTok t
  let (m, nn) := (t.m.toNat, t.n.toNat)
  let n := (getMn s core).latch t.bank m (4 * nn)
  let (g, r, e) := gramResidual x.prec x.frob ((List.range m).map fun i => (List.range nn).map fun j => n.feed i j) {}
  let n := { n.setGram g with itprv := n.itres, itres := .ofNat 32 (bits32 r) }.setStat 1 0 1
  let (n, c) := divergence n x.divw r
  let s := mnFlags (setMn s core n) core e.flags
  match c with
  | some c => diverge s core x.dtrap c
  | none => tolTest s core x.tol

/-- MITER.NS (R271, R273 to R275): each PHASE is a part of its own. -/
def execMiterNs (t : MnTok) (s : State) : Outcome :=
  runMn s fun s core =>
    whenStarting s core [((getMn s core).mode t.bank ≠ 0, 0x185)] fun s =>
      let start := startCycles (getMn s core)
      let s := if (getMn s core).next ≠ 0 then s else setMn s core (iterBegin (getMn s core) t 0x11)
      let x := iterTok t
      let part := precCycles x.prec (t.m.toNat * t.m.toNat * t.n.toNat) + 8
      let n := getMn s core
      if n.tolerance then tolTest (setMn s core { n with tolerance := false }) core x.tol
      else if n.stat 1 0 = 0 then runPart s core (start + 8 + part) fun s => nsResidual s core t
      else runPart s core part fun s =>
        let (n, e) := nsUpdate (getMn s core) x t.bank t.m.toNat t.n.toNat
        mnAgain (mnFlags (setMn s core n) core e.flags) core

/-- An iteration of MITER.GEN with its B and C (R272): the new iterate, its residual and its tests. -/
def genStep (s : State) (core : Nat) (t : MnTok) (bs cs : List (List Num.Val)) (fl : Num.Flags) : State :=
  let x := iterTok t
  let (m, nn) := (t.m.toNat, t.n.toNat)
  let n := (getMn s core).latch t.bank m (4 * nn)
  let (ca, cb, cc) := (n.mcVal x.cb, n.mcVal (x.cb + 1), n.mcVal (x.cb + 2))
  let fs := (List.range m).map fun i => (List.range nn).map fun j => n.feed i j
  let (ps, e) := precRows x.prec fs { flags := fl }
  let (bs, e) := precRows x.prec bs e
  let (qs, e) := products x.prec (fun _ _ => posZero) ps bs e
  let (xn, e) := (List.zip fs (List.zip qs cs)).foldl (fun (y : List (List Num.Val) × Num.Env) r =>
    let (vs, e) := mapVals (fun (p : Num.Val × Num.Val × Num.Val) e => sumTerms [(ca, p.1), (cb, p.2.1), (cc, p.2.2)] e)
      (List.zip r.1 (List.zip r.2.1 r.2.2)) y.2
    (y.1 ++ [vs], e)) ([], e)
  let (ds, e) := differences xn fs e
  let (r, e) := residual x.frob ds e
  let s := dropLines (mnFlags (setMn s core n) core e.flags) core
  if r.isNaN ∨ r = .inf false then diverge s core x.dtrap 0x190
  else
    let n := (numbered xn).foldl (fun n row => n.setRow t.bank row.1 0 row.2) (getMn s core)
    let n := { n with itcnt := n.itcnt + 1, count := n.count + 1, itprv := n.itres, itres := .ofNat 32 (bits32 r) }
    let s := setMn s core n
    if withinTol r x.tol then endForm s core n.count 0 (some 0)
    else
      let (n, d) := divergence n x.divw r
      let s := setMn s core n
      match d with
      | some d => diverge s core x.dtrap d
      | none => capTest s core

/-- MITER.GEN (R272 to R275): each iteration is a part of its own, for which B and C are read afresh. -/
def execMiterGen (t : MnTok) (s : State) : Outcome :=
  runMn s fun s core =>
    let n := getMn s core
    let (b, c) := (n.operand t.mdb, n.operand t.mdc)
    let (m, nn) := (t.m.toNat, t.n.toNat)
    let plain (f : Num.Fmt) : Bool := f = .fp .fp32 || f = .fp .bf16
    whenStarting s core
      [(!plain b.fmt || !plain c.fmt, 0x183), (n.mode t.bank ≠ 0, 0x185),
       ((b.sp = 2 && b.bankNo = t.bank) || (c.sp = 2 && c.bankNo = t.bank), 0x185),
       (b.lay ≥ 2 || c.lay ≥ 2 || b.badBank n nn nn || c.badBank n m nn, 0x189)] fun s =>
      let start := startCycles (getMn s core)
      let s := if (getMn s core).next ≠ 0 then s else setMn s core (iterBegin (getMn s core) t 0x12)
      let x := iterTok t
      let n := getMn s core
      if n.tolerance then tolTest (setMn s core { n with tolerance := false }) core x.tol
      else wholeOp s core (start + precCycles x.prec (m * nn * nn) + 16) (b.gridNeeds 0 nn 0 nn ++ c.gridNeeds 0 nn 0 m)
        (fetchPair (fetchGrid (transposed fun s r c => fetchElem s core b r c) 0 nn nn 0) (fetchGrid (fun s r k => fetchElem s core c r k) 0 nn m 0))
        fun s (bs, cs, fl) => genStep s core t bs cs fl

/-! ## RESUME and ABORT -/

/-- Whether a token is of the iterations (R231). -/
def iterToken (m : Cmd) : Bool := let c := (pw m.packet 0).toNat % 256; c = 0x11 || c = 0x12

/-- Ends the head token with a cause: END says how an iteration ended. -/
def endHead (s : State) (core count cause fin : Nat) : State :=
  match headCmd s core 12 with
  | some m => endForm s core count cause (if iterToken m then some fin else none)
  | none => s

/-- A node that was stopped at its head token's acceptance discards it (R232). -/
def discardHead (s : State) (core : Nat) : State :=
  dropHead (setMn s core { getMn s core with stopped := 0, cause := 0, addr := 0 }) core 12

/-- MN_RESUME (R232, R259, R273). -/
def execMnResume (core : Nat) (s : State) : Outcome :=
  let n := getMn s core
  match n.stopped with
  | 1 => .next (setMn s core { n with stopped := 0, cause := 0, addr := 0 })
  | 2 =>
    if n.cause = 0x191 then
      let n := n.setStat 11 9 0
      .next (setMn s core { n with stopped := 0, cause := 0, addr := 0, tolerance := true })
    else .next (endHead s core n.count n.cause 2)
  | 3 => .next (discardHead s core)
  | _ => .next s

/-- MN_ABORT (R232, R259, R273). -/
def execMnAbort (core : Nat) (s : State) : Outcome :=
  let n := getMn s core
  match n.stopped with
  | 1 | 2 => .next (endHead s core n.count n.cause 3)
  | 3 => .next (discardHead s core)
  | _ => .next s

end Sys2Proof.Machine
end

