-- ==== Sys2Proof/Machine/PortCmds.lean ====
section
/-! DEFINITION. What a partition owns (R405, R413), the dirty-range log (R410), the commands of the memory ports (R407),
remote barriers (R168), host egress (R428) and peer stores (R430). -/

namespace Sys2Proof.Machine

open Sys2Proof

def getPart (s : State) (p : Nat) : Partition := tget {} s.parts p
def setPart' (s : State) (p : Nat) (x : Partition) : State := { s with parts := tput s.parts p x }

/-! ## What a partition owns -/

/-- The cores of a partition's set that belong to it now: where sets overlap, a core belongs to the partition it joined last
(R348, R413). -/
def partCores (s : State) (part : Nat) : List Nat := (getPart s part).cores.filter fun k => (getCore s k).part = some part

/-- Whether a physical byte lies in the regions of a partition, in a space that a core may reach (R289, R405, R413). -/
def ownsByte (s : State) (part core pa : Nat) : Bool :=
  let p := getPart s part
  match spaceOf pa with
  | .global => p.units.contains (pa / 2 ^ 28)
  | .view => match findView s.fw (pa / 128) with | some (_, fw, _) => fw.part.toNat = part | none => false
  | .mpad b => p.cores.any fun k => routerOfCore k = b
  | .clus c _ => core / 16 = c && p.cores.any fun k => k / 16 = c
  | .cpad k _ => k = core && p.cores.contains k
  | .host | .nowhere => false

/-- Whether a byte is owned at every step of a range: its first byte, and the first of each later block of `step` bytes. -/
def ownsSteps (s : State) (part core step pa n : Nat) : Bool :=
  (List.range ((pa + n - 1) / step - pa / step + 1)).all fun i => ownsByte s part core (max pa ((pa / step + i) * step))

/-- Whether a range of physical bytes is owned: a view's range is in lines of 128 bytes (R300), no other region is smaller than 64 KiB. -/
def ownsRange (s : State) (part core pa n : Nat) : Bool :=
  ownsSteps s part core (if spaceOf pa = .view then 128 else 65536) pa n

/-- Every byte that an entry can map is owned (R405). -/
def ownsWin (s : State) (part core : Nat) (w : Win) : Bool :=
  if w.pitched then (List.range (w.size / w.rowlen)).all fun r => ownsRange s part core (w.pbase + r * w.pitch) w.rowlen
  else ownsRange s part core w.pbase w.size

/-! ## Window entries (R404, R405) -/

/-- A window entry read from its 256 bits. -/
def winOf (lo hi : Quad) : Win :=
  { rowlen := fld hi 127 96, pitch := fld hi 95 64, rsvd := fld hi 63 58 ≠ 0 || fld lo 63 56 ≠ 0, valid := bit hi 57, wr := bit hi 56,
    pitched := bit hi 55, rem := bit hi 54, mod := fld hi 53 40, size := fld hi 39 0, inc := fld lo 127 112, pbase := fld lo 111 64,
    vbase := fld lo 55 0 }

/-- Why an install is refused (R405, R429, R432). -/
def winRefusal (s : State) (core port : Nat) (w : Win) : Option Cause :=
  let part := partOf s core
  let others := (((getCore s core).port port).wins.map (·.2)).filter (·.valid)
  if w.vbase % 16 ≠ 0 ∨ w.size % 16 ≠ 0 ∨ w.pbase % 16 ≠ 0 ∨ w.size = 0 ∨ w.vbase + w.size > 2 ^ 56 ∨ w.rsvd
    ∨ (w.pitched ∧ (w.pitch = 0 ∨ w.pitch % 16 ≠ 0 ∨ w.rowlen = 0 ∨ w.rowlen % 16 ≠ 0 ∨ w.rowlen > w.pitch ∨ w.size % w.rowlen ≠ 0))
    ∨ others.any (fun o => o.vbase < w.vbase + w.size && w.vbase < o.vbase + o.size) then some 0x0A2
  else if w.rem then
    if w.mod ≥ 9216 ∨ !feature s 1 then some 0x0A2 else if !peerAllowed s part w.mod then some 0x345 else none
  else if ownsWin s part core w then none else some 0x0A2

/-! ## The dirty-range log (R410) -/

/-- A log entry. -/
def logEntry (lo hi : Nat) (lseq : Word) (core src : Nat) : List Byte :=
  leBytes 8 lo ++ leBytes 8 hi ++ leBytes 4 lseq.toNat ++ leBytes 2 core ++ [.ofNat 8 src, 0] ++ List.replicate 8 0

/-- Appends an entry to a partition's log; a full ring sets OVF. -/
def appendLog (s : State) (part lo hi core src : Nat) : State :=
  let p := getPart s part
  if p.logTail - p.logHead ≥ 2 ^ p.logK then setPart' s part { p with ovf := true }
  else
    let s := { s with mem := Memory.writeN s.mem (p.logBase + 32 * (p.logTail % 2 ^ p.logK)) (logEntry lo hi p.lseq core src) }
    setPart' s part { p with logTail := p.logTail + 1, lseq := p.lseq + 1 }

/-- Deposits the dirty range of a window entry, if it is not empty. -/
def depositWin (s : State) (core port k : Nat) : State :=
  let c := getCore s core
  let p := c.port port
  match tget none p.dirty k with
  | some (lo, hi) =>
    appendLog (setCore s core (c.setPort port { p with dirty := tdel p.dirty k })) (partOf s core) lo hi core (port + 4 * k)
  | none => s

/-- Deposits every dirty range of a core. -/
def depositCore (s : State) (core : Nat) : State :=
  let s := (List.range 4).foldl (fun s p => (List.range 16).foldl (fun s k => depositWin s core p k) s) s
  let c := getCore s core
  let p := c.port 0
  match p.walkDirty with
  | some (lo, hi) => appendLog (setCore s core (c.setPort 0 { p with walkDirty := none })) (partOf s core) lo hi core 0x40
  | none => s

/-- A walk whose reply is to be stored in lines that an entry translated (R215, R407). -/
def Cmd.replyThrough (m : Cmd) (port k : Nat) : Bool := (m.pas.drop 1).any fun x => x.win = some (port, k)

/-- Writes that an entry translated and that are not yet acknowledged, among them the reply stores of walks (R407). -/
def winBusy (s : State) (core port k : Nat) : Bool :=
  let c := getCore s core
  (s.reqs.any fun r => r.2.core = core && r.2.update && r.2.parts.any fun p => p.win = some (port, k) && p.phase ≠ .done)
    || (c.queue 16).q.any (·.replyThrough port k) || c.walks.any fun w => w.2.cmd.replyThrough port k

/-- An entry stops translating. -/
def clearWin (s : State) (core port k : Nat) : State :=
  let c := getCore s core
  let p := c.port port
  setCore s core (c.setPort port { p with wins := tdel p.wins k })

/-- Every entry of a core is cleared and its ranges deposited (R404, R410). -/
def clearWindows (s : State) (core : Nat) : State :=
  let s := depositCore s core
  let c := getCore s core
  setCore s core ((List.range 4).foldl (fun c n => c.setPort n { c.port n with wins := [] }) c)

/-- Installs an entry, or says why not: one that is not valid is checked too, and leaves the entry clear. -/
def installWin (s : State) (core port k : Nat) (w : Win) : State × Cause :=
  match winRefusal s core port w with
  | some c => (s, c)
  | none =>
    if !w.valid then (s, 0)
    else
      let c := getCore s core
      let p := c.port port
      (setCore s core (c.setPort port { p with wins := tput p.wins k { w with mark := true } }), 0)

/-! ## Memory-port commands (R407) -/

/-- WSET: an entry already valid is cleared first, as by WCLR. -/
def execWset (win : Fin 16) (_trapf : Bool) (w1 w2 : Quad) (s : State) : Outcome :=
  runCmd s fun core port m =>
    let s := clearWin s core (port - 8) win
    if winBusy s core (port - 8) win then s
    else
      let s := depositWin s core (port - 8) win
      let (s, c) := installWin s core (port - 8) win (winOf w1 w2)
      finishCmd s core port 0 0 c m.pts 1

/-- WCLR. -/
def execWclr (win : Fin 16) (_trapf : Bool) (s : State) : Outcome :=
  runCmd s fun core port m =>
    let s := clearWin s core (port - 8) win
    if winBusy s core (port - 8) win then s
    else finishCmd (depositWin s core (port - 8) win) core port 0 0 0 m.pts 1

/-- RELEASE. -/
def execRelease (entry : Fin 32) (_trapf : Bool) (s : State) : Outcome :=
  runCmd s fun core port m => finishCmd (releaseEntry s core (port - 8) entry) core port 0 0 0 m.pts 1

/-- Whether a leaf overlaps a range of virtual addresses. -/
def Leaf.meets (l : Leaf) (va n : Nat) : Bool := l.vbase < va + n && va < l.vbase + l.size

/-- Drops every cached radix translation of a partition that a test picks, module-wide. -/
def dropLeaves (s : State) (part : Nat) (f : Leaf → Bool) : State :=
  { s with
    cores := s.cores.map fun k =>
      if k.2.part = some part then (k.1, k.2.setPort 0 { k.2.port 0 with tlb := (k.2.port 0).tlb.filter fun l => !f l }) else k
    slices := s.slices.map fun k => (k.1, { k.2 with tcache := k.2.tcache.filter fun l => !(l.1 = part && f l.2) }) }

/-- INVAL. -/
def execInval (_trapf : Bool) (vbase : BitVec 56) (size : Dword) (s : State) : Outcome :=
  runCmd s fun core port m =>
    finishCmd (dropLeaves s (partOf s core) fun l => l.meets vbase.toNat size.toNat) core port 0 0 0 m.pts 1

/-- PSTAT: corrected soft errors in ESP, partition resets in COUNT. -/
def execPstat (s : State) : Outcome :=
  runCmd s fun core port m =>
    let p := getPart s (partOf s core)
    finishCmd s core port (min p.soft (2 ^ 32 - 1)) p.resets 0 m.pts 1

/-! ## Remote barriers (R168) -/

/-- A command to a barrier of another module goes out as a request that its peer answers. -/
def askPeer (s : State) (core : Nat) (m : Cmd) (mod : Nat) (op : MemOp) : State :=
  let part : Part :=
    { lane := 0, va := 0, pa := 0, n := 16, home := .remote mod, inc := (tget {} s.links mod : Link).inc, data := pw m.packet 0,
      phase := .travelling s.cycle }
  let u := unitAt core m.unit
  let r : Req :=
    { core := u.core, unit := u.ix, slot := m.slot, op := op, posted := false, reuse := .normal, noalloc := false, laneBits := 128,
      sink := .word m.creg, parts := [part], pts := m.pts, update := false }
  { setReq s s.nextReq r with nextReq := s.nextReq + 1 }

/-- BAR_REMOTE_ARRIVE: counted once the sender's earlier updates are acknowledged, with what their acknowledgements carried (R310, R312). -/
def execBarRemoteArrive (peer : Option (BitVec 14)) (core : Fin 2048) (bar : Fin 2048) (count : BitVec 12) (s : State) : Outcome :=
  runCmd s fun k port m =>
    if !m.updates.isEmpty then s
    else match peer with
      | some mod => askPeer (dropHead s k port) k { m with pts := tsMax m.pts (getCore s k).clock } mod.toNat .store
      | none =>
        if ((getCore s core).bar bar).expected = 0 then
          finishCmd (raiseTrap s core { kind := 2, src := 19, cause := 0x140, detail := .ofNat 128 (bar.val + k * 2 ^ 16) })
            k port 0 0 0 m.pts 1
        else finishCmd (countArrivals s core bar count.toNat (tsMax m.pts (getCore s k).clock)).1 k port 0 0 0 m.pts 1

/-- BAR_REMOTE_WAIT: the full form of R163, at a barrier of another core. -/
def execBarRemoteWait (peer : Option (BitVec 14)) (core : Fin 2048) (bar : Fin 2048) (phase : BitVec 16) (s : State) : Outcome :=
  runCmd s fun k port m =>
    match peer with
    | some mod => askPeer (dropHead s k port) k m mod.toNat .load
    | none =>
      let c := getCore s core
      let b := c.bar bar
      if b.expected = 0 then finishCmd s k port 0 0 0x140 m.pts 1
      else
        let d := (b.phase - phase).toNat
        let w : Wait :=
          { unit := (unitAt k m.unit).ix, kind := .barFull bar phase (2 ≤ d && d ≤ 0x7FFF), sink := .nul, slot := m.slot,
            remote := some ((unitAt k m.unit).core, (unitAt k m.unit).ix, m.creg) }
        let s := dropHead s k port
        let c := getCore s core
        let id := s.stamps
        let s := { setCore s core { c with waits := tput c.waits id w } with stamps := id + 1 }
        if waitHolds c m.unit w.kind then finishWait s core id w else s

/-! ## Host egress and peer stores -/

/-- EGRESS (R318, R428): held while the ring has no free entry, and until every update that its launch had accepted before it
is acknowledged. -/
def execEgress (sink : Fin 64) (tag : BitVec 3) (payload : Quad) (s : State) : Outcome :=
  runCmd s fun core port m =>
    let p := partOf s core
    if (getPart s p).ringRoom ∧ writesDone s core m.joined then finishCmd (writeRing s p sink ⟨payload, tag⟩) core port 0 0 0 m.pts 1 else s

/-- PSTORE (R430): it completes when it is accepted; the peer's answer settles it. -/
def execPstore (mod : BitVec 14) (inc : BitVec 16) (pa : BitVec 48) (data : List Quad) (s : State) : Outcome :=
  runCmd s fun core port m =>
    let parts := (List.zip (List.range data.length) data).map fun p =>
      ({ lane := p.1, va := 0, pa := pa.toNat + 16 * p.1, n := 16, home := .remote mod.toNat, inc := inc.toNat, data := p.2,
         phase := if p.1 = 0 then .travelling s.cycle else .done } : Part)
    let r : Req :=
      { core := core, unit := peerUnit, slot := m.slot, op := .store, posted := true, reuse := .normal, noalloc := false, laneBits := 128,
        sink := .nul, parts := parts, pts := m.pts, update := true, born := s.cycle }
    let s := { setReq s s.nextReq r with nextReq := s.nextReq + 1 }
    finishCmd s core port 0 (16 * data.length) 0 m.pts 1

/-- PSIG (R430). -/
def execPsig (s : State) : Outcome :=
  runCmd s fun core port m =>
    if s.reqs.any fun r => r.2.core = core && r.2.unit = peerUnit then s
    else
      let c := getCore s core
      finishCmd (setCore s core { c with peerLost := 0 }) core port 0 c.peerLost (if c.peerLost ≠ 0 then lostCause else 0) m.pts 1

end Sys2Proof.Machine
end

