-- ==== Sys2Proof/Machine/Fabric.lean ====
section
/-! DEFINITION. The configuration queue (R24, R40, R73, R185 to R187): loading and unloading elements, and phase
commands. -/

namespace Sys2Proof.Machine

open Sys2Proof

/-- The port number of a core's configuration queue. -/
def fabricPort : Nat := 20

/-- An element as an image record configures it, Running (R24, R73). -/
def elemOfRecord (b : List Byte) : Elem :=
  { slots := (List.range 32).map fun i => (i, .ofNat 32 (rd b (0x30 + 4 * i) 4)), sloten := .ofNat 32 (rd b 8 4),
    trig := (List.range 64).map fun i => (i, .ofNat 64 (rd b (0xB0 + 8 * i) 8)), p := .ofNat 8 (rd b 6 1),
    a := (List.range 4).map fun i => (i, .ofNat 32 (rd b (0x10 + 4 * i) 4)),
    lane := Memory.writeN [] 0 ((b.drop 0x2B0).take (rd b 0x20 4)),
    srstate := let v : Word := .ofNat 32 (rd b 0xC 4); if v = 0 then 1 else v, estat := 1 }

/-- The first trigger entry of a record that fails the check of R40. -/
def badTriggerOf (b : List Byte) : Option Nat := (List.range 64).find? fun i => badTrigger (rd b (0xB0 + 8 * i) 8)

/-- An element becomes Unconfigured (R24): its channels and what it has in flight are gone, and replies and completions on
their way to it are dropped; a command that it gave still completes (R345). -/
def unconfigure (s : State) (u : UnitId) : State :=
  let s := cancelAll s u
  let c := getCore s u.core
  let s := setCore s u.core { c with elems := tdel c.elems u.ix }
  -- what another core's engines, ports and waits still owe it has nowhere to go either
  let drop (k : Nat) (c : Core) : Core :=
    let mine (n : Nat) : Bool := unitAt k n = u
    { c with
      waits := (c.waits.filter fun w => !(w.2.remote.isNone && w.2.peer.isNone && w.2.dest k = u)).map fun w => match w.2.remote with
        | some (a, b, _) => if a = u.core ∧ b = u.ix then (w.1, { w.2 with remote := some (a, b, none) }) else w
        | none => w
      comps := c.comps.map fun x => (x.1, x.2.map fun m => if mine m.unit then { m with reg := none } else m)
      queues := c.queues.map fun x => (x.1, { x.2 with q := x.2.q.map fun m => if mine m.unit then { m with creg := none } else m })
      walks := c.walks.map fun w => (w.1, if mine w.2.cmd.unit then { w.2 with cmd := { w.2.cmd with creg := none } } else w.2) }
  { s with
    reqs := s.reqs.map fun r =>
      if r.2.core = u.core ∧ r.2.unit = u.ix then (r.1, { r.2 with sink := match r.2.sink with | .word _ => .word none | _ => .nul }) else r
    cores := s.cores.map fun k => (k.1, drop k.1 k.2) }

/-- The elements a mask selects, in rising index order. -/
def selected (mask : Dword) : List Nat := (List.range 64).filter fun i => mask.getLsbD i

/-- Bytes that have arrived from an address on: the leading answered reads of the queue's list. -/
def arrivedFrom (va : Nat) : List Fetch → List Byte
  | f :: fs =>
    match f.ans with
    | .got bs _ => if f.va + f.n ≤ va then arrivedFrom va fs else (bs.take f.n).drop (va - f.va) ++ arrivedFrom (max va (f.va + f.n)) fs
    | _ => []
  | [] => []

/-- The first read that has not been answered with bytes. -/
def firstOpen : List Fetch → Option Fetch
  | f :: fs => match f.ans with | .got _ _ => firstOpen fs | _ => some f
  | [] => none

/-- A record's bytes, once all of them have arrived (R73). -/
def wholeRecord (bs : List Byte) : Option (List Byte) :=
  let n := 0x2B0 + min 8192 (rd bs 0x20 4)
  if bs.length < 0x2B0 ∨ bs.length < n then none else some (bs.take n)

/-- The next read of a LOAD: 64 bytes of a block, or up to its end, each cycle (R186). It reads on before it knows where the last record ends;
what lies beyond is discarded, and a fault there is not met. -/
def loadAhead (s : State) (core img : Nat) (left : Nat) : State :=
  let fs := fetchesOf s core fabricPort
  let va := match fs.getLast? with | some f => f.va + f.n | none => img
  if fs.length ≥ 256 ∨ va ≥ img + left * (0x2B0 + 8192) then s else engAsk s core fabricPort va (64 - va % 64) .normal

/-- What a LOAD counts: the elements it is yet to load, the address it has come to, the elements loaded and the cause so far. -/
structure Loading where
  els : List Nat
  va : Nat
  n : Nat
  cause : Cause

def loadingOf (e : Engine) : Loading := { els := e.pos.drop 1, va := e.pos.headD 0, n := e.count, cause := e.cause }

/-- A LOAD goes on from where it has come to. -/
def keepLoading (s : State) (core : Nat) (l : Loading) : State :=
  setEng s core fabricPort { getEng s core fabricPort with state := 1, pos := l.va :: l.els, count := l.n, cause := l.cause }

/-- A LOAD ends: it completes 8 cycles after its last byte. -/
def endLoading (s : State) (core : Nat) (l : Loading) (cause : Cause) : State :=
  finishCmd (idleEngine s core fabricPort) core fabricPort 0 l.n cause (getEng s core fabricPort).pts 8

/-- Loads the elements whose records have arrived, each as soon as its own has; the fuel is the number of elements left. -/
def loadElems (core : Nat) : Nat → Loading → State → State
  | 0, l, s => endLoading s core l l.cause
  | k + 1, l, s =>
    match l.els with
    | [] => endLoading s core l l.cause
    | el :: els =>
      match wholeRecord (arrivedFrom l.va (fetchesOf s core fabricPort)) with
      | none =>
        (match firstOpen (fetchesOf s core fabricPort) with
          | some { ans := .fault (.stop x _), .. } => endLoading s core l x
          | some { ans := .fault (.ends x), .. } => endLoading s core l x
          | _ => keepLoading s core l)
      | some b =>
        if rd b 2 1 ≠ el / 8 ∨ rd b 3 1 ≠ el % 8 then endLoading s core l 0x309
        else match badTriggerOf b with
          | some i =>
            let s := raiseTrap s core { kind := 1, src := el, cause := 0x00C, detail := .ofNat 128 i }
            loadElems core k { l with els := els, va := l.va + b.length, cause := 0x00C } s
          | none => loadElems core k { l with els := els, va := l.va + b.length, n := l.n + 1 } (setElem s ⟨core, el⟩ (elemOfRecord b))

/-- A timestamp raised by those that the answered reads of a list carry. -/
def fetchesTs (t : Stamp) (fs : List Fetch) : Stamp := fs.foldl (fun t f => match f.ans with | .got _ ts => tsMax t ts | _ => t) t

/-- FABRIC_LOAD (R186): its records arrive at 64 bytes a cycle, after the first reply; every selected element must be Unconfigured. -/
def execFabricLoad (mask : Dword) (img : Dword) (s : State) : Outcome :=
  runCmd s fun core port m =>
    let e := getEng s core port
    let els := selected mask
    if e.state = 0 ∧ els.any (fun el => (getElem s ⟨core, el⟩).run ≠ 0) then finishCmd s core port 0 0 0x307 m.pts 8
    else
      let l : Loading := if e.state = 0 then { els := els, va := img.toNat, n := 0, cause := 0 } else loadingOf e
      let s := setEng s core port { e with pts := fetchesTs (if e.state = 0 then m.pts else e.pts) (fetchesOf s core port) }
      loadElems core (l.els.length + 1) l (loadAhead s core img.toNat els.length)

/-- FABRIC_UNLOAD (R186). -/
def execFabricUnload (mask : Dword) (s : State) : Outcome :=
  runCmd s fun core port m =>
    let els := (selected mask).filter fun el => (getElem s ⟨core, el⟩).run ≠ 0
    finishCmd (els.foldl (fun s el => unconfigure s ⟨core, el⟩) s) core port 0 els.length 0 m.pts 8

/-- Whether every scoreboard bit of a mask is clear (R186, R187). -/
def psbClear (c : Core) (mask : BitVec 17) : Bool := (List.range 17).all fun i => !(mask.getLsbD i && c.psbBusy i)

/-- The queue takes its next turn in the same cycle. -/
def fabricAgain (s : State) (core : Nat) : State := { s with agenda := .engine core fabricPort :: s.agenda }

/-- PHASE_COMMAND (R186): it completes in the first cycle in which its bits are clear, and the queue goes on in that cycle. -/
def execPhaseCommand (pmask : BitVec 17) (s : State) : Outcome :=
  runCmd s fun core port m =>
    if psbClear (getCore s core) pmask then nextUp (fabricAgain (finishCmd s core port 0 0 0 m.pts 0) core) [.engineCompletion core port] else s

/-- The load under way, else the first load or unload. -/
def fabricLoading (c : Core) : Option Nat :=
  let q := (c.queue fabricPort).q
  (List.range q.length).find? fun i => (q[i]?).any fun m => fld (pw m.packet 0) 127 64 ≠ 0

/-- The config queue's next command (R186): a phase command whose bits are clear, or else the load under way, the first load or unload. -/
def fabricNext (c : Core) : Option Nat :=
  let q := (c.queue fabricPort).q
  let phase (m : Cmd) : Bool := fld (pw m.packet 0) 127 64 = 0
  let at_ (f : Cmd → Bool) : Option Nat := (List.range q.length).find? fun i => (q[i]?).any f
  (at_ fun m => phase m && psbClear c (.ofNat 17 (fld (pw m.packet 0) 24 8))) <|> fabricLoading c

/-- The instruction of a configuration packet. -/
def readFabric (ws : List Quad) : Instr :=
  let w := pw ws 0
  if fld w 127 64 = 0 then .phaseCommand (.ofNat 17 (fld w 24 8))
  else if fld w 7 0 = 1 then .fabricLoad (.ofNat 64 (fld w 127 64)) (.ofNat 64 (fld (pw ws 1) 63 0))
  else .fabricUnload (.ofNat 64 (fld w 127 64))

end Sys2Proof.Machine
end

