-- ==== Sys2Proof/Machine/HomeEvents.lean ====
section
/-! DEFINITION. What the scheduler does to the memory hierarchy: slice registers (R294, R314), interleave domains and
their changes (R291, R305), format windows (R300 to R304), the stockpile's counters (R297) and timestamps (R314). -/

namespace Sys2Proof.Machine

open Sys2Proof

/-- A status for whoever gave a command. -/
def tell (s : State) (st : Status) : State := { s with root := { s.root with status := s.root.status ++ [st] } }
def tellCode (s : State) (c : Cause) : State := tell s { code := c }

/-! ## Slice registers -/

/-- REGISTER_WRITE (R6, R294, R314): a read-only or reserved field of the value is not taken. -/
def execRegisterWrite (r : SliceReg) (value : Dword) (s : State) : Outcome :=
  match r with
  | .tctl n p =>
    let sl := getSlice s n
    let v := value.toNat
    let kept := v % 2 ^ 16 + v / 2 ^ 20 % 2 ^ 12 * 2 ^ 20 + v / 2 ^ 32 % 2 ^ 16 * 2 ^ 32
    .next (setSlice s n { sl with tctl := tput sl.tctl p (.ofNat 64 kept) })
  | .sctl n =>
    let sl := getSlice s n
    let thr := if value.toNat / 16 % 16 = 0 then sl.spthr else value.toNat / 16 % 16
    let ways := if value.toNat % 8 > 4 then sl.spways else value.toNat % 8
    -- lines in ways that leave the stockpile are ordinary lines from then on (R297)
    .next (setSlice s n { sl with
      sctl := .ofNat 64 (thr * 16 + ways)
      lines := sl.lines.map fun e => (e.1, if e.1 % 16 < 16 - ways then { e.2 with stock := false } else e.2) })
  | .lctl n =>
    let sl := getSlice s n
    let l := value.toNat % 16
    .next (if 4 ≤ l ∧ l ≤ 12 then setSlice s n { sl with lctl := .ofNat 64 l } else s)

/-! ## Interleave domains -/

/-- Whether two entries' ranges overlap. -/
def idtMeets (a b : Quad) : Bool :=
  idtValid a && idtValid b && idtField a 19 0 ≤ idtField b 39 20 && idtField b 19 0 ≤ idtField a 39 20

/-- An entry that the scheduler may write among others (R291). -/
def idtOk (e : Quad) (others : List Quad) : Bool :=
  idtField e 77 74 ≤ 9 && idtField e 86 78 % 2 ^ idtField e 77 74 = 0 && idtField e 19 0 ≤ idtField e 39 20
    && idtField e 71 40 = 0 && !others.any (idtMeets e)

/-- IDT_WRITE (R291): a refused entry leaves the table as it was. -/
def execIdtWrite (ix : Fin 16) (value : Quad) (s : State) : Outcome :=
  let others := (s.idt.filter fun e => e.1 ≠ ix.val).map (·.2)
  if idtOk value others then .next { s with idt := tput s.idt ix value } else .next (tellCode s 0x098)

/-- The slices of an entry's domain. -/
def idtSlices (e : Quad) : List Nat := (List.range (2 ^ idtField e 77 74)).map fun i => idtField e 86 78 + i

/-- The slices of the domains that cover some byte from lo to hi. -/
def rangeSlices (t : Tbl Quad) (lo hi : Nat) : List Nat :=
  ((t.filter fun e => idtValid e.2 && idtField e.2 19 0 ≤ hi / 2 ^ 28 && lo / 2 ^ 28 ≤ idtField e.2 39 20).flatMap fun e =>
    idtSlices e.2).eraseDups

/-- Sets or clears HOLD in the entries that cover a range. -/
def holdRange (t : Tbl Quad) (lo hi : Nat) (hold : Bool) : Tbl Quad :=
  t.map fun e =>
    if idtValid e.2 ∧ idtField e.2 19 0 ≤ hi / 2 ^ 28 ∧ lo / 2 ^ 28 ≤ idtField e.2 39 20 then
      (e.1, if hold then e.2 ||| ((1 : Quad) <<< 73) else e.2 &&& ~~~((1 : Quad) <<< 73))
    else e

/-- Whether a table's entries may stand together. -/
def idtTableOk : Tbl Quad → Bool
  | [] => true
  | e :: t => (!idtValid e.2 || idtOk e.2 (t.map (·.2))) && idtTableOk t

/-- DOMAIN_CHANGE (R305 step 1): the new entries go into every copy with HOLD set, and the old slices owe a report. -/
def execDomainChange (lo hi : Nat) (entries : List (Fin 16 × Quad)) (s : State) : Outcome :=
  if s.change.isSome then .next s
  else
    let t := holdRange (entries.foldl (fun t e => tput t e.1 e.2) s.idt) lo hi true
    if !idtTableOk t then .next (tellCode s 0x098)
    else .next { s with idt := t, change := some { lo := lo, hi := hi, pending := rangeSlices s.idt lo hi, begun := s.cycle } }

/-- Whether a line address lies in a range of bytes. -/
def lineIn (lo hi addr : Nat) : Bool := lo ≤ addr * 128 + 127 && addr * 128 ≤ hi

/-- Requests that wait at a slice for a range go to its new home, or wait there under HOLD where the home stays. -/
def turnAway (s : State) (n lo hi : Nat) : State :=
  s.reqs.foldl (fun s e => e.2.parts.foldl (fun s p =>
    let waits : Bool := match p.phase with | .missed _ | .queued _ => true | _ => false
    if waits ∧ p.home = .slice n ∧ lo ≤ p.pa ∧ p.pa ≤ hi then
      match homeOf s p.pa with
      | .ok h =>
        if h = .slice n then
          { setPart s e.1 p.lane fun p => { p with phase := match p.phase with | .queued k => .queued k | _ => .queued s.stamps } with
            stamps := s.stamps + 1 }
        else setPart s e.1 p.lane fun p => { p with phase := .replay (s.cycle + e.2.travel p.home) h }
      | .error _ => s
    else s) s) s

/-- An armed monitor moves to its line's new home; REASON 2 where none is free there. -/
def moveMonitor (s : State) (m : Monitor) : State :=
  match homeOf s m.pa with
  | .ok (.slice k) =>
    let sl := getSlice s k
    if sl.monitors.length < 64 then setSlice s k { sl with monitors := sl.monitors ++ [m] }
    else
      let (s, v) := monitorSees s m (peek s (m.pa / 128 * 128) 128)
      completeMonitor s m (wakeWord 2 (sl.seq - 1) v) sl.mts
  | _ => s

/-- WBINV at a slice (R305 step 2). -/
def wbinvSlice (s : State) (n lo hi : Nat) : State :=
  let sl := getSlice s n
  let rts := (sl.lines.filter fun l => lineIn lo hi l.2.addr).foldl (fun t l => tsMax t l.2.rts) sl.mts
  let keys := (sl.lines.filter fun l => lineIn lo hi l.2.addr).map (·.1)
  let s := keys.foldl (fun s k => evict s n k) s
  let s := (((getSlice s n).chute.map (·.addr)).filter (lineIn lo hi)).foldl (fun s a => drainLine s n a) s
  let (gone, kept) := (getSlice s n).monitors.partition fun m => lo ≤ m.pa && m.pa ≤ hi
  let sl := getSlice s n
  let s := setSlice s n { sl with monitors := kept, closed := if sl.closed.contains (lo, hi) then sl.closed else sl.closed ++ [(lo, hi)] }
  let s := turnAway (gone.foldl moveMonitor s) n lo hi
  match s.change with
  | some c => { s with change := some { c with pending := c.pending.filter (· ≠ n), rts := tsMax c.rts rts } }
  | none => s

/-- WBINV (R305): a slice that owes its report. -/
def execWbinv (n : Nat) (s : State) : Outcome :=
  match s.change with
  | some c => .next (if c.pending.contains n then wbinvSlice s n c.lo c.hi else s)
  | none => .next s

/-- DOMAIN_RELEASE (R305 steps 3 and 4): every old slice has reported. -/
def execDomainRelease (s : State) : Outcome :=
  match s.change with
  | some c =>
    if c.pending.isEmpty then
      let s := (rangeSlices s.idt c.lo c.hi).foldl (fun s n =>
        let sl := getSlice s n
        setSlice s n { sl with mts := tsMax sl.mts c.rts }) s
      .next { s with idt := holdRange s.idt c.lo c.hi false, change := none }
    else .next s
  | none => .next s

/-! ## Format windows (R300 to R304) -/

/-- The table of R301. -/
def combination (st : Num.Fmt) (scaled : Bool) (cf : Num.Fmt) : Bool :=
  let dx : Bool := match cf with | .dx _ => true | _ => false
  let plain : Bool := cf = .fp .fp32 || cf = .fp .bf16
  match st with
  | .fp .fp32 => !scaled && (cf = .fp .bf16 || dx)
  | .fp .bf16 | .fp .fp16 => !scaled && (cf = .fp .fp32 || dx)
  | .fp .e5m2 | .fp .e4m3 => plain || dx
  | .fp .e3m2 | .fp .e2m3 | .fp .e2m1 | .mxint8 => scaled && (plain || dx)
  | .dx d => scaled && (plain || cf = .dx d)
  | _ => false

/-- A window's ranges: its view lines, its storage, its scales: base and bytes. -/
def viewRange (w : FormatWindow) : Nat × Nat := (w.vbase.toNat, 128 * w.nline.toNat)
def storageRange (w : FormatWindow) : Nat × Nat :=
  (w.sbase.toNat, w.nline.toNat * viewElems w.cfmt * (FormatWindow.fmt w).bits / 8)
def scaleRange (w : FormatWindow) : Nat × Nat :=
  (w.xbase.toNat, if w.scaled then w.nline.toNat * (viewElems w.cfmt / 32) * scaleBytes (FormatWindow.fmt w) else 0)

def rangesMeet (a b : Nat × Nat) : Bool := a.2 > 0 && b.2 > 0 && a.1 < b.1 + b.2 && b.1 < a.1 + a.2

/-- Why an install is refused (R301, R432). -/
def windowRefusal (s : State) (w : Nat) (c : FormatWindow) : Option Cause :=
  let others := (s.fw.filter (·.1 ≠ w)).map (·.2)
  let global (r : Nat × Nat) : Bool := r.1 + r.2 ≤ 0x040000000000
  match Num.fmtOf c.stfmt.toNat with
  | none => some 0x2C0
  | some f =>
    if !combination f c.scaled (cacheFmt c.cfmt) ∨ c.cfmt.toNat > 4 ∨ (c.rm ≠ 0 ∧ c.rm ≠ 4) ∨ (c.rm = 4 ∧ !feature s 5) then some 0x2C1
    else if c.nline = 0 ∨ c.vbase.toNat % 128 ≠ 0 ∨ c.sbase.toNat % 32 ≠ 0 ∨ (!c.scaled ∧ c.xbase ≠ 0)
      ∨ c.vbase.toNat < 0x500000000000 ∨ c.vbase.toNat + 128 * c.nline.toNat > 0x600000000000
      ∨ !global (storageRange c) ∨ !global (scaleRange c)
      ∨ others.any (fun o => rangesMeet (viewRange c) (viewRange o)
          || [storageRange c, scaleRange c].any fun r => rangesMeet r (storageRange o) || rangesMeet r (scaleRange o)) then some 0x2C2
    else none

/-- Writes back and invalidates every view line of a window, in every slice. -/
def flushWindow (s : State) (w : FormatWindow) : State :=
  let (b, n) := viewRange w
  (s.slices.map (·.1)).foldl (fun s k =>
    let s := (((getSlice s k).lines.filter fun l => n > 0 && lineIn b (b + n - 1) l.2.addr).map (·.1)).foldl (fun s l => evict s k l) s
    (((getSlice s k).chute.map (·.addr)).filter fun a => n > 0 && lineIn b (b + n - 1) a).foldl (fun s a => drainLine s k a) s) s

/-- A format window's registers, and its VALID (R300). -/
def fwRegs (s : State) (w : Nat) : FormatWindow × Bool :=
  match tfind s.fw w with
  | some c => (c, true)
  | none => (tget resetFw s.fwIdle w, false)

/-- A read of FWSTAT: the OR of the window's flags across all controllers (R300). -/
def readFwstat (s : State) (w : Nat) : BitVec 7 := s.slices.foldl (fun f e => f ||| tget 0 e.2.fwStat w) 0

/-- A window goes: its view lines are written back before VALID clears (R304); its other registers stay (R300). -/
def removeWindow (s : State) (w : Nat) : State :=
  match tfind s.fw w with
  | some c =>
    let s := flushWindow s c
    { s with fw := tdel s.fw w, fwIdle := tput s.fwIdle w c }
  | none => s

/-- FORMAT_WINDOW_INSTALL (R300, R301): one broadcast write; every controller starts from its SEED. -/
def execFormatWindowInstall (w : Fin 16) (cfg : FormatWindow) (s : State) : Outcome :=
  match windowRefusal s w cfg with
  | some c => .next (tellCode s c)
  | none =>
    let s := removeWindow s w
    let seed := if cfg.seed = 0 then 1 else cfg.seed
    .next { s with fw := tput s.fw w { cfg with seed := seed }
                   slices := s.slices.map fun e => (e.1, { e.2 with fwSeed := tdel e.2.fwSeed w }) }

/-- FORMAT_WINDOW_REMOVE (R304). -/
def execFormatWindowRemove (w : Fin 16) (s : State) : Outcome := .next (removeWindow s w)

/-- FWSTAT_CLEAR (R300): a write of 1 clears a flag in every controller. -/
def execFwstatClear (w : Fin 16) (mask : BitVec 7) (s : State) : Outcome :=
  .next { s with slices := s.slices.map fun e =>
    (e.1, match tfind e.2.fwStat w with | some f => { e.2 with fwStat := tput e.2.fwStat w (f &&& ~~~mask) } | none => e.2) }

/-! ## Every 65,536 and every 2^20 cycles -/

/-- STOCKPILE_DECAY (R297): each counter is halved. -/
def execStockpileDecay (s : State) : Outcome :=
  .next { s with slices := s.slices.map fun e => (e.1, { e.2 with counters := e.2.counters.map fun c => (c.1, c.2 / 2) }) }

/-- A timestamp that lags a mark by more than 2^44 is raised to 2^44 below it. -/
def raiseLag (mark t : Stamp) : Stamp := if tsLt t mark ∧ (mark - t).toNat > 2 ^ 44 then mark - .ofNat 48 (2 ^ 44) else t

/-- The largest MTS of the module's slices (R314). -/
def largestMts (s : State) : Stamp :=
  match s.slices with
  | [] => 0
  | e :: es => es.foldl (fun t e => tsMax t e.2.mts) e.2.mts

/-- The raise of R314: a line against the mark that `mark` makes of its slice's MTS, every clock against `top`. -/
def raiseStamps (s : State) (mark : Stamp → Stamp) (top : Stamp) : State :=
  { s with
    slices := s.slices.map fun e => (e.1, { e.2 with lines := e.2.lines.map fun l =>
      (l.1, { l.2 with wts := raiseLag (mark e.2.mts) l.2.wts, rts := raiseLag (mark e.2.mts) l.2.rts }) })
    homes := s.homes.map fun e => (e.1, { e.2 with hclk := raiseLag top e.2.hclk })
    cores := s.cores.map fun e => (e.1, { e.2 with
      clock := raiseLag top e.2.clock, walks := e.2.walks.map fun w => (w.1, { w.2 with pts := raiseLag top w.2.pts }) })
    hostClock := raiseLag top s.hostClock
    peerClock := s.peerClock.map fun e => (e.1, raiseLag top e.2) }

/-- What a module does with the largest MTS that a peer sends it: the same rule (R314). -/
def takeLargest (s : State) (ts : Stamp) : State := raiseStamps s (tsMax · ts) (tsMax (largestMts s) ts)

/-- TIMESTAMP_RENORMALISE (R314): the raise within the module, whose largest MTS goes to every peer whose link is up. -/
def execTimestampRenormalise (s : State) : Outcome :=
  let top := largestMts s
  let s := raiseStamps s id top
  .next { s with sent := s.sent ++ (s.links.filter (·.2.up)).map fun l => (l.1, { code := 0, ts := top }) }

/-! ## Tokens -/

/-- An engine's next token enters its attached input; the command moves on with it (R195, R221, R392). -/
def engineToken (s : State) (core port : Nat) : State :=
  match (tget {} (getCore s core).engOut port : EngOut).toks, attachRoom s core port with
  | o :: rest, some dest =>
    let c := getCore s core
    let s := setCore s core { c with engOut := tput c.engOut port { tget {} c.engOut port with toks := rest } }
    let s := deliverToken s core port dest o.tok
    let e := getEng s core port
    let s := if port = 16 then s else setEng s core port { e with pos := o.pos, count := e.count + o.units }
    match o.walk with
    | some slot => finishWalk s core slot
    | none => if port = 16 then s else settleEngine s core port
  | _, _ => s

/-- TOKEN_DELIVERED (R12, R14, R169, R198, R221, R318, R441): a token moves into the receiving input channel, an overflow
ring or the egress ring. A gated edge's tokens stay with its sender (R365, R381). -/
def execTokenDelivered (src : Endpoint) (s : State) : Outcome :=
  match findEdge s src with
  | none => .next s
  | some e =>
    if e.gated then .next s
    else match src with
    | .elem k x out =>
      (match e.dst with
        | .elem _ _ _ | .egress _ _ => .next (moveToken s e ⟨k, x⟩ (Fin.ofNat 4 out))
        | _ => .next s)
    | .eng core port => .next (engineToken s core port)
    | .ingress part source => .next (ingressToken s e part source)

end Sys2Proof.Machine
end

