-- ==== Sys2Proof/Machine/Launches.lean ====
section
/-! DEFINITION. Launches: choosing cores (R338, R341), setting aside memory, loading images (R82, R341 to R343), the layout
record (R369, R370), and how a launch leaves its cores (R344, R345). -/

namespace Sys2Proof.Machine

open Sys2Proof

def getLaunch (s : State) (l : Nat) : Launch := tget {} s.launches l
def setLaunch (s : State) (l : Nat) (x : Launch) : State := { s with launches := tput s.launches l x }

/-- A notice to a partition's supervisor: ECAUSE KIND 3 (R351, R377). -/
def tellSupervisor (s : State) (part : Nat) (cause : Cause) (detail : Quad) : State :=
  raiseTrap s (getPart s part).lead { kind := 3, src := 0, cause := cause, detail := detail }

/-! ## Writing memory for the root -/

/-- Bytes cut at line ends; fuel is enough for one byte a piece. -/
def linePieces : Nat → Nat → List Byte → List (Nat × List Byte)
  | 0, _, _ => []
  | fuel + 1, pa, bs =>
    match bs with
    | [] => []
    | _ =>
      let n := 128 - pa % 128
      (pa, bs.take n) :: linePieces fuel (pa + n) (bs.drop n)

/-- The root or the scheduler writes bytes of one line: the line where one is cached, and otherwise DRAM. -/
def pokeLine (s : State) (pa : Nat) (bs : List Byte) : State :=
  match homeOf s pa with
  | .ok (.slice n) =>
    let s := drainLine s n (pa / 128)
    match (getSlice s n).anyLine (pa / 128) with
    | some (k, l) =>
      let sl := getSlice s n
      setSlice s n { sl with lines := tput sl.lines k { l with dirty := true, data := splice l.data (pa % 128) bs } }
    | none => { s with mem := Memory.writeN s.mem pa bs }
  | _ => { s with mem := Memory.writeN s.mem pa bs }

def poke (s : State) (pa : Nat) (bs : List Byte) : State :=
  (linePieces bs.length pa bs).foldl (fun s p => pokeLine s p.1 p.2) s

/-- Bytes of physical memory as they stand now, line by line; fuel is enough for one byte a piece. -/
def peekAll (s : State) : Nat → Nat → Nat → List Byte
  | 0, _, _ => []
  | fuel + 1, pa, n =>
    if n = 0 then []
    else
      let k := min n (128 - pa % 128)
      peek s pa k ++ peekAll s fuel (pa + k) (n - k)

/-! ## Choosing cores (R338, R341) -/

/-- Cores of one unit of a kind, and of a scope. -/
def kindUnit (k : Nat) : Nat := match k with | 1 => 1 | 2 => 16 | 3 => 256 | _ => 2048
def scopeUnit (c : Nat) : Nat := match c with | 1 => 1 | 2 => 16 | _ => 2048

/-- The levels from the top down to level 1: how many instances, and the unit that must hold them all. -/
def levelBinds (o : List Byte) : List (Nat × Nat) :=
  let n := levelNum o
  ((List.range (n - 1)).map fun i =>
    let lv := i + 1
    let scope := if levelScope o lv > kindScope (levelKind o lv) then scopeUnit (levelScope o lv) else 2048
    (levelCount o lv, if lv + 1 < n then min scope (kindUnit (levelKind o (lv + 1))) else scope)).reverse

/-- Takes n lots of cores one after another. -/
def takeLots (f : List Nat → Option (List Nat × List Nat)) : Nat → List Nat → Option (List Nat × List Nat)
  | 0, cs => some ([], cs)
  | n + 1, cs =>
    match f cs with
    | some (a, left) =>
      match takeLots f n left with
      | some (b, left) => some (a ++ b, left)
      | none => none
    | none => none

/-- Takes the cores of one instance: each level's instances inside one unit. -/
def fitLevels : List (Nat × Nat) → List Nat → Option (List Nat × List Nat)
  | [], cs => match cs with | c :: rest => some ([c], rest) | [] => none
  | (n, u) :: lv, cs =>
    ((cs.map (· / u)).eraseDups).findSome? fun k =>
      match takeLots (fitLevels lv) n (cs.filter fun c => c / u = k) with
      | some (a, _) => some (a, cs.filter fun c => !a.contains c)
      | none => none

/-- The cores of a launch among those given, in instance order. -/
def fitCores (o : List Byte) (cs : List Nat) : Option (List Nat) := (fitLevels (levelBinds o) cs).map (·.1)

/-- The engines of a core are idle: nothing is queued, running or on its way. -/
def coreIdle (c : Core) : Bool :=
  c.queues.all (fun q => q.2.q.isEmpty && q.2.taken = 0) && c.engines.all (fun e => e.2.state = 0) && c.walks.isEmpty
    && !c.mn.active && c.comps.all (·.2.isEmpty)

/-- Cores that a partition's launches may use: all but the lead core and those retired. -/
def launchCores (s : State) (part : Nat) : List Nat :=
  let p := getPart s part
  p.cores.filter fun k => k ≠ p.lead && !(getCore s k).retired

def freeCores (s : State) (part : Nat) : List Nat :=
  (launchCores s part).filter fun k => (getCore s k).launch.isNone && !s.root.quiesced.contains (k / 256)

/-! ## Setting memory aside -/

def roundUp (n a : Nat) : Nat := (n + a - 1) / a * a

/-- The lowest place for a size in [·, hi) that meets no used range. -/
def fitUp (used : List (Nat × Nat)) (hi size align : Nat) : Nat → Nat → Option Nat
  | 0, _ => none
  | fuel + 1, cand =>
    let c := roundUp cand align
    if c + size > hi then none
    else match used.find? (rangesMeet (c, size)) with
      | some u => fitUp used hi size align fuel (u.1 + u.2)
      | none => some c

/-- The highest place below a limit. -/
def fitDown (used : List (Nat × Nat)) (lo size align : Nat) : Nat → Nat → Option Nat
  | 0, _ => none
  | fuel + 1, lim =>
    if lim < lo + size then none
    else
      let c := (lim - size) / align * align
      if c < lo then none
      else match used.find? (rangesMeet (c, size)) with
        | some u => fitDown used lo size align fuel u.1
        | none => some c

/-- Ranges that launches hold: a launch gives its memory up once it holds no core and is neither waiting nor suspended. -/
def usedRanges (s : State) : List (Nat × Nat) := s.launches.flatMap fun l => l.2.regions

/-- Runs of adjoining units, lowest first. -/
def unitRuns (us : List Nat) : List (Nat × Nat) :=
  (us.foldl (fun (t : Tbl Unit) u => tput t u ()) []).foldl (fun (rs : List (Nat × Nat)) u =>
    match rs with
    | (lo, hi) :: rest => if hi = u.1 * 2 ^ 28 then (lo, hi + 2 ^ 28) :: rest else (u.1 * 2 ^ 28, u.1 * 2 ^ 28 + 2 ^ 28) :: rs
    | [] => [(u.1 * 2 ^ 28, u.1 * 2 ^ 28 + 2 ^ 28)]) []

/-- Global memory of a partition, from its highest units down (log entry 20). -/
def allocGlobal (s : State) (part size align : Nat) : Option Nat :=
  let used := usedRanges s
  (unitRuns (getPart s part).units).findSome? fun r => fitDown used r.1 size align (used.length + 1) r.2

/-- On-chip memory of a range, lowest first. -/
def allocIn (s : State) (lo hi size align : Nat) (more : List (Nat × Nat)) : Option Nat :=
  let used := usedRanges s ++ more
  fitUp used hi size align (used.length + 1) lo

/-- A launch takes a range. -/
def takeRange (s : State) (l pa size : Nat) : State :=
  let x := getLaunch s l
  setLaunch s l { x with regions := (pa, size) :: x.regions }

def clusBase (cluster : Nat) : Nat := 0x410000000000 + cluster * 2 ^ 22
def mpadBase (bank : Nat) : Nat := 0x400000000000 + bank * 2 ^ 22

/-- The ranges that the code of an image takes in a scratchpad. -/
def codeRanges (o : List Byte) (k core : Nat) : List (Nat × Nat) :=
  ((codeRecs o).filter (·.core = k)).map fun r => (cpadPa core r.org, 4 * r.words)

/-- The instances or repeats for which a data block is placed, with the range it may lie in and what it must not meet
(R341). -/
def blockHomes (o : List Byte) (cores : List Nat) (d : DataRec) : List (Nat × Nat × Nat × List (Nat × Nat)) :=
  let c1 := max 1 (imageCores o)
  match d.space with
  | 1 => (List.range cores.length).filterMap fun k =>
      if k % c1 = d.core then
        let core := cores.getD k 0
        some (k, cpadPa core 0, cpadPa core 0x60000, codeRanges o d.core core)
      else none
  | 2 => (List.range (cores.length / c1)).map fun g =>
      let cl := cores.getD (g * c1 + d.core) 0 / 16
      (g, clusBase cl, clusBase cl + 2 ^ 22, [])
  | _ => []

/-- Places one data block everywhere it goes. -/
def placeBlock (o : List Byte) (l part : Nat) (cores : List Nat) (ix : Nat) (d : DataRec) (s : State) : Option State :=
  let note (s : State) (inst pa : Nat) : State :=
    let s := takeRange s l pa d.size
    let x := getLaunch s l
    setLaunch s l { x with blocks := x.blocks ++ [(ix, inst, pa)] }
  match d.space with
  | 3 =>
    let banks := (cores.map routerOfCore).eraseDups
    match banks.findSome? fun b => allocIn s (mpadBase b) (mpadBase b + 2 ^ 22) d.size (2 ^ d.align) [] with
    | some pa => some (note s 0 pa)
    | none => none
  | 4 =>
    match allocGlobal s part d.size (2 ^ d.align) with
    | some pa => some (note s 0 pa)
    | none => none
  | _ =>
    (blockHomes o cores d).foldl (fun (s : Option State) h =>
      match s with
      | some s =>
        match allocIn s h.2.1 h.2.2.1 d.size (2 ^ d.align) h.2.2.2 with
        | some pa => some (note s h.1 pa)
        | none => none
      | none => none) (some s)

/-- The level-1 instance on whose behalf a copy of a data block is placed: the block's own image of the repeat (R341). -/
def blockOwner (o : List Byte) (d : DataRec) (inst : Nat) : Nat :=
  match d.space with | 1 => inst | 2 => inst * max 1 (imageCores o) + d.core | _ => 0

/-- The address of a data block for a level-1 instance: that of its own repeat (R341). -/
def blockFor (x : Launch) (o : List Byte) (ix k : Nat) : Option Nat :=
  match (dataRecs o)[ix]? with
  | none => none
  | some d =>
    let g := k / max 1 (imageCores o)
    let inst := match d.space with | 1 => g * max 1 (imageCores o) + d.core | 2 => g | _ => 0
    (x.blocks.find? fun b => b.1 = ix && b.2.1 = inst).map (·.2.2)

/-! ## Symbols (R79, log entry 21) -/

/-- A data symbol's virtual address: that of the first window of the image that targets it, then of any image, and its physical address
where none does. A symbol without a data record has its VALUE for its placed address (DESIGN CHOICE, log entry 43). -/
def symVirtual (x : Launch) (o : List Byte) (sym k : Nat) : Nat :=
  match dataOfSym o sym with
  | none => symValue o sym
  | some ix =>
    let ws := (entries o 0x07).filter fun b => rd o (b + 0x28) 4 = sym
    match (ws.find? fun b => rd o b 2 = k % max 1 (imageCores o)) <|> ws.head? with
    | some b => rd o (b + 8) 8
    | none => (blockFor x o ix k).getD 0

/-- A symbol's offset in its scratchpad or cluster memory; that of a symbol without a data record is its VALUE (log entry 43). -/
def symOffset (x : Launch) (o : List Byte) (sym k span : Nat) : Nat :=
  match dataOfSym o sym with
  | none => symValue o sym
  | some ix => (blockFor x o ix k).getD 0 % 2 ^ span

def placeSym (x : Launch) (o : List Byte) (k ty sym : Nat) : Nat :=
  match ty with
  | 4 => symOffset x o sym k 19
  | 5 => symOffset x o sym k 22
  | _ => symVirtual x o sym k

/-- The virtual address of a section's copy in the launch tables: WINDOW first, then SCHED (R343). A section that has no copy there has
address 0 (DESIGN CHOICE, log entry 43). -/
def windowBytes (o : List Byte) : Nat := roundUp (((sec? o 0x07).map (·.size)).getD 0) 128
def schedBytes (o : List Byte) : Nat := roundUp (((sec? o 0x09).map (·.size)).getD 0) 128
def schedVa (o : List Byte) : Nat := if rd o (launchOff o + 0x1C) 4 = 0 then 0 else tableBase + windowBytes o
def tableVa (o : List Byte) (sec : Nat) : Nat :=
  match (secs o)[sec]? with
  | some x => if x.ty = 0x07 then tableBase else if x.ty = 0x09 then schedVa o else 0
  | none => 0

/-- The object relocated for an instance. -/
def relocateFor (x : Launch) (o : List Byte) (k : Nat) : Except Cause (List Byte) :=
  relocateObject o (placeSym x o k) (tableVa o)

/-! ## Edges (R61, R341, R382) -/

def coordIx (o : List Byte) (b : Nat) : Nat := rd o (b + 2) 1 * 8 + rd o (b + 3) 1

/-- The place of an element in ELEM. -/
def elemPlace (o : List Byte) (core ix : Nat) : Nat :=
  let rs := elemRecs o
  ((List.range rs.length).find? fun i => match rs[i]? with | some r => r.core = core && r.ix = ix | none => false).getD 0

/-- The edges of one repeat. -/
def repeatEdges (o : List Byte) (l part g : Nat) (cores : List Nat) : List Edge :=
  let c1 := max 1 (imageCores o)
  let at_ (k : Nat) : Nat := cores.getD (g * c1 + k) 0
  let hosts := (entries o 0x05).filter fun b => rd o b 1 = 18
  let hostNo (b dir : Nat) : Nat :=
    let side := hosts.filter fun h => rd o (h + 1) 1 = dir
    ((List.range side.length).find? fun i => side[i]? = some b).getD 0 + g * side.length
  let plain := (entries o 0x04).map fun b =>
    let (fc, fe, tc, te) := (rd o b 2, coordIx o b, rd o (b + 8) 2, coordIx o (b + 8))
    ({ src := .elem (at_ fc) fe (rd o (b + 4) 1), dst := .elem (at_ tc) te (Fin.ofNat 4 (rd o (b + 0xC) 1)), launch := l,
       back := elemPlace o tc te ≤ elemPlace o fc fe } : Edge)
  let ports := (entries o 0x05).map fun b =>
    let (eng, dir, ch, core, el) := (rd o b 1, rd o (b + 1) 1, rd o (b + 2) 1, rd o (b + 4) 2, coordIx o (b + 4))
    let dst : Dest := .elem (at_ core) el (Fin.ofNat 4 ch)
    if dir = 0 then
      ({ src := if eng = 18 then .ingress part (hostNo b 0) else .eng (at_ core) eng, dst := dst, launch := l } : Edge)
    else
      { src := .elem (at_ core) el ch, launch := l,
        dst := match eng with | 12 => .mn (at_ core) | 13 => .cp (at_ core) | _ => .egress part (hostNo b 1) }
  plain ++ ports

/-! ## The layout record (R369, R370) -/

/-- Operators of the instance as placed. -/
def placedOps (o : List Byte) (repeats_ : Nat) : List Op :=
  (List.range repeats_).flatMap fun g => (entries o 0x01).map fun b =>
    let r := (elemRecs o)[rd o (b + 4) 4]?
    { cls := rd o b 1, pin := rd o (b + 1) 1 % 2 = 1,
      host := match r with | some r => (g * max 1 (imageCores o) + r.core, r.ix) | none => (0, 0) }

/-- A coordinate: instance, row, column. -/
def coord (p : Nat × Nat) : List Byte := leBytes 2 p.1 ++ [.ofNat 8 (p.2 / 8), .ofNat 8 (p.2 % 8)]
def coordOpt : Option (Nat × Nat) → List Byte
  | some p => coord p
  | none => leBytes 4 0xFFFFFFFF

/-- An operator's entry. -/
def opEntry (x : Op) : List Byte :=
  [.ofNat 8 x.cls, .ofNat 8 x.mode, .ofNat 8 x.pin.toNat, .ofNat 8 x.nrep, .ofNat 8 (if x.mode = 1 ∧ x.cls ≠ 1 then x.drun else 0), 0, 0, 0]
    ++ coord x.host ++ leBytes 4 (x.partner.getD 0xFFFFFFFF) ++ leBytes 8 (if x.mode = 1 then x.cutseq else 0)
    ++ coordOpt x.dealer ++ coordOpt x.joiner
    ++ (List.range 7).flatMap (fun i => coordOpt x.reps[i]?) ++ leBytes 4 0
    ++ x.bases.map (fun b => .ofNat 8 b) ++ [0] ++ leBytes 4 x.fires ++ leBytes 4 x.infull ++ leBytes 4 x.outfull
    ++ List.replicate 44 0

/-- Unconfigured elements of a launch's cores, as instance and element; one that is loaded and held until the release is not (R342). -/
def freeElems (s : State) (x : Launch) : List (Nat × Nat) :=
  (List.range x.cores.length).flatMap fun k => (List.range 64).filterMap fun e =>
    if (tfind (getCore s (x.cores.getD k 0)).elems e).isNone then some (k, e) else none

/-- The record's bytes: a whole number of 4,096-byte units. -/
def layoutUnits (x : Launch) : Nat := (0x40 + 128 * x.ops.length + 4095) / 4096
def layoutRecord (s : State) (x : Launch) : List Byte :=
  let body := [0x4C, 0x59, 0x52, 0x43] ++ leBytes 4 x.version.toNat ++ leBytes 4 x.inst ++ leBytes 4 x.ops.length
    ++ leBytes 4 (freeElems s x).length ++ leBytes 4 0 ++ leBytes 8 x.rwcyc ++ List.replicate 32 0 ++ x.ops.flatMap opEntry
  body ++ List.replicate (4096 * layoutUnits x - body.length) 0

def writeLayout (s : State) (l : Nat) : State :=
  let x := getLaunch s l
  poke s x.save (layoutRecord s x)

/-! ## Placement -/

/-- A port without what a launch sets in it: cached translations stay (R408). -/
def Port.cleared (p : Port) : Port := { tlb := p.tlb }

/-- A core as a launch takes it: everything of the last launch is gone, what belongs to the partition stays (R27). -/
def freshCore (c : Core) (l k : Nat) : Core :=
  { part := c.part, launch := some l, image := k, tl := c.tl, tlNext := c.tlNext, tlDone := c.tlDone, mn := c.mn,
    engines := [(13, { gen := (tget {} c.engines 13 : Engine).gen })], walkAge := c.walkAge, laneSel := c.laneSel,
    laneShift := c.laneShift, spares := c.spares, retired := c.retired, clock := c.clock, tnum := c.tnum,
    ports := c.ports.map fun p => (p.1, p.2.cleared) }

/-- A core as it joins a partition: nothing of what it held is left but cached translations, which carry the tag of their partition (R27, R202,
R235, R236, R239, R270, R404, R408). -/
def Core.joined (c : Core) (part : Nat) : Core :=
  if c.part = some part then c else { part := some part, spares := c.spares, retired := c.retired, clock := c.clock,
                                            ports := c.ports.map fun p => (p.1, p.2.cleared) }

/-- A WINDOW entry as a window of an instance, its physical side filled (R75, R341). -/
def windowFor (x : Launch) (o : List Byte) (k b : Nat) : Win :=
  let t := rd o (b + 0x28) 4
  let pbase := if t ≥ 0xFFFFFFF8 then ((x.args.getD (t - 0xFFFFFFF8) 0).toNat)
    else match dataOfSym o t with | some ix => (blockFor x o ix k).getD 0 | none => 0
  { vbase := rd o (b + 8) 8, size := rd o (b + 0x10) 8, pitched := rd o (b + 4) 4 % 2 = 1, pitch := rd o (b + 0x18) 8,
    rowlen := rd o (b + 0x20) 8, wr := rd o (b + 3) 1 = 1, valid := true, pbase := pbase }

/-- Installs the windows of a core: the first refusal is the answer. -/
def installAll (x : Launch) (o : List Byte) (k core : Nat) : List Nat → State → State × Option Cause
  | [], s => (s, none)
  | b :: bs, s =>
    let port := rd o (b + 2) 1
    let w := windowFor x o k b
    match (if w.pbase ≥ 2 ^ 48 then some 0x0A2 else winRefusal s core port w) with
    | some c => (s, some c)
    | none =>
      let c := getCore s core
      let p := c.port port
      installAll x o k core bs (setCore s core (c.setPort port { p with wins := p.wins ++ [(p.wins.length, w)] }))

def coreWindows (x : Launch) (o : List Byte) (k core : Nat) (s : State) : State × Option Cause :=
  installAll x o k core ((entries o 0x07).filter fun b => rd o b 2 = k % max 1 (imageCores o)) s

/-- Words of a core's code into its scratchpad. -/
def loadCode (o : List Byte) (img core : Nat) (s : State) : State :=
  ((codeRecs o).filter (·.core = img)).foldl (fun s r =>
    { s with mem := Memory.writeN s.mem (cpadPa core r.org) ((o.drop r.off).take (4 * r.words)) }) s

/-- A record's bytes in its object. -/
def recordBytes (o : List Byte) (r : ElemRec) : List Byte := (o.drop r.off).take (0x2B0 + r.lanesz)

/-- Whether a trigger entry of an image fails the check of R40: its load fails, and nothing stays placed (R82). -/
def imageBad (o : List Byte) (img : Nat) : Bool :=
  ((elemRecs o).filter (·.core = img)).any fun r => (badTriggerOf (recordBytes o r)).isSome

/-- Elements of a core, held until the release (R342). -/
def loadElements (o : List Byte) (img core : Nat) (s : State) : State :=
  ((elemRecs o).filter (·.core = img)).foldl (fun s r => setElem s ⟨core, r.ix⟩ { elemOfRecord (recordBytes o r) with estat := 0 }) s

/-- The control element, held (R342); the schedule registers (R341). -/
def loadControl (o : List Byte) (k img core : Nat) (s : State) : State :=
  let b := launchOff o
  let org := (((codeRecs o).find? (·.core = img)).map (·.org)).getD 0
  let mul := if rd o (b + 0x18) 4 = 0 then 1 else rd o (b + 0x18) 4
  let str := if rd o (b + 0x14) 4 = 0 then instances o else rd o (b + 0x14) 4
  let s := setElem s ⟨core, ceIx⟩ {}
  setCtl s core { pc := org, sccur := .ofNat 64 (k * mul), scstr := .ofNat 64 str, sccnt := .ofNat 64 (rd o (b + 0x1C) 4),
                  scbase := .ofNat 64 (schedVa o) }

/-- The barriers of a core (R78). -/
def loadBarriers (o : List Byte) (img core : Nat) (s : State) : State :=
  ((entries o 0x0F).filter fun b => rd o b 2 = img).foldl (fun s b =>
    let c := getCore s core
    setCore s core (c.setBar (rd o (b + 2) 2) { expected := rd o (b + 4) 2 })) s

/-- The contents of the data blocks that are placed for an instance, from the object as relocated for it. -/
def loadData (x : Launch) (o : List Byte) (k : Nat) (s : State) : State :=
  x.blocks.foldl (fun s b =>
    match (dataRecs o)[b.1]? with
    | some d => if blockOwner o d b.2.1 = k then poke s b.2.2 ((o.drop d.off).take d.size) else s
    | none => s) s

/-- The stream patterns of an object, entry by entry. -/
def streamEntries (o : List Byte) : List (List Byte) := (entries o 0x06).map fun b => (o.drop b).take 96

/-- The placement map's entry of a core (R341). -/
def mapEntry (s : State) (core : Nat) : List Byte := leBytes 4 ((s.moduleId.getD 0) % 2 ^ 14 + core % 2 ^ 11 * 2 ^ 16)

/-- The launch-table entry of a core (R343). -/
def setLte (x : Launch) (o : List Byte) (core : Nat) (s : State) : State :=
  let c := getCore s core
  setCore s core { c with lte := if windowBytes o + schedBytes o = 0 then none else some (tableBase, windowBytes o + schedBytes o, x.table) }

/-- Sets aside one range of global memory for a launch. -/
def setAside (s : State) (l part size align : Nat) : Option (State × Nat) :=
  if size = 0 then some (s, 0)
  else (allocGlobal s part size align).map fun pa => (takeRange s l pa size, pa)

/-- The cluster whose memory holds the overflow ring of an edge between cores (R169). -/
def ringCluster (e : Edge) : Option Nat := if e.crossCore then (match e.dst with | .elem k _ _ => some (k / 16) | _ => none) else none

/-- The rings of the edges into a cluster stand side by side. -/
def placeRings (cl : Nat) : Nat → List Edge → List Edge
  | _, [] => []
  | pa, e :: es => if ringCluster e = some cl then { e with ringAt := pa } :: placeRings cl (pa + 2048) es else e :: placeRings cl pa es

/-- Overflow-ring space in each cluster that receives an edge from another core (R169), and the edges with their rings. -/
def setAsideRings (s : State) (l : Nat) (es : List Edge) : Option (State × List Edge) :=
  ((es.filterMap ringCluster).eraseDups).foldl (fun (a : Option (State × List Edge)) cl =>
    match a with
    | some (s, es) =>
      let n := 2048 * (es.filter (ringCluster · = some cl)).length
      (allocIn s (clusBase cl) (clusBase cl + 2 ^ 22) n 128 []).map fun pa => (takeRange s l pa n, placeRings cl pa es)
    | none => none) (some (s, es))

/-- RINGS of the launch record: where the first ring stands, 0 where there is none. -/
def ringsBase (es : List Edge) : Nat := ((es.find? (·.ringAt ≠ 0)).map (·.ringAt)).getD 0

/-- Why a launch is not placed: a status that ends it. -/
abbrev Placed := Except Cause State

/-- Memory of a launch that is placed for the first time: data blocks, save area, rings, placement map, launch tables; and its edges. -/
def reserve (s : State) (l : Nat) (cores : List Nat) : Option (State × List Edge) :=
  let x := getLaunch s l
  let o := x.object
  let es := (List.range (cores.length / max 1 (imageCores o))).flatMap fun g => repeatEdges o l x.part g cores
  let ops := placedOps o (cores.length / max 1 (imageCores o))
  let recs := dataRecs o
  let blocks := (List.range recs.length).foldl (fun (s : Option State) i =>
    match s, recs[i]? with
    | some s, some d => placeBlock o l x.part cores i d s
    | s, none => s
    | none, _ => none) (some (setLaunch s l { x with ops := ops }))
  match blocks with
  | none => none
  | some s =>
    match setAside s l x.part (4096 * layoutUnits { x with ops := ops } + 1036288 * cores.length) 4096 with
    | none => none
    | some (s, save) =>
      match setAside s l x.part (4 * cores.length) 4 with
      | none => none
      | some (s, map) =>
        match setAside s l x.part (windowBytes o + schedBytes o) 128 with
        | none => none
        | some (s, table) =>
          (setAsideRings s l es).map fun (s, es) =>
            (setLaunch s l { getLaunch s l with save := save, map := map, table := table, rings := ringsBase es }, es)

/-- The launch pointers in the loader's copy (R337). -/
def fillPointers (o : List Byte) (x : Launch) : List Byte :=
  let b := launchOff o
  let o := patch o (b + 0x190) (leBytes 8 x.map ++ leBytes 8 x.save ++ leBytes 8 x.rings)
  patch o (b + 0x1C0) ((List.range 8).flatMap fun i => leBytes 8 (x.args.getD i 0).toNat)

/-- Images of one instance, and the data blocks placed for it; the core's clock takes in what the launch has waited for (R346). -/
def loadInstance (l : Nat) (k : Nat) (core : Nat) (s : State) : Placed :=
  let x := getLaunch s l
  let img := k % max 1 (imageCores x.object)
  match relocateFor x x.object k with
  | .error c => .error c
  | .ok o =>
    let c := freshCore ((getCore s core).joined x.part) l k
    let s := setCore s core { c with streams := streamEntries o, clock := tsMax c.clock x.ts }
    match coreWindows x o k core s with
    | (_, some _) => .error 0x318
    | (s, none) =>
      if imageBad o img then .error 0x00C
      else .ok (loadData x o k (loadBarriers o img core (loadControl o k img core (loadElements o img core (loadCode o img core (setLte x o core s))))))

/-- Images of every instance, in order. -/
def loadInstances (l : Nat) : List (Nat × Nat) → State → Placed
  | [], s => .ok s
  | (k, core) :: rest, s =>
    match loadInstance l k core s with
    | .error c => .error c
    | .ok s => loadInstances l rest s

/-- A section's contents, filled up with zeros to a size. -/
def sectionCopy (o : List Byte) (ty size : Nat) : List Byte :=
  let b := match sec? o ty with | some w => (o.drop w.off).take w.size | none => []
  b ++ List.replicate (size - b.length) 0

/-- Places a Ready launch on cores (R341 steps 1 to 5, R343): held until its release. The launch tables are those of instance 0's copy. -/
def placeLaunch (s : State) (l : Nat) (cores : List Nat) : Placed :=
  match reserve s l cores with
  | none => .error 0x31B
  | some (s, es) =>
    let x := getLaunch s l
    match relocateFor x x.object 0 with
    | .error c => .error c
    | .ok o0 =>
      match loadInstances l ((List.range cores.length).map fun k => (k, cores.getD k 0)) s with
      | .error c => .error c
      | .ok s =>
        let s := poke s x.map (cores.flatMap (mapEntry s))
        let s := poke s x.table (sectionCopy o0 0x07 (windowBytes o0) ++ sectionCopy o0 0x09 (schedBytes o0))
        let s := { s with edges := s.edges ++ es }
        let s := setLaunch s l { getLaunch s l with object := fillPointers o0 x, cores := cores, placed := true, inst := s.submitted + 1 }
        .ok (writeLayout { s with submitted := s.submitted + 1 } l)

/-! ## Leaving cores -/

/-- An output of an engine. -/
def Edge.ofEngine (e : Edge) : Bool := match e.src with | .eng _ _ => true | _ => false

/-- Every element and control element of a launch is Unconfigured (R345); sleeps, handlers and queued traps go with
them, and every edge but those of engines that still run. -/
def unconfigureLaunch (s : State) (l : Nat) : State :=
  let x := getLaunch s l
  let s := x.cores.foldl (fun s core =>
    let s := (((getCore s core).elems).map (·.1)).foldl (fun s u => unconfigure s ⟨core, u⟩) s
    let c := getCore s core
    setCore s core { c with ctl := {}, trapq := [] }) s
  { s with edges := (s.edges.filter fun e => e.launch ≠ l || e.ofEngine).map fun e =>
      if e.launch = l then { e with gated := false, marker := false } else e }

/-- A core leaves its launch (R404, R410): windows and launch-table entry cleared, ranges deposited. -/
def leaveCore (s : State) (core : Nat) : State :=
  let s := clearWindows s core
  let c := getCore s core
  let mine (e : Edge) : Bool := match e.src with | .eng k _ => k = core | _ => false
  let s := { s with edges := s.edges.filter fun e => !mine e }
  setCore s core { c with launch := none, lte := none, bars := [], ports := c.ports.map fun p => (p.1, { p.2 with issuers := [], repairs := [] }) }

/-- What a core has given to its engines and ports is done: it is idle, with no request on its way and no wait at another core's barrier. -/
def coreDone (s : State) (core : Nat) : Bool :=
  coreIdle (getCore s core) && !(s.reqs.any fun r => r.2.core = core)
    && s.cores.all fun k => k.2.waits.all fun w => match w.2.remote with | some (a, _, _) => a ≠ core | none => true

/-- A launch without its table block (R343). -/
def Launch.untabled (x : Launch) : Launch := { x with regions := x.regions.filter (·.1 ≠ x.table) }

/-- A launch gives up the cores whose engines are idle, with what it holds in their scratchpads; a launch that has ended gives up its memory
with the last of them (R345). -/
def reapLaunch (s : State) (l : Nat) : State :=
  let x := getLaunch s l
  let (go, keep) := x.cores.partition fun core => (getCore s core).elems.isEmpty && coreDone s core
  let ts := go.foldl (fun t core => tsMax t (getCore s core).clock) x.ts
  let s := go.foldl (fun s core => if (getCore s core).launch = some l then leaveCore s core else s) s
  let ended : Bool := keep.isEmpty && (x.stage = .complete || x.stage = .failed)
  let pad (r : Nat × Nat) : Bool := go.any fun core => cpadPa core 0 ≤ r.1 && r.1 < cpadPa core 0x60000
  setLaunch s l { getLaunch s l with cores := keep, ts := ts, regions := if ended then [] else x.regions.filter (!pad ·),
                                     blocks := if ended then [] else x.blocks }

/-- What is added to the instance of a control element that stands in a save image, where it has asked for a rewire (R366). -/
def imagedAsker : Nat := 2 ^ 20

/-- Requests of a rewire that goes with its launch are refused with reason 8 (R366); an asker in a save image hears no more. -/
def refuseRewire (s : State) (r : Rewire) (reason : Nat) (version : Word) : State :=
  match r.asker with
  | some (core, sink) => if core ≥ imagedAsker then s else writeSink s ⟨core, ceIx⟩ sink (completionWord 0 version.toNat reason 0x304)
  | none => s

def dropRewires (s : State) (l : Nat) : State :=
  let x := getLaunch s l
  let rs := (match x.rewire with | some r => [r] | none => []) ++ x.waitingRewires
  let s := rs.foldl (fun s r => refuseRewire s r 8 x.version) s
  setLaunch s l { getLaunch s l with rewire := none, waitingRewires := [] }

/-- A launch becomes Failed (R344): its kerf and rewires are abandoned, its elements Unconfigured. -/
def failLaunch (s : State) (l : Nat) (cause : Cause) (supervisor : Bool) (detail : Quad) : State :=
  let s := unconfigureLaunch (dropRewires s l) l
  let x := getLaunch s l
  let s := setLaunch s l { x.untabled with stage := .failed, kerf := none, saved := [], pads := [], clus := [], monitors := [], imaged := false }
  let s := x.cores.foldl (fun s core => setCore s core { getCore s core with engSaved := [] }) s
  let s := tell s { code := cause, handle := l }
  nextUp (reapLaunch (if supervisor then tellSupervisor s x.part cause detail else s) l) [.launchChoose]

/-- The NDONE-th report (R345): the launch drains; elements become Unconfigured in the next cycle, a kerf and a rewire in
progress are abandoned, and every dirty range is deposited. -/
def beginDraining (s : State) (l : Nat) : State :=
  let s := dropRewires s l
  let x := getLaunch s l
  let s := setLaunch s l { x with stage := .draining, kerf := none }
  x.cores.foldl (fun s core => depositCore (setCore s core { getCore s core with engSaved := [] }) core) s

/-- A done report of an instruction (R108, R345). -/
def countDone (s : State) (core : Nat) : State :=
  match (getCore s core).launch with
  | none => s
  | some l =>
    let x := getLaunch s l
    if x.stage ≠ .running then s
    else
      let n := x.ndone + 1
      let s := setLaunch s l { x with ndone := n }
      if n = rd x.object (launchOff x.object + 0xC) 4 then beginDraining s l else s

/-- What a Draining launch still owes on a core: an update, or a command (R345). A reply that nothing waits for is neither. -/
def Req.owed (r : Req) : Bool := r.update || r.unit ≥ 100 || (match r.sink with | .word _ => true | _ => false)

/-- Every obligation of a Draining launch is met (R345). -/
def drained (s : State) (x : Launch) : Bool :=
  x.cores.all fun core => coreIdle (getCore s core) && !(s.reqs.any fun r => r.2.core = core && r.2.owed)
    && s.cores.all fun k => k.2.waits.all fun w => match w.2.remote with | some (a, _, _) => a ≠ core | none => true

/-- LAUNCH_COMPLETE (R345, R346): the completion signal and the status to the host carry the timestamps of all that the launch did. -/
def execLaunchComplete (l : Nat) (s : State) : Outcome :=
  let x := getLaunch s l
  if x.stage = .draining ∧ drained s x ∧ x.cores.all (fun core => (getCore s core).elems.isEmpty) then
    let tl := rd x.object (launchOff x.object + 0xB) 1
    let lead := (getPart s x.part).lead
    let ts := x.cores.foldl (fun t core => tsMax t (getCore s core).clock) x.ts
    let s := if tl = 0 then s
      else setTimeline s lead tl (.ofNat 64 (min (2 ^ 64 - 1) (((getCore s lead).timeline tl).toNat + 1))) ts
    let s := setLaunch { s with hostClock := tsMax s.hostClock ts } l { x.untabled with stage := .complete, ts := ts }
    .next (nextUp (reapLaunch (tell s { code := 0, handle := l, data := leBytes 8 x.lost }) l) [.launchChoose])
  else .next s

/-- LAUNCH_RELEASE (R342): every held element enters Running, and every control element considers its first word. A window
of R352 that has begun does not count. -/
def execLaunchRelease (l : Nat) (s : State) : Outcome :=
  let x := getLaunch s l
  if x.stage = .ready ∧ x.placed ∧ !x.ran then
    let part : Bool := s.cycle % 4096 ≠ 0
    let s := x.cores.foldl (fun s core =>
      ((getCore s core).elems.map (·.1)).foldl (fun s u =>
        setElem s ⟨core, u⟩ { (getElem s ⟨core, u⟩).setRun 1 with unsettled := part }) s) s
    let s := { s with edges := s.edges.map fun e => if e.launch = l then { e with unsettled := part } else e }
    .next (setLaunch s l { x with stage := .running, ran := true, readySince := none })
  else .next s

end Sys2Proof.Machine
end

