-- ==== Sys2Proof/Machine/Rename.lean ====
section
/-! DEFINITION. The indices an operator names, and its words and state with those indices moved (R362, R363). -/

namespace Sys2Proof.Machine

open Sys2Proof

/-! ## Moving indices -/

/-- How far each kind of index moves. -/
structure Shift where
  slot : Int := 0
  trig : Int := 0
  d : Int := 0
  a : Int := 0
  p : Int := 0
  inp : Int := 0
  outp_ : Int := 0
deriving DecidableEq, Repr

/-- The move back. -/
def Shift.back (f : Shift) : Shift :=
  { slot := -f.slot, trig := -f.trig, d := -f.d, a := -f.a, p := -f.p, inp := -f.inp, outp_ := -f.outp_ }

/-- An index moved. -/
def movedIx (n : Nat) (k : Int) : Nat := ((n : Int) + k).toNat

/-- The low w bits of a mask, moved. -/
def movedBits (w n : Nat) (k : Int) : Nat := if k ≥ 0 then n * 2 ^ k.toNat % 2 ^ w else n / 2 ^ (-k).toNat

def Shift.dr (f : Shift) (n : Fin 16) : Fin 16 := Fin.ofNat 16 (movedIx n f.d)
def Shift.ar (f : Shift) (n : Fin 4) : Fin 4 := Fin.ofNat 4 (movedIx n f.a)
def Shift.pr (f : Shift) (n : Fin 8) : Fin 8 := Fin.ofNat 8 (movedIx n f.p)
def Shift.inch (f : Shift) (n : Fin 4) : Fin 4 := Fin.ofNat 4 (movedIx n f.inp)
def Shift.outp (f : Shift) (n : Fin 4) : Fin 4 := Fin.ofNat 4 (movedIx n f.outp_)
def Shift.mask (f : Shift) (m : BitVec 4) : BitVec 4 := .ofNat 4 (movedBits 4 m.toNat f.outp_)

/-- A source operand moved; the lane-slice codes name A0 and A1 and stay. -/
def Shift.src (f : Shift) : Src → Src
  | .d n => .d (f.dr n) | .inp n => .inp (f.inch n) | .pk n => .pk (f.inch n) | s => s

/-- A destination moved. -/
def Shift.dst (f : Shift) : Dst → Dst
  | .d n => .d (f.dr n) | .out n => .out (f.outp n) | d => d

/-- An element's instruction moved: selectors, packets, completion registers and predicate fields with it. -/
def renameInstr (f : Shift) (i : Instr) : Instr :=
  match i with
  | .mov d a => .mov (f.dst d) (f.src a)
  | .movi d i => .movi (f.dst d) i
  | .lit lf d v => .lit lf (f.dst d) v
  | .fwd base a b => .fwd (f.outp base) (f.src a) (f.src b)
  | .tagset d a tag => .tagset (f.dst d) (f.src a) tag
  | .dup mask a => .dup (f.mask mask) (f.src a)
  | .drop a => .drop (f.src a)
  | .pset p v => .pset (f.pr p) v
  | .psetNz p a => .psetNz (f.pr p) (f.src a)
  | .psetZ p a => .psetZ (f.pr p) (f.src a)
  | .plog p pa pb tt => .plog (f.pr p) (f.pr pa) (f.pr pb) tt
  | .sel d a b p neg => .sel (f.dst d) (f.src a) (f.src b) (f.pr p) neg
  | .tagget d a => .tagget (f.dst d) (f.src a)
  | .done d a => .done (f.dst d) (f.src a)
  | .add lt d a b => .add lt (f.dst d) (f.src a) (f.src b)
  | .sub lt d a b => .sub lt (f.dst d) (f.src a) (f.src b)
  | .addi d a i => .addi (f.dst d) (f.src a) i
  | .mul lt d a b => .mul lt (f.dst d) (f.src a) (f.src b)
  | .mulh lt d a b => .mulh lt (f.dst d) (f.src a) (f.src b)
  | .mad lt d a b => .mad lt (f.dst d) (f.src a) (f.src b)
  | .div lt d a b => .div lt (f.dst d) (f.src a) (f.src b)
  | .rem lt d a b => .rem lt (f.dst d) (f.src a) (f.src b)
  | .and lt d a b => .and lt (f.dst d) (f.src a) (f.src b)
  | .or lt d a b => .or lt (f.dst d) (f.src a) (f.src b)
  | .xor lt d a b => .xor lt (f.dst d) (f.src a) (f.src b)
  | .andn lt d a b => .andn lt (f.dst d) (f.src a) (f.src b)
  | .shl lt d a b => .shl lt (f.dst d) (f.src a) (f.src b)
  | .shr lt d a b => .shr lt (f.dst d) (f.src a) (f.src b)
  | .sha lt d a b => .sha lt (f.dst d) (f.src a) (f.src b)
  | .rot lt d a b => .rot lt (f.dst d) (f.src a) (f.src b)
  | .shli d a w c => .shli (f.dst d) (f.src a) w c
  | .shri d a w c => .shri (f.dst d) (f.src a) w c
  | .min lt d a b => .min lt (f.dst d) (f.src a) (f.src b)
  | .max lt d a b => .max lt (f.dst d) (f.src a) (f.src b)
  | .abs lt d a => .abs lt (f.dst d) (f.src a)
  | .neg lt d a => .neg lt (f.dst d) (f.src a)
  | .clz lt d a => .clz lt (f.dst d) (f.src a)
  | .popc lt d a => .popc lt (f.dst d) (f.src a)
  | .cmpEq lt m p a b => .cmpEq lt m (f.pr p) (f.src a) (f.src b)
  | .cmpLt lt m p a b => .cmpLt lt m (f.pr p) (f.src a) (f.src b)
  | .cmpLe lt m p a b => .cmpLe lt m (f.pr p) (f.src a) (f.src b)
  | .adds lt d a b => .adds lt (f.dst d) (f.src a) (f.src b)
  | .subs lt d a b => .subs lt (f.dst d) (f.src a) (f.src b)
  | .lea sh d a b => .lea sh (f.dst d) (f.src a) (f.src b)
  | .dot4 signed d a b => .dot4 signed (f.dst d) (f.src a) (f.src b)
  | .bfx lt d a b => .bfx lt (f.dst d) (f.src a) (f.src b)
  | .shuf lt d a b => .shuf lt (f.dst d) (f.src a) (f.src b)
  | .bcast lt d a b => .bcast lt (f.dst d) (f.src a) (f.src b)
  | .ins lt d a b => .ins lt (f.dst d) (f.src a) (f.src b)
  | .ext lt d a b => .ext lt (f.dst d) (f.src a) (f.src b)
  | .rsum lt d a => .rsum lt (f.dst d) (f.src a)
  | .rmax lt d a => .rmax lt (f.dst d) (f.src a)
  | .rmin lt d a => .rmin lt (f.dst d) (f.src a)
  | .pack lt d a b => .pack lt (f.dst d) (f.src a) (f.src b)
  | .unpkLo lt d a => .unpkLo lt (f.dst d) (f.src a)
  | .unpkHi lt d a => .unpkHi lt (f.dst d) (f.src a)
  | .vconf lt d a => .vconf lt (f.dst d) (f.src a)
  | .vcomb lt d a b => .vcomb lt (f.dst d) (f.src a) (f.src b)
  | .pscan lt d a b => .pscan lt (f.dst d) (f.src a) (f.src b)
  | .lscan lt d a b => .lscan lt (f.dst d) (f.src a) (f.src b)
  | .mskidx lt d a b => .mskidx lt (f.dst d) (f.src a) (f.src b)
  | .fadd lt d a b => .fadd lt (f.dst d) (f.src a) (f.src b)
  | .fsub lt d a b => .fsub lt (f.dst d) (f.src a) (f.src b)
  | .fmul lt d a b => .fmul lt (f.dst d) (f.src a) (f.src b)
  | .fma lt d a b => .fma lt (f.dst d) (f.src a) (f.src b)
  | .fms lt d a b => .fms lt (f.dst d) (f.src a) (f.src b)
  | .fnma lt d a b => .fnma lt (f.dst d) (f.src a) (f.src b)
  | .fmin lt d a b => .fmin lt (f.dst d) (f.src a) (f.src b)
  | .fmax lt d a b => .fmax lt (f.dst d) (f.src a) (f.src b)
  | .fabs lt d a => .fabs lt (f.dst d) (f.src a)
  | .fneg lt d a => .fneg lt (f.dst d) (f.src a)
  | .fcmpEq lt m p a b => .fcmpEq lt m (f.pr p) (f.src a) (f.src b)
  | .fcmpLt lt m p a b => .fcmpLt lt m (f.pr p) (f.src a) (f.src b)
  | .fcmpLe lt m p a b => .fcmpLe lt m (f.pr p) (f.src a) (f.src b)
  | .fcmpUn lt m p a b => .fcmpUn lt m (f.pr p) (f.src a) (f.src b)
  | .fdiv lt d a b => .fdiv lt (f.dst d) (f.src a) (f.src b)
  | .fsqrt lt d a => .fsqrt lt (f.dst d) (f.src a)
  | .cvt row g rm d a => .cvt row g rm (f.dst d) (f.src a)
  | .cvti row g rm d a => .cvti row g rm (f.dst d) (f.src a)
  | .cvtf row g rm d a => .cvtf row g rm (f.dst d) (f.src a)
  | .split3 term d a b => .split3 term (f.dst d) (f.src a) (f.src b)
  | .fdot2 lt d a b => .fdot2 lt (f.dst d) (f.src a) (f.src b)
  | .qmxScale x d a => .qmxScale x (f.dst d) (f.src a)
  | .qmxEnc x d a b => .qmxEnc x (f.dst d) (f.src a) (f.src b)
  | .dqmx x d a b => .dqmx x (f.dst d) (f.src a) (f.src b)
  | .fclass lt d a => .fclass lt (f.dst d) (f.src a)
  | .frcp lt d a => .frcp lt (f.dst d) (f.src a)
  | .frsq lt d a => .frsq lt (f.dst d) (f.src a)
  | .fexp2 lt d a => .fexp2 lt (f.dst d) (f.src a)
  | .flog2 lt d a => .flog2 lt (f.dst d) (f.src a)
  | .fsig lt d a => .fsig lt (f.dst d) (f.src a)
  | .ftanh lt d a => .ftanh lt (f.dst d) (f.src a)
  | .fsin lt d a => .fsin lt (f.dst d) (f.src a)
  | .fcos lt d a => .fcos lt (f.dst d) (f.src a)
  | .lsld w bump d an => .lsld w bump (f.dst d) (f.ar an)
  | .lsst w bump an b => .lsst w bump (f.ar an) (f.src b)
  | .lsldx w d an idx => .lsldx w (f.dst d) (f.ar an) (f.src idx)
  | .lsstx w idx an b => .lsstx w (f.dr idx) (f.ar an) (f.src b)
  | .aset an a i => .aset (f.ar an) (f.src a) i
  | .aadd an a i => .aadd (f.ar an) (f.src a) i
  | .ldq w rc d a ord => .ldq w rc (f.dst d) (f.src a) (f.src ord)
  | .stq w noalloc d a b => .stq w noalloc (f.dst d) (f.src a) (f.src b)
  | .stqp w noalloc a b => .stqp w noalloc (f.src a) (f.src b)
  | .ldqx w rc d a idx => .ldqx w rc (f.dst d) (f.src a) (f.src idx)
  | .stqx w op idx a b => .stqx w op (f.dr idx) (f.src a) (f.src b)
  | .monarm w32 d a b => .monarm w32 (f.dst d) (f.src a) (f.src b)
  | .pref rc a => .pref rc (f.src a)
  | .atom op d a b => .atom op (f.dst d) (f.src a) (f.src b)
  | .cas w d a b => .cas w (f.dr d) (f.src a) (f.src b)
  | .barArr d a => .barArr (f.dst d) (f.src a)
  | .barArrN d a b => .barArrN (f.dst d) (f.src a) (f.src b)
  | .barArrInit d a b => .barArrInit (f.dst d) (f.src a) (f.src b)
  | .barWaitFull d a b late => .barWaitFull (f.dst d) (f.src a) (f.src b) (if late = 0 then 0 else f.pr late)
  | .barWaitPar d a b => .barWaitPar (f.dst d) (f.src a) (f.src b)
  | .tlWait k d a => .tlWait k (f.dst d) (f.src a)
  | .tlSig k d a => .tlSig k (f.dst d) (f.src a)
  | .cwait d n => .cwait (f.dst d) n
  | .fence sc d => .fence sc (f.dst d)
  | .send port a len sig nb => .send port (f.dr a) len sig (nb.map f.pr)
  | .sendw port a len sig nb c => .sendw port (f.dr a) len sig nb (f.dr c)  | i => i

/-- A word moved, its trigger number with it; a word that does not decode keeps its other bits. -/
def renameWord (f : Shift) (w : Nat) (second : Option Nat) : Nat :=
  let op := match decodeWord false w second with
    | .ok i => (encodeOp (renameInstr f i)).getD (w % 2 ^ 26)
    | .error _ => w % 2 ^ 26
  movedIx (w / 2 ^ 26) f.trig % 64 * 2 ^ 26 + op

/-- A trigger entry moved (R39). -/
def renameTrigger (f : Shift) (t : Dword) : Dword :=
  let n := t.toNat
  let pr (lo : Nat) : Nat := movedBits 8 (n / 2 ^ lo % 256) f.p * 2 ^ lo
  .ofNat 64 (pr 56 + pr 48 + pr 40 + pr 32 + movedBits 4 (n / 2 ^ 24 % 16) f.inp * 2 ^ 24 + movedBits 24 (n % 2 ^ 24) (6 * f.inp))

/-- Whether a slot is the second word of the literal before it (R34). -/
def secondWord (e : Elem) (i : Nat) : Bool := (List.range i).foldl (fun b j => !b && opcOf (e.slot j).toNat = 0x03) false

/-- Whether a slot is filled. -/
def filled (e : Elem) (i : Nat) : Bool := e.sloten.getLsbD i || (tget 0 e.slots i) ≠ 0

/-- The words of an element's slots, moved to their new slots; a slot that would fall below slot 0 is left out. -/
def renameSlots (f : Shift) (e : Elem) : Tbl Word :=
  ((List.range 32).filter fun i => filled e i && decide ((i : Int) + f.slot ≥ 0)).foldl (fun (t : Tbl Word) i =>
    let w := e.slot i
    let second := if i < 31 then some (e.slot (i + 1)).toNat else none
    tput t (movedIx i f.slot) (if secondWord e i then w else .ofNat 32 (renameWord f w.toNat second))) []

/-- A keyed list with its keys moved; a key that would fall below zero is left out. -/
def movedTbl {α : Type} (t : Tbl α) (k : Int) : Tbl α :=
  t.filterMap fun e => if (e.1 : Int) + k < 0 then none else some (movedIx e.1 k, e.2)

/-- The keys below a bound. -/
def below {α : Type} (t : Tbl α) (n : Nat) : Tbl α := t.filter (·.1 < n)

/-- A keyed list laid over another. -/
def overTbl {α : Type} (t u : Tbl α) : Tbl α := u.foldl (fun t e => tput t e.1 e.2) t

/-- An element's state with every index moved; its lane slice, FPCTL, FPFLG and generator stand. -/
def Elem.moved (e : Elem) (f : Shift) : Elem :=
  { e with
    slots := renameSlots f e
    sloten := .ofNat 32 (movedBits 32 e.sloten.toNat f.slot)
    trig := movedTbl (e.trig.map fun t => (t.1, renameTrigger f t.2)) f.trig
    p := .ofNat 8 (movedBits 8 e.p.toNat f.p)
    d := movedTbl e.d f.d
    a := movedTbl e.a f.a
    inq := movedTbl e.inq f.inp
    outq := movedTbl e.outq f.outp_
    pendD := .ofNat 16 (movedBits 16 e.pendD.toNat f.d)
    pendA := .ofNat 4 (movedBits 4 e.pendA.toNat f.a)
    pendP := .ofNat 8 (movedBits 8 e.pendP.toNat f.p)
    held := e.held.filterMap fun h => if (h.slot : Int) + f.slot < 0 then none else some { h with slot := movedIx h.slot f.slot } }

/-- Two elements' states in one: the second's indices stand above the first's already. -/
def Elem.joined (e u : Elem) (lane : Tbl Byte) : Elem :=
  { e with
    slots := overTbl e.slots u.slots
    sloten := e.sloten ||| u.sloten
    trig := overTbl e.trig u.trig
    p := e.p ||| u.p
    d := overTbl e.d u.d
    a := overTbl e.a u.a
    inq := overTbl e.inq u.inq
    outq := overTbl e.outq u.outq
    pendD := e.pendD ||| u.pendD
    pendA := e.pendA ||| u.pendA
    pendP := e.pendP ||| u.pendP
    pendLane := e.pendLane || u.pendLane
    fpflg := e.fpflg ||| u.fpflg
    lane := lane
    held := e.held ++ u.held
    tickets := max e.tickets u.tickets }

/-- What is below the bases of a fold: the lower operator's part, and A registers below their own bound. -/
def Elem.lower (e : Elem) (slot trig d a p inp out : Nat) : Elem :=
  { e with
    slots := below e.slots slot
    sloten := .ofNat 32 (e.sloten.toNat % 2 ^ slot)
    trig := below e.trig trig
    p := .ofNat 8 (e.p.toNat % 2 ^ p)
    d := below e.d d
    a := below e.a a
    inq := below e.inq inp
    outq := below e.outq out
    pendD := .ofNat 16 (e.pendD.toNat % 2 ^ d)
    pendA := .ofNat 4 (e.pendA.toNat % 2 ^ a)
    pendP := .ofNat 8 (e.pendP.toNat % 2 ^ p)
    held := e.held.filter (·.slot < slot) }

/-! ## What an operator names (R362) -/

/-- One more than the highest index of each kind that an operator names, and whether it reaches the lane slice. -/
structure Names where
  slots : Nat := 0
  trigs : Nat := 0
  d : Nat := 0
  a : Nat := 0
  p : Nat := 0
  inp : Nat := 0
  out : Nat := 0
  lane : Bool := false
deriving DecidableEq, Repr

/-- One more than the highest bit that is set, 0 where none is; fuel is the width. -/
def bitTop : Nat → Nat → Nat
  | 0, _ => 0
  | w + 1, n => if n / 2 ^ w % 2 = 1 then w + 1 else bitTop w n

/-- Takes in the indices of a set of needs. -/
def Names.need (n : Names) (k : Need) : Names :=
  { n with
    d := max n.d (bitTop 16 (k.dregs ||| k.wD).toNat), a := max n.a (bitTop 4 (k.aR ||| k.aW).toNat),
    p := max n.p (bitTop 8 (k.pR ||| k.pW).toNat),
    inp := k.srcs.foldl (fun m a => match Src.chan a with | some c => max m (c.val + 1) | none => m) n.inp,
    out := k.outs.foldl (fun m c => max m (c.val + 1)) n.out, lane := n.lane || k.laneR || k.laneW }

/-- Takes in a trigger entry: its predicate masks, DRP and the need bits of CC0 to CC3. -/
def Names.trigger (n : Names) (ix : Nat) (t : Dword) : Names :=
  let chans := (List.range 4).foldl (fun m c => if trigNeed t c ∨ (trigDrp t).getLsbD c then c + 1 else m) 0
  { n with trigs := max n.trigs (ix + 1), p := max n.p (bitTop 8 (trigPmask t ||| trigPset t ||| trigPclr t).toNat),
           inp := max n.inp chans }

/-- What the operator of an element names. -/
def namesOf (e : Elem) : Names :=
  ((List.range 32).filter (filled e)).foldl (fun (n : Names) i =>
    let n := { n with slots := max n.slots (if !secondWord e i && opcOf (e.slot i).toNat = 0x03 then i + 2 else i + 1) }
    if secondWord e i then n
    else
      let w := (e.slot i).toNat
      let n := n.trigger (trgOf w) (e.trigger (trgOf w))
      match decodeWord false w (if i < 31 then some (e.slot (i + 1)).toNat else none) with
      | .ok (.fwd base a b) => n.need { (({} : Need).src a).src b with outs := [base] }
      | .ok ins => n.need (needOf e 0 ins)
      | .error _ => n) {}

/-- Whether an element can take a draw (R97): its rounding mode is SR, or a slot names it. -/
def canDraw (e : Elem) : Bool :=
  e.rm = .sr || ((List.range 32).filter (filled e)).any fun i =>
    !secondWord e i && match decodeWord false (e.slot i).toNat (if i < 31 then some (e.slot (i + 1)).toNat else none) with
      | .ok (.cvt _ _ rm _ _) | .ok (.cvti _ _ rm _ _) | .ok (.cvtf _ _ rm _ _) => rm = some .sr
      | _ => false

end Sys2Proof.Machine
end

