-- ==== Sys2Proof/Machine/Rewire.lean ====
section
/-! DEFINITION. Cloning and folding in service (R355 to R371): what a rewire needs, its gate, drain, move and re-pointing,
and what a dealer and a joiner do in each cycle. -/

namespace Sys2Proof.Machine

open Sys2Proof

/-! ## Operators of a launch -/

def Launch.op (x : Launch) (n : Nat) : Op := x.ops.getD n {}
def Launch.setOp (x : Launch) (n : Nat) (f : Op → Op) : Launch := { x with ops := x.ops.modify n f }

/-- The module core of a level-1 instance, and a coordinate as a unit. -/
def Launch.core (x : Launch) (k : Nat) : Nat := x.cores.getD k 0
def Launch.unit (x : Launch) (c : Nat × Nat) : UnitId := ⟨x.core c.1, c.2⟩

/-- The GRAPH entry of an operator (R370: the same one for every repeat). -/
def opRecord (x : Launch) (n : Nat) : Nat :=
  let es := entries x.object 0x01
  es.getD (n % max 1 es.length) 0

/-- Bases of a fold, in the order of R370: slot, trigger, D, A, predicate, input, output. -/
def Op.base (o : Op) (i : Nat) : Nat := o.bases.getD i 0

/-- Whether a channel of an element belongs to an operator: an operator of a fold has those on its side of the base. -/
def ownsChannel (x : Launch) (n i ch : Nat) : Bool :=
  let o := x.op n
  if o.mode ≠ 2 then true
  else if o.upper then o.base i ≤ ch else ch < (x.op (o.partner.getD 0)).base i

/-- The edges and attachments that feed an operator's first element, or its dealer; and those that leave it, or its joiner. -/
def opIns (s : State) (x : Launch) (n : Nat) : List Edge :=
  let u := x.unit ((x.op n).dealer.getD (x.op n).host)
  s.edges.filter fun e => match e.dst with | .elem c el ch => c = u.core && el = u.ix && ownsChannel x n 5 ch.val | _ => false
def opOuts (s : State) (x : Launch) (n : Nat) : List Edge :=
  let u := x.unit ((x.op n).joiner.getD (x.op n).host)
  s.edges.filter fun e => match e.src with | .elem c el ch => c = u.core && el = u.ix && ownsChannel x n 6 ch | _ => false

def edgeIn (e : Edge) : Nat := match e.dst with | .elem _ _ ch => ch.val | _ => 0
def edgeOut (e : Edge) : Nat := match e.src with | .elem _ _ ch => ch | _ => 0

/-- The edge of the lowest channel. -/
def lowestEdge (f : Edge → Nat) (es : List Edge) : Option Edge :=
  es.foldl (fun (b : Option Edge) e => match b with | some c => if f e < f c then some e else b | none => some e) none

/-- An operator's input edge and output edge, as its measurements take them. -/
def opIn (s : State) (x : Launch) (n : Nat) : Option Edge := lowestEdge edgeIn (opIns s x n)
def opOut (s : State) (x : Launch) (n : Nat) : Option Edge := lowestEdge edgeOut (opOuts s x n)

/-- The input and the output channel of a clonable operator in its own element, from the written graph. -/
def writtenPorts (x : Launch) (n : Nat) : Fin 4 × Fin 4 :=
  let o := x.object
  match (elemRecs o)[rd o (opRecord x n + 4) 4]? with
  | none => (0, 0)
  | some r =>
    let es := entries o 0x04
    let i := (es.find? fun b => rd o (b + 8) 2 = r.core && coordIx o (b + 8) = r.ix).map fun b => rd o (b + 0xC) 1
    let p := (es.find? fun b => rd o b 2 = r.core && coordIx o b = r.ix).map fun b => rd o (b + 4) 1
    (Fin.ofNat 4 (i.getD 0), Fin.ofNat 4 (p.getD 0))

/-! ## Ranks (R382) -/

/-- The rank of an element. -/
def rankOf (x : Launch) (c : Nat × Nat) : Nat × Nat :=
  let first (n : Nat) : Nat := rd x.object (opRecord x n + 4) 4
  let is := List.range x.ops.length
  match is.find? fun n => (x.op n).dealer = some c with
  | some n => (first n, 0)
  | none => match is.find? fun n => (x.op n).joiner = some c with
    | some n => (first n, 2)
    | none => match is.find? fun n => (x.op n).reps.contains c || (x.op n).host = c with
      | some n => (first n, 1)
      | none => (elemPlace x.object (c.1 % max 1 (imageCores x.object)) c.2, 1)

/-- The level-1 instance of a module core. -/
def instanceOf (x : Launch) (core : Nat) : Nat := ((List.range x.cores.length).find? fun k => x.core k = core).getD 0

/-- Back edges afresh. -/
def rebuildBacks (s : State) (l : Nat) : State :=
  let x := getLaunch s l
  { s with edges := s.edges.map fun e =>
    if e.launch ≠ l then e
    else match e.src, e.dst with
      | .elem a i _, .elem b j _ =>
        let f := rankOf x (instanceOf x a, i)
        let t := rankOf x (instanceOf x b, j)
        { e with back := t.1 < f.1 || (t.1 = f.1 && t.2 ≤ f.2) }
      | _, _ => e }

/-! ## What each kind needs -/

def clctlField (s : State) (part hi lo : Nat) : Nat := (rewireOff s clenMask (getPart s part).clctl).toNat / 2 ^ lo % 2 ^ (hi + 1 - lo)
def fdctlField (s : State) (part hi lo : Nat) : Nat := (rewireOff s fdenMask (getPart s part).fdctl).toNat / 2 ^ lo % 2 ^ (hi + 1 - lo)

/-- Unconfigured elements, those of an instance's own core first (R359). -/
def freeNear (s : State) (x : Launch) (k : Nat) : List (Nat × Nat) :=
  let (own, others) := (freeElems s x).partition fun c => c.1 = k
  own ++ others

/-- Rule 1 of R357: an operator that is one element. -/
def oneElement (x : Launch) (n : Nat) : Bool := rd x.object (opRecord x n + 8) 4 = 1

/-- The shape of R357. -/
def clonable (s : State) (x : Launch) (n : Nat) : Bool :=
  oneElement x n && (match opIns s x n, opOuts s x n with
    | [a], [b] => (match a.src, b.dst with | .elem _ _ _, .elem _ _ _ => true | _, _ => false)
    | _, _ => false)

/-- Why an operator is not cloned (R356, R357, R368). -/
def cloneReason (s : State) (x : Launch) (n : Nat) : Option Nat :=
  let o := x.op n
  if o.mode ≠ 0 then some 6 else if o.cls = 3 then some 2 else if clonable s x n then none else some 5

/-- Why two operators are not folded (R362). -/
def foldReason (s : State) (x : Launch) (m n : Nat) : Option Nat :=
  let a := x.op m
  let b := x.op n
  if a.mode ≠ 0 ∨ b.mode ≠ 0 then some 6
  else if m = n ∨ !oneElement x m ∨ !oneElement x n ∨ a.host.1 ≠ b.host.1 then some 5
  else
    let joins (p q : Op) : Bool := s.edges.any fun e => match e.src, e.dst with
      | .elem c i _, .elem d j _ => (⟨c, i⟩ : UnitId) = x.unit p.host && (⟨d, j⟩ : UnitId) = x.unit q.host
      | _, _ => false
    let e := getElem s (x.unit a.host)
    let f := getElem s (x.unit b.host)
    let p := namesOf e
    let q := namesOf f
    if !joins a b ∧ !joins b a then some 5
    else if e.fpctl ≠ f.fpctl ∨ canDraw e ∨ canDraw f then some 7
    else if p.slots + q.slots > 32 ∨ p.trigs + q.trigs > 64 ∨ p.d + q.d > 16 ∨ p.a + q.a > 4 ∨ p.p + q.p > 8 ∨ p.inp + q.inp > 4
      ∨ p.out + q.out > 4 ∨ (p.lane ∧ q.lane) then some 4
    else none

/-- A request outside R367. -/
def rewireMalformed (x : Launch) (r : Rewire) : Bool :=
  let keyed : Bool := (x.op r.opa).cls = 1
  r.opa ≥ x.ops.length || (r.kind = 3 && r.opb ≥ x.ops.length) || r.kind = 0 || r.kind > 4
    || (r.kind ≠ 3 && r.opb ≠ 0) || (r.kind ≠ 1 && (r.repl ≠ 0 || r.drun ≠ 0))
    || (r.kind = 1 && (r.repl < 2 || r.repl > 8 || r.drun > 64 || (keyed && r.repl ≠ 2 && r.repl ≠ 4 && r.repl ≠ 8)))

/-- The reason a rewire is refused with, if any (R357, R359, R362, R364, R366 to R368). -/
def rewireReason (s : State) (x : Launch) (r : Rewire) : Option Nat :=
  let o := x.op r.opa
  if rewireMalformed x r then some 9
  else if x.rewire.isSome then some 1
  else match r.kind with
    | 1 => match cloneReason s x r.opa with
      | some c => some c
      | none => if (freeElems s x).length < r.repl + 1 then some 3 else none
    | 2 => if o.mode = 1 then none else some 6
    | 3 => foldReason s x r.opa r.opb
    | _ => if o.mode ≠ 2 then some 6 else if (freeElems s x).isEmpty then some 3 else none

/-- The elements that a rewire drains (R365). -/
def rewired (x : Launch) (r : Rewire) : List (Nat × Nat) :=
  let o := x.op r.opa
  match r.kind with
  | 1 | 4 => [o.host]
  | 2 => o.host :: o.dealer.toList ++ o.joiner.toList ++ o.reps
  | _ => [o.host, (x.op r.opb).host]

/-! ## Gate and drain (R365 steps 1 and 2, R366) -/

def feeds (x : Launch) (els : List (Nat × Nat)) (e : Edge) : Bool :=
  match e.dst with
  | .elem c i _ => els.any fun k => x.unit k = ⟨c, i⟩
  | _ => false

/-- Gates every edge that feeds a rewired element; a marker goes behind the last token in flight. -/
def gateRewire (s : State) (l : Nat) (r : Rewire) : State :=
  let x := getLaunch s l
  let els := rewired x r
  let s := { s with edges := s.edges.map fun e => if e.launch = l ∧ feeds x els e then { e with gated := true, marker := true } else e }
  setLaunch s l { x with rewire := some { r with els := els, gated := true } }

/-- A rewire is asked for: it is refused, it waits for its launch to run, or it gates. -/
def requestRewire (s : State) (l : Nat) (r : Rewire) : State :=
  let x := getLaunch s l
  if rewireMalformed x r then refuseRewire s r 9 x.version
  else if x.stage = .complete ∨ x.stage = .failed ∨ x.stage = .draining then refuseRewire s r 8 x.version
  else if x.stage ≠ .running ∨ x.kerf.isSome then setLaunch s l { x with waitingRewires := x.waitingRewires ++ [r] }
  else match rewireReason s x r with
    | some c => refuseRewire s r c x.version
    | none => gateRewire s l r

/-- Ungates what a rewire has gated, and lets its frozen elements run on. -/
def releaseRewire (s : State) (l : Nat) (r : Rewire) : State :=
  let x := getLaunch s l
  let s := { s with edges := s.edges.map fun e => if e.launch = l ∧ feeds x r.els e then { e with gated := false, marker := false } else e }
  r.els.foldl (fun s c =>
    let u := x.unit c
    if (getElem s u).run = 3 then letRun s u else s) s

/-- REWIRE_ABANDON (R366). -/
def abandonRewire (s : State) (l reason : Nat) : State :=
  let x := getLaunch s l
  match x.rewire with
  | none => s
  | some r =>
    let s := releaseRewire s l r
    let s := refuseRewire s r reason x.version
    setLaunch s l { getLaunch s l with rewire := none }

/-- Whether every edge that feeds an element has its marker. -/
def allMarked (s : State) (u : UnitId) (need : Edge → Bool) : Bool :=
  s.edges.all fun e => match e.dst with
    | .elem c i _ => !(c = u.core && i = u.ix && need e) || (e.gated && !e.marker)
    | _ => true

/-- KERF_MARKER_ARRIVAL (R383, R441): the marker of a gated edge has every token ahead of it in front. -/
def execKerfMarkerArrival (src : Endpoint) (s : State) : Outcome :=
  .next (setEdge s src fun e => if e.gated ∧ e.marker then { e with marker := false } else e)

/-- The launch whose rewire an element is part of. -/
def rewireOf (s : State) (u : UnitId) : Option (Nat × Launch × Rewire) :=
  match (getCore s u.core).launch with
  | none => none
  | some l =>
    let x := getLaunch s l
    match x.rewire with
    | some r => if r.els.any fun c => x.unit c = u then some (l, x, r) else none
    | none => none

/-- REWIRE_DRAIN_FREEZE (R365 step 2): every marker has arrived and nothing is in flight; a clone has passed every token it
was dealt. An element that is to be cloned has had its turn of the cycle before this, so that it freezes when it has nothing more to fire. -/
def execRewireDrainFreeze (u : UnitId) (s : State) : Outcome :=
  match rewireOf s u with
  | some (_, x, r) =>
    let e := getElem s u
    let passed : Bool := r.kind ≠ 2 || (x.op r.opa).between.isEmpty
    .next (if e.run = 1 ∧ e.flights.isEmpty ∧ passed ∧ allMarked s u (fun _ => true) then setElem s u (e.setRun 3) else s)
  | none => .next s

/-! ## Moving state (R365 step 3) -/

/-- Where a reply's destination moves. -/
def Shift.sink (f : Shift) : Sink → Sink
  | .d n => .d (f.dr n)
  | .out c t g => .out (f.outp c) t g
  | .pair n => .pair (Fin.ofNat 15 (movedIx n.val f.d))
  | .word (some n) => .word (some (f.dr n))
  | .request n => .request (f.dr n)
  | k => k

/-- A core's waits, commands and completions that answer one unit and that a test picks answer another. What a cwait counts stays with the
issuer that it counts for, unless `whole` says that the counts move too (R153). -/
def Core.moveUnit (c : Core) (k : Nat) (u v : UnitId) (f : Shift) (whole : Bool) (pick : Nat → Sink → Bool) : Core :=
  let cmd (m : Cmd) : Cmd :=
    if unitAt k m.unit = u ∧ pick m.slot (match m.creg with | some r => .d r | none => .nul) then
      { m with unit := unitNo k v, slot := movedIx m.slot f.slot, creg := m.creg.map f.dr } else m
  let wait (w : Wait) : Wait :=
    match w.remote with
    | some (a, b, r) =>
      if a = u.core ∧ b = u.ix ∧ pick w.slot (match r with | some r => .d r | none => .nul) then { w with remote := some (v.core, v.ix, r.map f.dr) } else w
    | none =>
      if w.peer.isSome ∨ w.dest k ≠ u ∨ !pick w.slot w.sink then w
      else
        let w := { w with slot := movedIx w.slot f.slot, sink := f.sink w.sink }
        let counts : Bool := match w.kind with | .count _ => !whole | _ => false
        if v.core = k ∧ w.movedTo.isNone ∧ !counts then { w with unit := v.ix } else { w with movedTo := some v }
  { c with
    waits := c.waits.map fun w => (w.1, wait w.2)
    queues := c.queues.map fun q => (q.1, { q.2 with q := q.2.q.map cmd })
    comps := c.comps.map fun p => (p.1, p.2.map fun m =>
      if unitAt k m.unit = u ∧ pick 0 (match m.reg with | some r => .d r | none => .nul) then { m with unit := unitNo k v, reg := m.reg.map f.dr } else m)
    walks := c.walks.map fun w => (w.1, { w.2 with cmd := cmd w.2.cmd }) }

/-- Outstanding requests, waits, commands and completions move with the registers that they will write (R365 step 3). -/
def moveUnit (s : State) (u v : UnitId) (f : Shift) (whole : Bool) (pick : Nat → Sink → Bool) : State :=
  { s with
    reqs := s.reqs.map fun r => if r.2.core = u.core ∧ r.2.unit = u.ix ∧ pick r.2.slot r.2.sink then
      (r.1, { r.2 with core := v.core, unit := v.ix, slot := movedIx r.2.slot f.slot, sink := f.sink r.2.sink }) else r
    cores := s.cores.map fun k => (k.1, k.2.moveUnit k.1 u v f whole pick) }

/-- What moves from one core to another takes along what its core has seen (R311, R312). -/
def carryClock (s : State) (a b : Nat) : State := if a = b then s else raiseClock s b (getCore s a).clock

/-- Running elements deliver the deferred traps that have come for them while they were Frozen (R151). -/
def deliverHeld (s : State) (l : Nat) : State :=
  (getLaunch s l).cores.foldl (fun s core =>
    ((getCore s core).elems.map (·.1)).foldl (fun s i =>
      let e := getElem s ⟨core, i⟩
      if e.run = 1 ∧ !e.held.isEmpty then letRun s ⟨core, i⟩ else s) s) s

/-- The counts that a port keeps of one element's posted updates join another's (R153). -/
def Port.joined (p : Port) (el el' : Nat) : Port :=
  match tfind p.issuers el with
  | none => p
  | some i =>
    let j : Issuer := tget {} p.issuers el'
    let last := if j.acked = 0 ∨ j.stamp < i.stamp then i else j
    { p with
      issuers := tput (tdel p.issuers el) el'
        { open_ := i.open_ + j.open_, acked := i.acked + j.acked, last := last.last, lost := i.lost || j.lost, stamp := last.stamp }
      repairs := p.repairs.map fun r => if r.2.unit = el then (r.1, { r.2 with unit := el' }) else r }

def joinIssuers (s : State) (core el el' : Nat) : State :=
  let c := getCore s core
  setCore s core { c with ports := c.ports.map fun p => (p.1, p.2.joined el el') }

/-- Changes the edges of a launch. -/
def mapEdges (s : State) (l : Nat) (f : Edge → Edge) : State :=
  { s with edges := s.edges.map fun e => if e.launch = l then f e else e }

/-- Outputs a clonable element owes for tokens it has consumed. -/
def owedOutputs (e : Elem) (ch out : Fin 4) : Nat := (e.inCh ch).taken - ((e.outCh out).left + (e.outCh out).q.length)

/-- The initial predicates of an operator's element: where one token is done with, a clonable element is back in them (R357). -/
def initialPreds (x : Launch) (n : Nat) : BitVec 8 :=
  match (elemRecs x.object)[rd x.object (opRecord x n + 4) 4]? with
  | some r => .ofNat 8 (rd x.object (r.off + 6) 1)
  | none => 0

/-- A clone's move (R359 to R361, R365): the free elements become dealer, joiner and replicas. A token that the operator has consumed
and still owes an output for stays with replica 0 alone. -/
def moveClone (s : State) (l : Nat) (r : Rewire) : Option (State × Nat) :=
  let x := getLaunch s l
  let o := x.op r.opa
  let u := x.unit o.host
  let e := getElem s u
  match freeNear s x o.host.1, opIn s x r.opa, opOut s x r.opa with
  | d :: j :: more, some ein, some eout =>
    let ps := more.take (r.repl - 1)
    let ch := Fin.ofNat 4 (edgeIn ein)
    let out := Fin.ofNat 4 (edgeOut eout)
    let D := x.unit d
    let J := x.unit j
    if ps.length + 1 < r.repl then none
    else
      let owed := owedOutputs e ch out
      let bare := { (e.setIn ch { taken := owed }).setOut out {} with estat := 1, unsettled := true }
      let copy := { bare.setIn ch {} with pendD := 0, pendA := 0, pendP := 0, pendLane := false, fpflg := 0, held := [],
                                          p := if owed = 0 then e.p else initialPreds x r.opa }
      let s := (d :: j :: ps).foldl (fun s p => carryClock s u.core (x.unit p).core) s
      let s := setElem s u bare
      let s := setElem s D { inq := [(0, e.inCh ch)], estat := 1, unsettled := true }
      let s := setElem s J { outq := [(0, e.outCh out)], tickets := e.tickets, fpctl := e.fpctl, srstate := e.srstate, estat := 1, unsettled := true }
      let s := ps.foldl (fun s p => setElem s (x.unit p) copy) s
      let s := moveUnit s u J { outp_ := -(out.val : Int) } false fun _ k => match k with | .out c _ _ => c = out | _ => false
      let s := mapEdges s l fun a =>
        if a.src = ein.src ∧ a.src = eout.src then { a with src := .elem J.core J.ix 0, dst := .elem D.core D.ix 0, unsettled := true }
        else if a.src = ein.src then { a with dst := .elem D.core D.ix 0, unsettled := true }
        else if a.src = eout.src then { a with src := .elem J.core J.ix 0, unsettled := true } else a
      let drun := if r.drun = 0 then clctlField s x.part 53 47 else r.drun
      let x := x.setOp r.opa fun o =>
        { o with mode := 1, nrep := r.repl, drun := drun, cutseq := (e.inCh ch).taken, dealer := some d, joiner := some j, reps := ps,
                 dealt := 0, between := List.replicate owed (8, false), carry := e.dreg 15, carryAt := s.cycle, last := e.dreg 15,
                 dealHeld := [], joinHeld := [], cloneRun := 0, idleRun := 0 }
      some (setLaunch s l { x with rewire := (getLaunch s l).rewire }, r.repl + 1)
  | _, _, _ => none

/-- Lane-slice word w from replica w mod R (R364). -/
def mergedLane (es : List Elem) : Tbl Byte :=
  (List.zip (List.range es.length) es).foldl (fun t p =>
    p.2.lane.foldl (fun t b => if b.1 / 16 % max 1 es.length = p.1 then Memory.write t b.1 b.2 else t) t) []

/-- An unclone's move (R364). -/
def moveUnclone (s : State) (l : Nat) (r : Rewire) : Option (State × Nat) :=
  let x := getLaunch s l
  let o := x.op r.opa
  match o.dealer, o.joiner with
  | some d, some j =>
    let u := x.unit o.host
    let e := getElem s u
    let (ch, out) := writtenPorts x r.opa
    let de := getElem s (x.unit d)
    let je := getElem s (x.unit j)
    let n := o.cutseq + o.dealt
    let es := e :: o.reps.map fun p => getElem s (x.unit p)
    let e := (e.setIn ch { de.inCh 0 with taken := n }).setOut out { je.outCh 0 with left := n - (je.outCh 0).q.length }
    let e := { e with held := es.flatMap (·.held), tickets := max e.tickets je.tickets, estat := 1, unsettled := true, fpflg := (je :: es).foldl (fun f k => f ||| k.fpflg) 0,
                      lane := if o.cls = 1 then mergedLane es else e.lane }
    -- the state in the middle of a run is the last token emitted, as at its end (R361)
    let e := if o.cls = 2 then e.setD 15 o.last else e
    let D := x.unit d
    let J := x.unit j
    let s := (d :: j :: o.reps).foldl (fun s p => carryClock s (x.unit p).core u.core) s
    let s := setElem s u e
    let s := mapEdges s l fun a =>
      let a := match a.dst with | .elem c i _ => if c = D.core ∧ i = D.ix then { a with dst := .elem u.core u.ix ch, unsettled := true } else a | _ => a
      match a.src with | .elem c i _ => if c = J.core ∧ i = J.ix then { a with src := .elem u.core u.ix out, unsettled := true } else a | _ => a
    let s := (d :: j :: o.reps).foldl (fun s p => unconfigure s (x.unit p)) s
    let x := x.setOp r.opa fun o =>
      { o with mode := 0, nrep := 0, drun := 0, cutseq := 0, dealer := none, joiner := none, reps := [], dealt := 0, between := [], carry := 0,
               carryAt := 0, last := 0, dealHeld := [], joinHeld := [], cloneRun := 0, idleRun := 0 }
    some (setLaunch s l { x with rewire := (getLaunch s l).rewire }, 0)
  | _, _ => none

/-- A fold's move (R363): the lower operator keeps its element. -/
def moveFold (s : State) (l : Nat) (r : Rewire) : Option (State × Nat) :=
  let x := getLaunch s l
  let m := min r.opa r.opb
  let n := max r.opa r.opb
  let u := x.unit (x.op m).host
  let v := x.unit (x.op n).host
  let e := getElem s u
  let f := getElem s v
  let p := namesOf e
  let q := namesOf f
  let aLow := if q.lane then q.a else 0
  let aUp := if q.lane then 0 else p.a
  let up : Shift := { slot := p.slots, trig := p.trigs, d := p.d, a := aUp, p := p.p, inp := p.inp, outp_ := p.out }
  let low : Shift := { a := aLow }
  let e' := ((if aLow = 0 then e else e.moved low).joined (f.moved up) (if q.lane then f.lane else e.lane)).setRun 1
  let s := moveUnit s v u up true fun _ _ => true
  let s := joinIssuers s u.core v.ix u.ix
  let c := getCore s u.core
  let s := setCore s u.core { c with trapq := c.trapq.map fun t => if t.kind = 1 ∧ t.src = v.ix then { t with src := u.ix } else t }
  let s := unconfigure (setElem s u { e' with unsettled := true }) v
  let s := mapEdges s l fun a =>
    let a := match a.dst with | .elem c i ch => if c = v.core ∧ i = v.ix then { a with dst := .elem u.core u.ix (up.inch ch) } else a | _ => a
    match a.src with | .elem c i o => if c = v.core ∧ i = v.ix then { a with src := .elem u.core u.ix (o + p.out) } else a | _ => a
  let s := mapEdges s l fun a => if feeds x [(x.op m).host] a then { a with unsettled := true } else a
  let x := x.setOp m fun o => { o with mode := 2, partner := some n, upper := false, bases := [0, 0, 0, aLow, 0, 0, 0], cloneRun := 0, idleRun := 0 }
  let x := x.setOp n fun o =>
    { o with mode := 2, partner := some m, upper := true, host := (x.op m).host,
             bases := [p.slots, p.trigs, p.d, aUp, p.p, p.inp, p.out], cloneRun := 0, idleRun := 0 }
  some (setLaunch s l { x with rewire := (getLaunch s l).rewire }, 1)

/-- An unfold's move (R364). -/
def moveUnfold (s : State) (l : Nat) (r : Rewire) : Option (State × Nat) :=
  let x := getLaunch s l
  let o := x.op r.opa
  let n := if o.upper then r.opa else o.partner.getD 0
  let m := if o.upper then o.partner.getD 0 else r.opa
  let b := (x.op n).base
  let aLow := (x.op m).base 3
  match freeNear s x o.host.1 with
  | [] => none
  | free :: _ =>
    let u := x.unit o.host
    let v := x.unit free
    let e := getElem s u
    let up : Shift := { slot := b 0, trig := b 1, d := b 2, a := b 3, p := b 4, inp := b 5, outp_ := b 6 }
    let f := ({ e with a := if aLow = 0 then e.a else below e.a aLow }).moved up.back
    let aCut := if b 3 > 0 then b 3 else 4
    let e' := (e.lower (b 0) (b 1) (b 2) aCut (b 4) (b 5) (b 6))
    let e' := if aLow = 0 then e' else e'.moved { a := -(aLow : Int) }
    let up_ := (namesOf f).lane
    let f := { f with estat := 1, lane := if up_ then e.lane else [], pendLane := up_ && e.pendLane, unsettled := true,
                      fires := 0, flights := [] }
    let e' := { e'.setRun 1 with lane := if up_ then [] else e.lane, pendLane := !up_ && e.pendLane, unsettled := true }
    let upper (slot : Nat) (k : Sink) : Bool := match k with
      | .d r => b 2 ≤ r.val
      | .pair r => b 2 ≤ r.val
      | .word (some r) => b 2 ≤ r.val
      | .out c _ _ => b 6 ≤ c.val
      | .request r => b 2 ≤ r.val
      | .lane _ | .word none => b 0 ≤ slot
      | .engine | .nul => false
    let s := carryClock s u.core v.core
    let s := setElem (setElem (moveUnit s u v up.back false upper) u e') v f
    let s := mapEdges s l fun a =>
      let a := match a.dst with
        | .elem c i ch => if c = u.core ∧ i = u.ix ∧ b 5 ≤ ch.val then { a with dst := .elem v.core v.ix (up.back.inch ch), unsettled := true } else a
        | _ => a
      match a.src with
      | .elem c i o => if c = u.core ∧ i = u.ix ∧ b 6 ≤ o then { a with src := .elem v.core v.ix (o - b 6), unsettled := true } else a
      | _ => a
    let x := x.setOp m fun o => { o with mode := 0, partner := none, bases := [0, 0, 0, 0, 0, 0, 0], cloneRun := 0, idleRun := 0 }
    let x := x.setOp n fun o => { o with mode := 0, partner := none, upper := false, host := free, bases := [0, 0, 0, 0, 0, 0, 0], cloneRun := 0, idleRun := 0 }
    some (setLaunch s l { x with rewire := (getLaunch s l).rewire }, 2)

/-- The move of a rewire's kind. -/
def moveRewire (s : State) (l : Nat) (r : Rewire) : Option (State × Nat) :=
  match r.kind with
  | 1 => moveClone s l r
  | 2 => moveUnclone s l r
  | 3 => moveFold s l r
  | _ => moveUnfold s l r

/-- Every rewired element is Frozen. -/
def rewireDrained (s : State) (x : Launch) (r : Rewire) : Bool := r.els.all fun c => (getElem s (x.unit c)).run = 3

/-- Re-pointing (R365 step 4, R368 to R370): the record, the new version, the edges and the answer. -/
def finishRewire (s : State) (l : Nat) (r : Rewire) (count : Nat) : State :=
  let x := getLaunch s l
  let s := { s with edges := s.edges.map fun e => if e.launch = l ∧ e.gated then { e with gated := false, marker := false, unsettled := true } else e }
  let s := rebuildBacks (setLaunch s l { x with rewire := none, version := x.version + 1, rwcyc := s.cycle }) l
  let s := writeLayout s l
  let v := (getLaunch s l).version
  let s := match r.asker with
    | some (core, sink) => writeSink s ⟨core, ceIx⟩ sink (completionWord 0 v.toNat count 0)
    | none => s
  (partCores s x.part).foldl (fun s k => sleepEvent s k 3) s

/-- REWIRE_COMPLETE (R365 steps 3 and 4): the rewired elements are Frozen; state moves and the new layout stands. A clone or
an unfold whose free elements have been taken meanwhile is abandoned. -/
def execRewireComplete (l : Nat) (s : State) : Outcome :=
  let x := getLaunch s l
  match x.rewire with
  | some r =>
    if r.gated ∧ rewireDrained s x r then
      match moveRewire s l r with
      | some (s, n) => .next (deliverHeld (finishRewire s l r n) l)
      | none =>
        let short : Bool := (r.kind = 1 && (freeElems s x).length < r.repl + 1) || (r.kind = 4 && (freeElems s x).isEmpty)
        .next (if short then abandonRewire s l 3 else s)
    else .next s
  | none => .next s

/-! ## Requests (R367, R371) -/

/-- CLONE (R359, R365): a clone asked for. -/
def execClone (l op : Nat) (repl drun : Nat) (s : State) : Outcome :=
  .next (requestRewire s l { kind := 1, opa := op, repl := repl, drun := drun, asker := none })
/-- UNCLONE (R364). -/
def execUnclone (l op : Nat) (s : State) : Outcome := .next (requestRewire s l { kind := 2, opa := op, asker := none })
/-- FOLD (R362, R363). -/
def execFold (l opa opb : Nat) (s : State) : Outcome := .next (requestRewire s l { kind := 3, opa := opa, opb := opb, asker := none })
/-- UNFOLD (R364). -/
def execUnfold (l op : Nat) (s : State) : Outcome := .next (requestRewire s l { kind := 4, opa := op, asker := none })

/-- A request's 64 bytes as a control element's sys.rewire gives them (R367): a request that breaks the table, or names no
instance, has reason 9. -/
def forceRewire (s : State) (core : Nat) (bs : List Byte) (sink : Sink) : State :=
  let r : Rewire :=
    { kind := rd bs 4 1, opa := rd bs 8 4, opb := rd bs 0xC 4, repl := rd bs 5 1, drun := rd bs 6 1, asker := some (core, sink) }
  match findInstance s core (rd bs 0 4) with
  | none => refuseRewire s r 9 0
  | some l => if rd bs 7 1 ≠ 0 ∨ !zeros bs 0x10 48 then refuseRewire s r 9 (getLaunch s l).version else requestRewire s l r

/-! ## Dealers and joiners (R359 to R361) -/

/-- The combining instruction, with D0 the carry and D1 the replica's output (R358, R361), and its latency. -/
def combineTokens (w : Nat) (rm : Rounding) (c o : Quad) (env : Num.Env) : Quad × Num.Env × Nat :=
  let int (t : LaneType) (f : Nat → Nat → Nat) : Quad × Num.Env × Nat := (map2 (LaneType.width t) f c o, env, 1)
  let float (t : LaneType) (f : Nat → Nat → Num.Env → Nat × Num.Env) : Quad × Num.Env × Nat :=
    let (xs, env) := mapPairs f (lanes (LaneType.width t) c) (lanes (LaneType.width t) o) env
    (ofLanes (LaneType.width t) xs, env, 4)
  let arith (t : LaneType) (f : Num.Val → Num.Val → Num.Val × Num.Flags) : Quad × Num.Env × Nat :=
    float t fun x y env => roundLane (LaneType.fp t) rm (f (Num.decode (LaneType.fp t) x) (Num.decode (LaneType.fp t) y)) env
  let choice (t : LaneType) (f : Num.Val → Num.Val → Num.Val × Num.Flags) : Quad × Num.Env × Nat :=
    float t fun x y env =>
      let (v, fl) := f (Num.decode (LaneType.fp t) x) (Num.decode (LaneType.fp t) y)
      ((Num.encode (LaneType.fp t) .rne v 0).1, env.raise fl)
  match decodeWord false w (some 0) with
  | .ok (.add t _ _ _) => int t fun x y => wrapLane t (x + y)
  | .ok (.mul t _ _ _) => int t fun x y => wrapLane t (x * y)
  | .ok (.and _ _ _ _) => (c &&& o, env, 1)
  | .ok (.or _ _ _ _) => (c ||| o, env, 1)
  | .ok (.xor _ _ _ _) => (c ^^^ o, env, 1)
  | .ok (.min t _ _ _) => int t fun x y => if laneInt t x ≤ laneInt t y then x else y
  | .ok (.max t _ _ _) => int t fun x y => if laneInt t x ≤ laneInt t y then y else x
  | .ok (.fadd t _ _ _) => arith t fun x y => Num.add x y rm
  | .ok (.fmul t _ _ _) => arith t fun x y => Num.mul x y
  | .ok (.fmin t _ _ _) => choice t Num.fmin
  | .ok (.fmax t _ _ _) => choice t Num.fmax
  | _ => (o, env, 1)

/-- What is added to the arrival cycle of a token that begins a run, until its replica has written the identity (R361). -/
def unseen : Nat := 2 ^ 64

/-- Cycles between two elements of a clone (R7). -/
def cloneHop (a b : UnitId) : Nat := ({ src := .elem a.core a.ix 0, dst := .elem b.core b.ix 0, launch := 0 } : Edge).latency

/-- The replica of the next token (R360). -/
def dealTo (x : Launch) (n : Nat) (t : Token) : Nat :=
  let o := x.op n
  if o.cls = 1 then
    let b := opRecord x n
    let hi := rd x.object (b + 2) 1
    let lo := rd x.object (b + 3) 1
    t.payload.toNat / 2 ^ lo % 2 ^ (hi + 1 - lo) % max 1 o.nrep
  else o.dealt / max 1 o.drun % max 1 o.nrep

/-- Replicas of an operator, or its own element. -/
def Op.workers (o : Op) : List (Nat × Nat) := o.host :: o.reps

/-- A replica's coordinate. -/
def Op.replica (o : Op) (i : Nat) : Nat × Nat := if i = 0 ∨ i = 8 then o.host else o.reps.getD (i - 1) o.host

/-- Where the receiver of an edge between a clone's elements stands (R169, R359): it takes a token, its overflow ring takes it, or it waits. -/
inductive Passage where
  | channel
  | ring
  | notice
  | wait
deriving DecidableEq, Repr

/-- An edge between two of a clone's elements: `held` is the cycle from which its token has waited, 0 once the notice of a full ring is given.
Between cores it spills as R169 has it. -/
def passage (cyc : Nat) (room far : Bool) (c : InChan) (held : Option Nat) : Passage :=
  if c.ring.isEmpty && room then .channel
  else if far && (!c.ring.isEmpty || held.any fun h => h + 1024 ≤ cyc) then
    if c.ring.length < 64 then .ring else if held = some 0 then .wait else .notice
  else .wait

/-- What a clone's edge remembers while its token waits. -/
def keepHeld (t : Tbl Nat) (i cyc : Nat) : Tbl Nat := if (tfind t i).isSome then t else tput t i cyc

/-- The cycle in which a spilled token has reached its ring, and what is added to it for the token that begins a run. -/
def Spilled.ready (t : Spilled) : Nat := if t.at_ ≥ unseen then t.at_ - unseen else t.at_
def Spilled.mark (t : Spilled) : Nat := if t.at_ ≥ unseen then unseen else 0

/-- A channel takes the oldest token of its ring before any that arrives directly (R169). -/
def takeDealt (s : State) (u : UnitId) (ch : Nat) : State :=
  let e := getElem s u
  let c := e.inCh ch
  match c.ring with
  | t :: ts =>
    if t.ready ≤ s.cycle ∧ e.run ≠ 0 ∧ c.room s.cycle then
      raiseClock (setElem s u (e.setIn ch { c with ring := ts, q := c.q ++ [⟨t.tok, s.cycle + 1 + t.mark⟩] })) u.core t.ts
    else s
  | [] => s

/-- A token enters the channel of one of a clone's elements, or its ring: `mark` is added to the cycle in which it is seen. -/
def passToken (s : State) (a u : UnitId) (ch : Nat) (t : Token) (lat mark : Nat) (ring : Bool) : State :=
  let ts := (getCore s a.core).clock
  let e := getElem s u
  let c := e.inCh ch
  if ring then setElem s u (e.setIn ch { c with ring := c.ring ++ [⟨t, ts, s.cycle + lat + mark⟩] })
  else
    let s := setElem s u (e.setIn ch { c with q := c.q ++ [⟨t, s.cycle + lat + mark⟩] })
    if a.core = u.core then s else raiseClock s u.core ts

/-- The dealer sends at most one token on. -/
def dealOne (s : State) (l n : Nat) : State :=
  let x := getLaunch s l
  let o := x.op n
  match o.dealer with
  | none => s
  | some d =>
    let D := x.unit d
    let de := getElem s D
    match (de.inCh 0).head s.cycle with
    | none => s
    | some t =>
      let i := dealTo x n t
      let v := x.unit (o.replica i)
      let ch := (writtenPorts x n).1
      let note (f : Tbl Nat → Tbl Nat) (s : State) : State := setLaunch s l (x.setOp n fun o => { o with dealHeld := f o.dealHeld })
      if de.run ≠ 1 ∨ o.between.length ≥ 64 then s
      else
        let mark := if o.cls = 2 && o.dealt % max 1 o.drun = 0 then unseen else 0
        let ends := o.cls ≠ 1 && (o.dealt + 1) % max 1 o.drun = 0
        let pass (ring : Bool) : State :=
          let s := setElem s D (de.setIn 0 ({ de.inCh 0 with reserved := 1 }.remove s.cycle))
          let s := passToken s D v ch t (cloneHop D v) mark ring
          setLaunch s l (x.setOp n fun o => { o with dealt := o.dealt + 1, between := o.between ++ [(i, ends)], dealHeld := tdel o.dealHeld i })
        match passage s.cycle (inputRoom s v.core v.ix ch) (v.core ≠ D.core) ((getElem s v).inCh ch) (tfind o.dealHeld i) with
        | .channel => pass false
        | .ring => pass true
        | .notice => ringFull (note (tput · i 0) s) v.core v.ix ch
        | .wait => note (keepHeld · i s.cycle) s

/-- A replica whose head token begins a run writes the identity into D15; the token is visible a cycle later. It does not write over a sum
that it has still to emit (DEDUCED from R361 and R366, log entry 48). -/
def beginRuns (s : State) (l n : Nat) : State :=
  let x := getLaunch s l
  let o := x.op n
  if o.cls ≠ 2 then s
  else
    let (ch, out) := writtenPorts x n
    (o.host :: o.reps).foldl (fun s p =>
      let u := x.unit p
      let e := getElem s u
      let c := e.inCh ch
      match c.q with
      | a :: rest =>
        if c.reserved = 0 ∧ a.seen ≥ unseen ∧ a.seen - unseen ≤ s.cycle ∧ e.run = 1 ∧ owedOutputs e ch out = 0 then
          let e := e.setIn ch { c with q := { a with seen := s.cycle + 1 } :: rest }
          setElem s u (e.setD 15 (.ofNat 128 (rd x.object (opRecord x n + 0x10) 16)))
        else s
      | [] => s) s

/-- A replica's output goes to the joiner's channel for it. -/
def feedJoiner (s : State) (l n i : Nat) : State :=
  let x := getLaunch s l
  let o := x.op n
  match o.joiner with
  | none => s
  | some j =>
    let J := x.unit j
    let v := x.unit (o.replica i)
    let out := (writtenPorts x n).2
    let s := takeDealt s J i
    let je := getElem s J
    let note (f : Tbl Nat → Tbl Nat) (s : State) : State := setLaunch s l (x.setOp n fun o => { o with joinHeld := f o.joinHeld })
    match outHead s v out with
    | none => s
    | some (t, p) =>
      if (getElem s v).run = 3 then s
      else match passage s.cycle (je.run ≠ 0 && (je.inCh i).room s.cycle) (v.core ≠ J.core) (je.inCh i) (tfind o.joinHeld i) with
        | .channel => note (tdel · i) (passToken (popOut s v out) v J i t (p.since + cloneHop v J - s.cycle) 0 false)
        | .ring => note (tdel · i) (passToken (popOut s v out) v J i t (cloneHop v J) 0 true)
        | .notice => ringFull (note (tput · i 0) s) J.core J.ix (Fin.ofNat 4 i)
        | .wait => note (keepHeld · i s.cycle) s

/-- The joiner takes the next token in the order of the tokens that were dealt, and emits it. -/
def joinOne (s : State) (l n : Nat) : State :=
  let x := getLaunch s l
  let o := x.op n
  match o.joiner, o.between with
  | some j, (i, ends) :: rest =>
    let J := x.unit j
    let je := getElem s J
    let ch := i % 8
    match (je.inCh ch).head s.cycle with
    | none => s
    | some t =>
      let combines : Bool := o.cls = 2 && i ≠ 8
      if je.run ≠ 1 ∨ !(je.outCh 0).free s.cycle ∨ (combines ∧ s.cycle < o.carryAt) then s
      else
        let (y, env, lat) : Quad × Num.Env × Nat :=
          if combines then combineTokens (rd x.object (opRecord x n + 0xC) 4) je.rm o.carry t.payload { flags := 0, sr := je.srstate }
          else (t.payload, { flags := 0, sr := je.srstate }, 1)
        let je := je.setIn ch ({ je.inCh ch with reserved := 1 }.remove s.cycle)
        let je := { je with fpflg := mergeFlags je.fpflg env.flags, srstate := env.sr, tickets := je.tickets + 1 }
        let c := je.outCh 0
        let p : OutPos := { ticket := je.tickets, tok := some ⟨y, t.tag⟩, since := s.cycle + lat, ts := (getCore s J.core).clock }
        let s := setElem s J (je.setOut 0 { c with q := c.q ++ [p] })
        setLaunch s l (x.setOp n fun o =>
          { o with between := rest, carry := if combines ∧ ends then y else o.carry, last := if combines then y else o.last,
                   carryAt := if combines ∧ ends then s.cycle + lat else o.carryAt })
  | _, _ => s

/-- Whether a clone's element has behind it all that its dealer or its replicas send before the marker of a cut (R382, R383). -/
def cloneSettled (s : State) (x : Launch) (u : UnitId) : Bool :=
  let here (e : Elem) (ch : Nat) : Bool :=
    (e.inCh ch).q.all (fun a => (if a.seen ≥ unseen then a.seen - unseen else a.seen) ≤ s.cycle) && (e.inCh ch).ring.all (·.ready ≤ s.cycle)
  (List.range x.ops.length).all fun n =>
    let o := x.op n
    let frozen (c : Nat × Nat) : Bool := (getElem s (x.unit c)).run = 3
    let reps := o.host :: o.reps
    if o.mode ≠ 1 then true
    else if reps.any fun c => x.unit c = u then o.dealer.all frozen && here (getElem s u) (writtenPorts x n).1
    else if o.joiner.any fun c => x.unit c = u then reps.all frozen && (List.range 8).all (here (getElem s u))
    else true

/-- A cycle of every clone; a clone that an unclone has gated deals no more. -/
def runClones (s : State) : State :=
  s.launches.foldl (fun s e =>
    if e.2.stage ≠ .running then s
    else (List.range e.2.ops.length).foldl (fun s n =>
      let x := getLaunch s e.1
      if (x.op n).mode ≠ 1 then s
      else
        let ch := (writtenPorts x n).1
        let s := (x.op n).workers.foldl (fun s c => takeDealt s (x.unit c) ch) s
        let s := joinOne ((List.range (x.op n).workers.length).foldl (fun s i => feedJoiner s e.1 n i) (beginRuns s e.1 n)) e.1 n
        if x.rewire.any fun r => r.kind = 2 && r.opa = n then s else dealOne s e.1 n) s) s

end Sys2Proof.Machine
end

