-- ==== Sys2Proof/Machine/Kerf.lean ====
section
/-! DEFINITION. The kerf (R381 to R397): gating, freezing, the save points of the engines, the cut with its save image, and
the restoration of a Suspended launch. -/

namespace Sys2Proof.Machine

open Sys2Proof

/-! ## Beginning (R381) -/

/-- A reply of a walk is on its way into its input: some of its tokens have been delivered and some have not (R221). -/
def midReply (s : State) (core : Nat) : Bool :=
  let c := getCore s core
  let ts := (tget {} c.engOut 16 : EngOut).toks
  let n := (ts.takeWhile (·.walk.isNone)).length + 1
  match ts.findSome? (·.walk) with
  | some slot =>
    (match tfind c.walks slot with
      | some w => n < (w.incoming.length + 15) / 16
      | none => false)
  | none => false

/-- A token source of a launch that a kerf gates: engine outputs and host ingress. -/
def sourceEdge (e : Edge) : Bool := match e.src with | .eng _ _ | .ingress _ _ => true | .elem _ _ _ => false

/-- The source is gated with its marker behind the last token it delivered; a reply that has begun is finished first. -/
def gateSources (s : State) (l : Nat) : State :=
  { s with edges := s.edges.map fun e =>
      let late : Bool := match e.src with | .eng k 16 => midReply s k | _ => false
      if e.launch = l ∧ sourceEdge e ∧ !e.gated ∧ !late then { e with gated := true, marker := true } else e }

/-- A kerf of a Running launch begins; a rewire that has not moved is abandoned (R366). -/
def beginKerf (s : State) (l : Nat) (status : Cause) : State :=
  let x := getLaunch s l
  if x.stage = .running ∧ x.kerf.isNone then
    let s := abandonRewire s l 8
    let x := getLaunch s l
    gateSources (setLaunch s l { x with kerf := some { begun := s.cycle, status := status } }) l
  else s

/-- KERF_BEGIN (R348, R381). -/
def execKerfBegin (l : Nat) (s : State) : Outcome := .next (beginKerf s l 0)

/-! ## Freezing (R383, R384) -/

/-- The launch of a core with a kerf in progress. -/
def kerfOf (s : State) (core : Nat) : Option (Nat × Launch) :=
  match (getCore s core).launch with
  | some l =>
    let x := getLaunch s l
    if x.kerf.isSome then some (l, x) else none
  | none => none

/-- Gates the edges that leave a frozen element, each with a marker behind the tokens of its output channel. -/
def markOutputs (s : State) (u : UnitId) : State :=
  { s with edges := s.edges.map fun e =>
      match e.src with
      | .elem c i _ => if c = u.core ∧ i = u.ix ∧ !e.gated then { e with gated := true, marker := true } else e
      | _ => e }

/-- Whether an element can freeze for its launch's kerf now. -/
def canFreeze (s : State) (u : UnitId) : Bool :=
  match kerfOf s u.core with
  | some (_, x) =>
    let e := getElem s u
    u.ix < ceIx && (e.run = 1 || e.run = 2) && e.flights.isEmpty && allMarked s u (fun a => !a.back) && cloneSettled s x u
  | none => false

/-- ELEMENT_FREEZE (R383). -/
def execElementFreeze (u : UnitId) (s : State) : Outcome :=
  if canFreeze s u then
    let e := getElem s u
    .next (markOutputs (setElem s u { e.setRun 3 with wasStopped := e.run = 2 }) u)
  else .next s

/-- Whether a control element can freeze now. -/
def canFreezeCe (s : State) (core : Nat) : Bool :=
  let e := getElem s ⟨core, ceIx⟩
  (kerfOf s core).isSome && e.run = 1 && e.flights.isEmpty && (getCtl s core).own.isNone

/-- CE_FREEZE (R384): a sleep goes on sleeping. -/
def execCeFreeze (core : Nat) (s : State) : Outcome :=
  if canFreezeCe s core then
    let u : UnitId := ⟨core, ceIx⟩
    .next (setElem s u ((getElem s u).setRun 3))
  else .next s

/-! ## Save points of the engines (R196, R225, R260, R274, R381) -/

/-- The engines of a core that save: stream engines, matrix node, copy engine, partition network, intersection unit, adit. -/
def savingPorts : List Nat := [0, 1, 2, 3, 4, 5, 6, 7, 12, 13, 14, 15, 16]

/-- A walk that stands at a rule boundary, or has ended and has not begun to deliver its reply. -/
def walkAtRest (w : Walk) : Bool := w.waiting = 0 || ((w.waiting = 3 || w.waiting = 5) && !w.rmode)

/-- A walk that has ended stays so, its reply undelivered (R225, log entry 18). -/
def restWalk (w : Walk) : Walk := if w.waiting = 5 then { w with waiting := 3 } else w

/-- Token codes of the operations that a kerf cuts: the products, MPOLY, MITER.NS and MITER.GEN (R260, R274). -/
def cuttable (code : Nat) : Bool := ([0x01, 0x02, 0x03, 0x04, 0x05, 0x09, 0x10, 0x11, 0x12] : List Nat).contains code

/-- The code of the token at the head of a matrix node's queue. -/
def headCode (s : State) (core : Nat) : Nat := ((headCmd s core 12).map fun m => (pw m.packet 0).toNat % 256).getD 0

/-- The node has begun the token at its head; a cooperative product has not while it waits for its partners. -/
def mnBegun (s : State) (core : Nat) : Bool := let n := getMn s core; n.active && (headCode s core ≠ 5 || n.matched)

/-- A part of a cooperative product stands behind the furthest of its partners, or one of them has ended: all are cut at one block (R260). -/
def coopBehind (s : State) (core : Nat) : Bool :=
  let ks := coopPartners s core
  let begun (k : Nat) : Nat := let n := getMn s k; n.next + n.part.toNat
  (getMn s core).matched && (ks.length < 15 || ks.any fun k => (getMn s core).next < begun k)

/-- The node has not come to the point where a kerf cuts what it runs (R260, R274). -/
def mnGoesOn (s : State) (core : Nat) : Bool :=
  let n := getMn s core
  mnBegun s core && n.stopped = 0 && (n.part || n.tolerance || !cuttable (headCode s core) || coopBehind s core)

/-- Whether an engine is at a save point. -/
def atSavePoint (s : State) (core port : Nat) : Bool :=
  if port = 12 then !mnGoesOn s core
  else if port = 16 then !midReply s core && (getCore s core).walks.all fun w => walkAtRest w.2
  else true

/-- What an engine has read ahead of its position is discarded, with what it has not delivered (R196). -/
def dropAhead (s : State) (core port : Nat) : State :=
  let e := getEng s core port
  let c := getCore s core
  let e := if e.state = 1 then { e with tail := [], final := none, cause := 0, addr := 0 } else { e with tail := [] }
  setFetches (setEng (setCore s core { c with engOut := tdel c.engOut port }) core port e) core port []

/-- ENGINE_SAVE. -/
def execEngineSave (core port : Nat) (s : State) : Outcome :=
  if (kerfOf s core).isSome ∧ savingPorts.contains port ∧ !(getCore s core).engSaved.contains port ∧ atSavePoint s core port then
    let s := if port = 12 then dropLines (setMn s core { getMn s core with undo := none }) core
      else if port = 16 then
        let c := getCore s core
        setCore s core { c with engOut := tdel c.engOut 16, walks := c.walks.map fun w => (w.1, restWalk w.2) }
      else dropAhead s core port
    let c := getCore s core
    .next (setCore s core { c with engSaved := c.engSaved ++ [port] })
  else .next s

/-! ## The save image (R386 to R394) -/

/-- The n bytes from an address on of a sparse list that begins there or later. -/
def dense (t : Tbl Byte) (a : Nat) : Nat → List Byte
  | 0 => []
  | n + 1 =>
    match t with
    | (k, v) :: rest => if k = a then v :: dense rest (a + 1) n else 0 :: dense t (a + 1) n
    | [] => 0 :: dense [] (a + 1) n

/-- Bytes of a sparse list, nothing where it is empty. -/
def block (off : Nat) (t : Tbl Byte) (n : Nat) : List (Nat × List Byte) := if t.isEmpty then [] else [(off, dense t 0 n)]

/-- Channel states: counts, tags, and payloads. -/
def inToks (e : Elem) (n : Nat) : List Token := ((e.inCh n).q.take 4).map (·.tok)
def outToks (e : Elem) (n : Nat) : List Token := (e.outCh n).q.filterMap (·.tok)

def chst (e : Elem) : List Byte :=
  (List.range 4).map (fun n => .ofNat 8 (inToks e n).length) ++ (List.range 4).map (fun n => .ofNat 8 (outToks e n).length)
    ++ (List.range 4).flatMap (fun n => (List.range 4).map fun k => .ofNat 8 ((((inToks e n)[k]?).map (·.tag.toNat)).getD 0))
    ++ (List.range 4).flatMap (fun n => (List.range 2).map fun k => .ofNat 8 ((((outToks e n)[k]?).map (·.tag.toNat)).getD 0))

def payloads (ts : List Token) (n : Nat) : List Byte :=
  (List.range n).flatMap fun k => leBytes 16 (((ts[k]?).map (·.payload.toNat)).getD 0)

/-- The run state an image reads. -/
def imageEstat (e : Elem) : Word := (e.setRun (if e.wasStopped then 2 else 1)).estat

/-- An element image (R388). -/
def elemImage (e : Elem) : List (Nat × List Byte) :=
  let pend := e.pendD.toNat + e.pendA.toNat * 2 ^ 16 + e.pendP.toNat * 2 ^ 20 + e.pendLane.toNat * 2 ^ 28
  [(0, leBytes 4 (imageEstat e).toNat ++ leBytes 4 e.sloten.toNat ++ leBytes 4 e.fpctl.toNat ++ leBytes 4 e.fpflg.toNat
      ++ leBytes 4 e.srstate.toNat ++ leBytes 4 pend ++ [e.p] ++ List.replicate 7 0
      ++ (List.range 4).flatMap (fun n => leBytes 4 (e.areg n).toNat) ++ (List.range 16).flatMap (fun n => leBytes 16 (e.dreg n).toNat)),
   (0x130, (List.range 32).flatMap fun n => leBytes 4 (e.slot n).toNat),
   (0x1B0, (List.range 64).flatMap fun n => leBytes 8 (e.trigger n).toNat),
   (0x3B0, chst e),
   (0x3D0, (List.range 4).flatMap fun n => payloads (inToks e n) 4),
   (0x4D0, (List.range 4).flatMap fun n => payloads (outToks e n) 2)] ++ block 0x580 e.lane 8192

/-- The control element's system record (R389). -/
def systemRecord (s : State) (core : Nat) : List Byte :=
  let c := getCore s core
  let x := c.ctl
  let reg (n k : Nat) : List Byte := leBytes k (readSysReg s core n).toNat
  let (m, left) : Nat × Nat := match x.sleep with
    | some z => (16 + z.mask.toNat, match z.limit with | some t => t - s.cycle | none => 0)
    | none => (0, 0)
  leBytes 4 x.pc ++ reg 1 4 ++ reg 2 4 ++ reg 4 4 ++ reg 0 8 ++ reg 3 8 ++ reg 5 8 ++ reg 9 4 ++ leBytes 4 m ++ leBytes 8 left
    ++ leBytes 8 c.clock.toNat ++ reg 6 4

/-- A trap-queue entry. -/
def trapEntryBytes (t : TrapEntry) : List Byte :=
  leBytes 8 ((ecauseWord t.kind t.src t.cause t.repeats t.deferred).toNat + 2 ^ 63) ++ leBytes 8 t.addr.toNat

/-- Keyed things in the order of their keys, those of one key as they come. -/
def ordered {α : Type} (xs : List (Nat × α)) : List (Nat × α) :=
  let rec add (x : Nat × α) : List (Nat × α) → List (Nat × α)
    | [] => [x]
    | y :: ys => if x.1 < y.1 then x :: y :: ys else y :: add x ys
  xs.foldl (fun l x => add x l) []

/-- A core's queued traps in the order of their arrival. -/
def arrivalOrder (q : List TrapEntry) : List TrapEntry := (ordered (q.map fun t => (t.since * 256 + t.rank, t))).map (·.2)

/-- A barrier. -/
def barBytes (b : Barrier) : List Byte := leBytes 8 (b.expected % 4096 + b.arrived % 4096 * 2 ^ 16 + b.phase.toNat * 2 ^ 32)

/-- The DST code of a wait's destination. -/
def sinkCode : Sink → Nat
  | .d n => n.val
  | .out c _ _ => 16 + c.val
  | .pair n => n.val
  | .word (some n) => n.val
  | _ => 0x1F

/-- A wait record: the word, DST, and lane 0 of both operands as read at firing. -/
def waitRecord (word : Word) (k : Sink) (a b : Nat) : List Byte :=
  leBytes 4 word.toNat ++ [.ofNat 8 (sinkCode k), 1, 0, 0] ++ leBytes 8 a ++ leBytes 8 b ++ List.replicate 8 0

/-- A request that waits for a monitor (R161). -/
def monitorReq (r : Req) : Bool := r.op = .monitor && r.parts.all fun p =>
  p.phase = .done || (match p.home, p.phase with | .remote _, .travelling _ => true | _, _ => false)

/-- A wait of the core's own units that a cut records: a wait that nobody can observe is dropped (R385), and a release stays. -/
def Wait.recorded (w : Wait) : Bool :=
  w.remote.isNone && w.peer.isNone && (w.sink ≠ .nul || match w.kind with | .arrive _ _ _ | .signal _ _ _ => true | _ => false)

/-- The waits and monitors of an issuer in firing order: whether it is a monitor, and its number (R390). -/
def waitOrder (c : Core) (ms : List (Nat × Req)) (unit : Nat) : List (Bool × Nat) :=
  (ordered (((ms.filter fun r => r.2.unit = unit && r.2.sink ≠ .nul).map fun r => (2 * r.2.place, (true, r.1)))
    ++ (c.waits.filter fun w => w.2.unit = unit && w.2.recorded).map fun w => (2 * w.1 + 1, (false, w.1)))).map (·.2)

/-- The monitors of a core that are armed. -/
def coreMonitors (s : State) (core : Nat) : List (Nat × Req) := s.reqs.filter fun r => r.2.core = core && monitorReq r.2

/-- The wait records of an issuer; a control element's sleep is its last. -/
def waitRecords (s : State) (core unit : Nat) : List Byte :=
  let c := getCore s core
  let rs := (waitOrder c (coreMonitors s core) unit).filterMap fun k =>
    if k.1 then (tfind s.reqs k.2).map fun r => waitRecord r.word r.sink r.opa.toNat r.opb.toNat
    else (tfind c.waits k.2).map fun w => waitRecord w.word w.sink w.opa.toNat w.opb.toNat
  let zs := match c.ctl.sleep with
    | some z => if unit = ceIx ∧ z.sink ≠ .nul then [waitRecord (fetchWord s core (c.ctl.pc - 4)) z.sink z.mask.toNat ((z.limit.map (· - z.since)).getD 0)] else []
    | none => []
  ((rs ++ zs).take 24).flatten

/-- The byte by which an image names an issuer; that of a unit of another core is the place of that unit (log entry 18). -/
def issuerByte (n : Nat) : Byte := .ofNat 8 (if n < 1000 then n else (n - 1000) % 100)

/-- A queue entry. -/
def cmdBytes (m : Cmd) : List Byte :=
  [1, issuerByte m.unit, .ofNat 8 (m.packet.length - 1), .ofNat 8 (match m.creg with | some r => 16 + r.val | none => 0), 0, 0, 0, 0]
    ++ leBytes 8 m.tlNum.toNat ++ (List.range 8).flatMap fun i => leBytes 16 (pw m.packet i).toNat

/-- Words of an incomplete command at the copy engine's edge port (R205): an entry that is not valid. -/
def partBytes (ws : List Quad) : List Byte :=
  [0, 65, .ofNat 8 ws.length, 0, 0, 0, 0, 0] ++ leBytes 8 0 ++ (List.range 8).flatMap fun i => leBytes 16 (pw ws i).toNat

/-- The 32 entries of a queue (R390). -/
def queueBytes (c : Core) (port : Nat) (q : Queue) : List Byte :=
  (q.q.take 32).flatMap cmdBytes ++ if port = 13 ∧ !c.cpEdge.isEmpty ∧ q.q.length < 32 then partBytes c.cpEdge else []

/-- A memory port: issuer records, then repair entries (R391). -/
def portImage (s : State) (p : Port) : List (Nat × List Byte) :=
  (p.issuers.filter (·.1 ≤ ceIx)).map (fun i => (16 * i.1, leBytes 4 i.2.open_ ++ leBytes 4 i.2.acked
      ++ leBytes 4 (i.2.last.toNat / 2 ^ 32 % 2 ^ 28) ++ [.ofNat 8 i.2.lost.toNat]))
    ++ p.repairs.map fun r => (0x410 + 48 * r.1, leBytes 8 r.2.va ++ leBytes 16 r.2.data.toNat
      ++ leBytes 4 (((tfind s.reqs r.2.req).map (·.word.toNat)).getD 0) ++ [.ofNat 8 r.2.unit, .ofNat 8 r.2.state] ++ leBytes 2 r.2.cause)

/-- The bytes of a running command: a stream engine's is the STREAM entry with BASE as bound (R392). -/
def commandBytes (c : Core) (port : Nat) (e : Engine) (m : Cmd) : List Byte :=
  if port < 8 then patch (c.streams.getD e.pat []) 8 (leBytes 8 e.base)
  else (List.range 8).flatMap fun i => leBytes 16 (pw m.packet i).toNat

/-- An engine block (R392). -/
def engineImage (s : State) (core port : Nat) : List (Nat × List Byte) :=
  let e := getEng s core port
  let gen := if port = 13 then e.gen.toNat else 0
  match e.state, headCmd s core port with
  | 0, _ | _, none => [(0x20, leBytes 8 gen)]
  | st, some m =>
    [(0, [.ofNat 8 st, issuerByte m.unit, .ofNat 8 (match m.creg with | some r => 16 + r.val | none => 0), 0]
        ++ leBytes 2 (if st = 2 then e.cause else 0) ++ [0, 0] ++ leBytes 8 m.tlNum.toNat ++ leBytes 8 e.count ++ leBytes 8 e.pts.toNat
        ++ leBytes 8 gen ++ leBytes 8 (if port = 13 then e.espf.toNat else 0)),
     (0x40, commandBytes (getCore s core) port e m),
     (0xC0, (List.range 6).flatMap fun i => leBytes 4 (e.pos.getD i 0))]

/-- A walk record (R393). -/
def walkImage (w : Walk) : List Byte :=
  leBytes 8 w.cur.toNat ++ leBytes 16 w.key.toNat ++ w.w.flatMap (fun x => leBytes 8 x.toNat) ++ leBytes 8 w.rbase.toNat
    ++ leBytes 8 w.cmd.tlNum.toNat
    ++ leBytes 8 (w.slim % 2 ^ 13 + w.nrule * 2 ^ 13 + w.skipix * 2 ^ 18 + w.loopix * 2 ^ 23 + w.entry * 2 ^ 28 + w.rmode.toNat * 2 ^ 33
        + w.trapf.toNat * 2 ^ 34 + w.pol * 2 ^ 35)
    ++ leBytes 8 (w.step % 2 ^ 13 + w.rp * 2 ^ 13 + w.eq.toNat * 2 ^ 18 + w.lt.toNat * 2 ^ 19 + w.parked.toNat * 2 ^ 20 + w.skipped.toNat * 2 ^ 21
        + w.rload * 2 ^ 22 + w.slice * 2 ^ 30 + w.cause * 2 ^ 39 + (issuerByte w.cmd.unit).toNat % 128 * 2 ^ 49 +
        (match w.cmd.creg with | some r => r.val * 2 ^ 56 + 2 ^ 60 | none => 0))
    ++ leBytes 8 w.pts.toNat ++ w.record ++ w.rules.flatMap fun x => leBytes 4 x.toNat

/-- The token of the operation that is cut. -/
def cutToken (s : State) (core : Nat) : Nat :=
  if mnBegun s core then ((headCmd s core 12).map fun m => (pw m.packet 0).toNat).getD 0 else 0

/-- An operation of the resident-tile forms is cut: only then are FBUF and GRM in use (R274). -/
def formCut (s : State) (core : Nat) : Bool := mnBegun s core && 0x10 ≤ headCode s core && headCode s core ≤ 0x14

/-- The first nonzero cause of pending CHAIN states, and their flags (R394). -/
def chainState (n : Node) : Nat × Nat :=
  ((n.chains.findSome? fun c => if c.2.1 ≠ 0 then some c.2.1 else none).getD 0, (n.chains.foldl (fun (f : BitVec 7) c => f ||| c.2.2) 0).toNat)

/-- The matrix-node registers (R394), the iteration image (R274) and the banks. -/
def nodeImage (s : State) (core : Nat) : List (Nat × List Byte) :=
  let n := (getCore s core).mn
  let (c, f) := chainState n
  let stop := (if n.stopped = 2 then 2 else if n.stopped ≠ 0 then 1 else 0) + 4 * (mnBegun s core).toNat
  [(0xC5280, (List.range 16).flatMap (fun i => leBytes 32 (tget 0 n.md i : BitVec 256).toNat) ++ (List.range 16).flatMap (fun i => leBytes 4 (tget 0 n.mc i : Word).toNat)
      ++ (List.range 96).flatMap (fun i => leBytes 4 (tget 0xff800000 n.rmx i : Word).toNat) ++ (List.range 96).flatMap (fun i => leBytes 4 (tget 0 n.rsm i : Word).toNat)
      ++ leBytes 4 n.flg.toNat ++ leBytes 4 n.gen.toNat ++ [.ofNat 8 (n.mode0 + 4 * n.mode1), .ofNat 8 stop]
      ++ leBytes 2 n.cause ++ leBytes 4 0 ++ leBytes 8 n.tokens),
   (0xC5280 + 0x560, leBytes 16 (cutToken s core) ++ leBytes 8 (if formCut s core then 0 else n.next) ++ leBytes 8 (c % 1024 + f * 2 ^ 32)
      ++ leBytes 8 (n.coop.foldl (fun k c => k + c.2) 0)),
   (0xC6280, leBytes 16 (cutToken s core) ++ iterRegs n)]
    ++ (if formCut s core then block 0xC62C0 n.fbuf 61440 ++ block 0xD52C0 n.grm 36864 else [])
    ++ block 0xDE2C0 n.acc0 61440 ++ block 0xED2C0 n.acc1 61440

/-- A core image as pieces (R387); what no piece covers is zero. -/
def coreImage (s : State) (core : Nat) : List (Nat × List Byte) :=
  let c := getCore s core
  let moved (off : Nat) (ps : List (Nat × List Byte)) : List (Nat × List Byte) := ps.map fun p => (off + p.1, p.2)
  (c.elems.flatMap fun e => if e.1 < ceIx then moved (9600 * e.1) (elemImage e.2) else moved 0x96000 (elemImage { e.2 with slots := [], trig := [], sloten := 0 }))
    ++ [(0x98580, systemRecord s core), (0x98600, ((arrivalOrder c.trapq).take 84).flatMap trapEntryBytes),
        (0x98B40, (List.range 16).flatMap fun k => leBytes 8 (c.timeline k).toNat ++ leBytes 8 ((tget 0 c.tlNext k : Dword) + 1).toNat)]
    ++ c.ports.flatMap (fun p => moved (0x98C40 + 2576 * p.1) (portImage s p.2))
    ++ c.bars.map (fun b => (0x9B480 + 8 * b.1, barBytes b.2))
    ++ c.elems.map (fun e => (0x9F480 + 768 * e.1, waitRecords s core e.1))
    ++ c.queues.map (fun q => (0xAB780 + 4608 * q.1, queueBytes c q.1 q.2))
    ++ (List.range 8).flatMap (fun p => moved (0xC3180 + 256 * p) (engineImage s core p))
    ++ moved 0xC3980 (engineImage s core 13) ++ moved 0xC3A80 (engineImage s core 14) ++ moved 0xC3B80 (engineImage s core 15)
    ++ c.walks.map (fun w => (0xC3C80 + 352 * w.1, walkImage w.2))
    ++ nodeImage s core

/-- Whether an address lies in a range. -/
def within_ (a n x : Nat) : Bool := a ≤ x && x < a + n

/-- A range of global memory reads as zero: in DRAM, in what waits for it, and in every cached line. -/
def zeroRange (s : State) (pa n : Nat) : State :=
  let meets (line : Nat) : Bool := line * 128 < pa + n && pa < line * 128 + 128
  let s := (s.slices.map (·.1)).foldl (fun s k =>
    (((getSlice s k).chute.map (·.addr)).filter meets).foldl (fun s a => drainLine s k a) s) s
  let clear (l : Line) : Line :=
    if meets l.addr then
      { l with dirty := true, data := (List.zip (List.range 128) l.data).map fun b => if within_ pa n (l.addr * 128 + b.1) then 0 else b.2 }
    else l
  { s with
    mem := s.mem.filter fun c => !within_ pa n c.1
    slices := s.slices.map fun e => (e.1, { e.2 with lines := e.2.lines.map fun l => (l.1, clear l.2) }) }

/-- The address of an instance's core image (R386). -/
def imageBase (x : Launch) (k : Nat) : Nat := x.save + 4096 * layoutUnits x + 1036288 * k

/-- Writes the image of every core whole. -/
def writeImages (s : State) (x : Launch) : State :=
  let s0 := s
  (List.range x.cores.length).foldl (fun s k =>
    (coreImage s0 (x.core k)).foldl (fun s p => poke s (imageBase x k + p.1) p.2) (zeroRange s (imageBase x k) 1036288)) s

/-! ## The cut (R385) -/

/-- A request of a launch that a kerf does not wait for: held posted updates, armed monitors, and remote-barrier waits. -/
def mayStay (r : Req) : Bool :=
  monitorReq r || (r.update && r.parts.all fun p => p.phase = .repair || p.phase = .done)
    || (match r.sink with | .word _ => r.op = .load | _ => false)

/-- A launch's control element has asked another launch for a rewire and has no answer yet. -/
def asksElsewhere (s : State) (l : Nat) (x : Launch) : Bool :=
  s.asks.any (fun a => x.cores.contains a.1)
    || s.launches.any fun e => e.1 ≠ l && (e.2.rewire.toList ++ e.2.waitingRewires).any fun r => r.asker.any fun a => x.cores.contains a.1

/-- The conditions of R385. -/
def cutReady (s : State) (l : Nat) (x : Launch) : Bool :=
  x.cores.all (fun core =>
    let c := getCore s core
    c.elems.all (fun e => e.2.run = 3) && savingPorts.all (fun p => c.engSaved.contains p) && c.comps.all (·.2.isEmpty)
      && (tget {} c.engines fabricPort : Engine).state = 0)
    && s.edges.all (fun e => e.launch ≠ l || (e.gated && !e.marker))
    && !asksElsewhere s l x
    && s.reqs.all fun r => !x.cores.contains r.2.core || mayStay r.2

/-- The first deferred trap that a frozen element holds is recorded: its image reads Stopped, and its trap is queued (R385). One that was
Stopped before it froze holds its traps until it runs (R151). -/
def recordHeld (s : State) (u : UnitId) : State :=
  let e := getElem s u
  match e.held with
  | h :: hs =>
    if isCe u ∨ e.wasStopped then s
    else
      let s := trapUnit (setElem s u { e with held := hs }) u h.slot h.word h.cause h.addr 0 true
      setElem s u { (getElem s u).setRun 3 with wasStopped := true }
  | [] => s

/-- A remote-barrier wait as the command that asked for it (R168). -/
def waitPacket (home bar ph : Nat) : Quad := .ofNat 128 (2 + bar * 2 ^ 10 + home * 2 ^ 21 + ph * 2 ^ 44)

/-- The waits at barriers of this module that a core's commands have begun, by home core and number. -/
def remoteWaits (s : State) (core : Nat) : List (Nat × Nat × Cmd) :=
  s.cores.flatMap fun h => h.2.waits.filterMap fun w =>
    match w.2.remote, w.2.kind with
    | some (k, u, r), .barFull b ph _ =>
      if k = core then
        some (h.1, w.1, { unit := u, slot := w.2.slot, packet := [waitPacket h.1 b ph.toNat], sig := false, creg := r, pts := (getCore s core).clock })
      else none
    | _, _ => none

/-- Remote-barrier waits stand in their queue again, ahead of what waits there. -/
def requeueWaits (s : State) (core : Nat) : State :=
  let ws := remoteWaits s core
  let rs := s.reqs.filter fun r => r.2.core = core && (match r.2.sink with | .word _ => r.2.op = .load | _ => false)
  let cmds := ws.map (·.2.2) ++ rs.map fun r =>
    ({ unit := r.2.unit, slot := r.2.slot, packet := r.2.parts.map (·.data), sig := false,
       creg := (match r.2.sink with | .word c => c | _ => none), pts := r.2.pts } : Cmd)
  let s := ws.foldl (fun s w => let c := getCore s w.1; setCore s w.1 { c with waits := tdel c.waits w.2.1 }) s
  let s := { s with reqs := s.reqs.filter fun r => !(rs.any (·.1 = r.1)) }
  let c := getCore s core
  let q := c.queue 19
  setCore s core (c.setQueue 19 { q with q := cmds ++ q.q })

/-- Units of other cores by which a core knows its issuers are named by other cores' numbers (R365). -/
def Core.renumber (f : Nat → Nat) (c : Core) : Core :=
  let no (n : Nat) : Nat := if n < 1000 then n else 1000 + 100 * f ((n - 1000) / 100) + (n - 1000) % 100
  { c with
    waits := c.waits.map fun w => (w.1, { w.2 with movedTo := w.2.movedTo.map fun u => ⟨f u.core, u.ix⟩ })
    queues := c.queues.map fun q => (q.1, { q.2 with q := q.2.q.map fun m => { m with unit := no m.unit } })
    walks := c.walks.map fun w => (w.1, { w.2 with cmd := { w.2.cmd with unit := no w.2.cmd.unit } }) }

/-- A core as it is kept with its image: waits whose results nobody sees are dropped, times are counted from the cut. -/
def keptCore (s : State) (core : Nat) : Core :=
  let c := getCore s core
  { c with
    waits := c.waits.filter fun w => w.2.recorded || w.2.remote.isSome || w.2.peer.isSome
    ctl := { c.ctl with sleep := c.ctl.sleep.map fun z => { z with limit := z.limit.map (· - s.cycle) } }
    trapq := (arrivalOrder c.trapq).map fun t => { t with krf := true }
    ports := c.ports.map fun p => (p.1, { p.2 with dirty := [], walkDirty := none, tlb := [] })
    mn := { c.mn with coopSince := none, matched := false, busy := 0, base := 0, work := 0 }
    engSaved := [], detect := [] }

/-- A matrix node whose operation goes with its launch: it is idle, and its registers and banks stand (R270, R274). -/
def Node.released (n : Node) : Node :=
  { n with
    active := false, next := 0, count := 0, opFlags := 0, opBytes := 0, tolerance := false, matched := false, coopSince := none,
    stopped := 0, cause := 0, addr := 0, part := false, busy := 0, base := 0, work := 0, col := 0, undo := none, chains := [],
    itstat := n.itstat &&& ~~~0x100 }

/-- An endpoint with its core renamed. -/
def endpointOn (f : Nat → Nat) : Endpoint → Endpoint
  | .elem c e o => .elem (f c) e o
  | .eng c p => .eng (f c) p
  | x => x
def destOn (f : Nat → Nat) : Dest → Dest
  | .elem c e ch => .elem (f c) e ch
  | .mn c => .mn (f c)
  | .cp c => .cp (f c)
  | x => x
def edgeOn (f : Nat → Nat) (e : Edge) : Edge := { e with src := endpointOn f e.src, dst := destOn f e.dst }

/-- What lies in a core's scratchpad. -/
def padOf (s : State) (core : Nat) : Tbl Byte :=
  (s.mem.filter fun c => within_ (cpadPa core 0) 0x60000 c.1).map fun c => (c.1 - cpadPa core 0, c.2)

/-- The cluster blocks of a launch: block, repeat, bytes. -/
def clusOf (s : State) (x : Launch) : List (Nat × Nat × List Byte) :=
  x.blocks.filterMap fun b =>
    match (dataRecs x.object)[b.1]? with
    | some d => if d.space = 2 then some (b.1, b.2.1, Memory.readN s.mem b.2.2 d.size) else none
    | none => none

/-- Whether a physical range lies in a scratchpad or a cluster memory, which a launch gives up with its cores. -/
def onCore (r : Nat × Nat) : Bool := match spaceOf r.1 with | .cpad _ _ | .clus _ _ => true | _ => false

/-- The launch becomes Suspended and gives up its cores. -/
def suspend (s : State) (l : Nat) : State :=
  let x := getLaunch s l
  let ix := instanceOf x
  let ks := List.range x.cores.length
  let foreign (m : Monitor) : Bool := match tfind s.reqs m.req with | some r => !x.cores.contains r.core | none => true
  let held := (s.reqs.filter fun r => x.cores.contains r.2.core && !(monitorReq r.2 && r.2.sink = .nul)).map fun r => (ix r.2.core, r.1, r.2)
  let x' := { x with
    stage := .suspended, kerf := none, imaged := true, cutAt := s.cycle,
    saved := ks.map fun k => (k, (keptCore s (x.core k)).renumber ix), pads := ks.map fun k => (k, padOf s (x.core k)), clus := clusOf s x,
    edges := (s.edges.filter (·.launch = l)).map (edgeOn ix), monitors := held,
    waitingRewires := x.waitingRewires.map fun r => { r with asker := r.asker.map fun a => (if x.cores.contains a.1 then imagedAsker + ix a.1 else a.1, a.2) },
    regions := x.regions.filter (!onCore ·), cores := [], readySince := none }
  let s := { s with
    edges := s.edges.filter (·.launch ≠ l), reqs := s.reqs.filter fun r => !x.cores.contains r.2.core
    slices := s.slices.map fun e => (e.1, { e.2 with monitors := e.2.monitors.filter foreign }) }
  let s := x.cores.foldl (fun s core =>
    let s := leaveCore s core
    let c := getCore s core
    setCore s core { freshCore c l 0 with launch := none, mn := c.mn.released }) s
  setLaunch s l x'

/-- A slice under the save area has failed: the image cannot be written (R415). -/
def saveLost (s : State) (x : Launch) : Bool :=
  (rangeSlices s.idt x.save (x.save + 4096 * layoutUnits x + 1036288 * x.cores.length - 1)).any fun n => (getSlice s n).failed

/-- CUT_COMPLETE (R385, R386). -/
def execCutComplete (l : Nat) (s : State) : Outcome :=
  let x := getLaunch s l
  match x.kerf with
  | some kf =>
    if cutReady s l x then
      if saveLost s x then .next (failLaunch s l 0x3C2 true 0)
      else
        let s := x.cores.foldl (fun s core => ((getCore s core).elems.map (·.1)).foldl (fun s i => recordHeld s ⟨core, i⟩) s) s
        let s := x.cores.foldl requeueWaits s
        let s := suspend (x.cores.foldl depositCore (writeImages s x)) l
        let s := if kf.status = 0 then s else tellSupervisor (tell s { code := kf.status, handle := l }) x.part kf.status (.ofNat 128 l)
        -- the cores it gives up are there for another launch in this period (R350, log entry 23)
        .next (nextUp s [.launchChoose])
    else .next s
  | none => .next s

/-! ## Restoration (R395) -/

/-- Bytes of an image, as memory holds them now. -/
def imageBytes (s : State) (pa n : Nat) : List Byte := peekAll s n pa n

/-- Tokens of an image replace those kept, one for one. -/
def imageIn (b : List Byte) (n : Nat) (q : List Arrived) (cyc : Nat) : List Arrived :=
  (List.zip (List.range q.length) q).map fun a =>
    if a.1 < 4 then
      { tok := ⟨.ofNat 128 (rd b (0x3D0 + 64 * n + 16 * a.1) 16), .ofNat 3 (rd b (0x3B8 + 4 * n + a.1) 1)⟩,
        seen := if a.2.seen ≥ unseen then a.2.seen else cyc }
    else a.2

def imageOut (b : List Byte) (n : Nat) : Nat → List OutPos → List OutPos
  | _, [] => []
  | k, p :: ps =>
    match p.tok with
    | some _ => { p with tok := some ⟨.ofNat 128 (rd b (0x4D0 + 32 * n + 16 * k) 16), .ofNat 3 (rd b (0x3C8 + 2 * n + k) 1)⟩ } :: imageOut b n (k + 1) ps
    | none => p :: imageOut b n k ps

/-- An element loaded from its image (R388); what no image holds comes with it. -/
def loadElemImage (b : List Byte) (ce : Bool) (cyc : Nat) (e : Elem) : Elem :=
  let pend := rd b 0x14 4
  let e := { e with
    estat := .ofNat 32 (rd b 0 4), fpctl := .ofNat 32 (rd b 8 4), fpflg := .ofNat 32 (rd b 0xC 4), srstate := .ofNat 32 (rd b 0x10 4),
    pendD := .ofNat 16 pend, pendA := .ofNat 4 (pend / 2 ^ 16), pendP := .ofNat 8 (pend / 2 ^ 20), pendLane := pend / 2 ^ 28 % 2 = 1,
    p := .ofNat 8 (rd b 0x18 1), a := (List.range 4).map fun n => (n, .ofNat 32 (rd b (0x20 + 4 * n) 4)),
    d := (List.range 16).map fun n => (n, .ofNat 128 (rd b (0x30 + 16 * n) 16)),
    lane := Memory.writeN [] 0 ((b.drop 0x580).take 8192),
    inq := e.inq.map fun c => (c.1, { c.2 with q := imageIn b c.1 c.2.q cyc }),
    outq := e.outq.map fun c => (c.1, { c.2 with q := imageOut b c.1 0 c.2.q }), unsettled := true }
  if ce then e
  else { e with sloten := .ofNat 32 (rd b 4 4), slots := (List.range 32).map fun n => (n, .ofNat 32 (rd b (0x130 + 4 * n) 4)),
                trig := (List.range 64).map fun n => (n, .ofNat 64 (rd b (0x1B0 + 8 * n) 8)) }

/-- The control element's registers from its system record (R389). -/
def loadSystemRecord (b : List Byte) (cyc : Nat) (x : Ctl) : Ctl :=
  { x with
    pc := rd b 0 4, tvec := .ofNat 32 (rd b 4 4), epc := .ofNat 32 (rd b 8 4), trbase := .ofNat 32 (rd b 0xC 4),
    hnd := rd b 0x10 1 % 2 = 1, msk := rd b 0x10 1 / 2 % 2 = 1, ecause := .ofNat 64 (rd b 0x18 8), eres := rd b 0x20 1 % 2 = 1,
    sccur := .ofNat 64 (rd b 0x28 4), stall := 0,
    sleep := x.sleep.map fun z => { z with limit := if z.limit.isSome then some (cyc + rd b 0x30 8) else none } }

/-- Things of a list, each with its place, taken from an image in place of those kept. -/
def imaged {α : Type} (f : Nat → α → α) (xs : List α) : List α := (numbered xs).map fun p => f p.1 p.2

/-- A queued trap (R390). -/
def loadTrap (b : List Byte) (t : TrapEntry) : TrapEntry :=
  let v := rd b 0 8
  { t with
    cause := v % 1024, src := v / 2 ^ 16 % 64, kind := .ofNat 2 (v / 2 ^ 22), deferred := v / 2 ^ 24 % 2 = 1, repeats := v / 2 ^ 32 % 256
    addr := .ofNat 64 (rd b 8 8) }

/-- A memory port's counts and repair entries (R391). -/
def loadPort (b : List Byte) (p : Port) : Port :=
  { p with
    issuers := (List.range 65).foldl (fun t i =>
      let r := 16 * i
      if (tfind t i).isNone ∧ zeros b r 16 then t
      else tput t i { (tget {} t i : Issuer) with open_ := rd b r 4, acked := rd b (r + 4) 4, last := .ofNat 128 (rd b (r + 8) 4 * 2 ^ 32), lost := rd b (r + 12) 1 % 2 = 1 }) p.issuers
    repairs := p.repairs.map fun r =>
      let o := 0x410 + 48 * r.1
      (r.1, { r.2 with va := rd b o 8, data := .ofNat 128 (rd b (o + 8) 16), unit := rd b (o + 0x1C) 1, state := rd b (o + 0x1D) 1, cause := rd b (o + 0x1E) 2 }) }

/-- The completion register that an image's byte names (R390, R392). -/
def cregOf (v : Nat) : Option (Fin 16) := if v / 16 % 2 = 1 then some (Fin.ofNat 16 v) else none

/-- A queue entry (R390). -/
def loadCmd (b : List Byte) (i : Nat) (m : Cmd) : Cmd :=
  let o := 144 * i
  if i ≥ 32 then m
  else { m with unit := if m.unit < 1000 then rd b (o + 1) 1 else m.unit, creg := cregOf (rd b (o + 3) 1), tlNum := .ofNat 64 (rd b (o + 8) 8),
                packet := (List.range (rd b (o + 2) 1 + 1)).map fun k => .ofNat 128 (rd b (o + 16 + 16 * k) 16) }

/-- The words that the copy engine's edge port held (R205). -/
def loadPart (b : List Byte) (n : Nat) : List Quad :=
  let o := 144 * n
  if n < 32 ∧ rd b o 1 % 2 = 0 then (List.range (rd b (o + 2) 1)).map fun k => .ofNat 128 (rd b (o + 16 + 16 * k) 16) else []

/-- An engine block (R392). -/
def loadEngine (b : List Byte) (port : Nat) (e : Engine) : Engine :=
  let st := rd b 0 1
  let e := if port = 13 then { e with gen := .ofNat 32 (rd b 0x20 8) } else e
  if st = 0 then e
  else { e with state := st, cause := if st = 2 then rd b 4 2 else 0, count := rd b 0x10 8, pts := .ofNat 48 (rd b 0x18 8),
                espf := if port = 13 then .ofNat 7 (rd b 0x28 8) else e.espf, base := if port < 8 then rd b 0x48 8 else e.base,
                pos := (List.range e.pos.length).map fun i => rd b (0xC0 + 4 * i) 4 }

/-- A walk record (R393); a rule pointer past the last rule comes with it. -/
def loadWalk (b : List Byte) (w : Walk) : Walk :=
  let p := rd b 0x48 8
  let q := rd b 0x50 8
  { w with
    cur := .ofNat 64 (rd b 0 8), key := .ofNat 128 (rd b 8 16), w := (List.range 4).map fun k => .ofNat 64 (rd b (0x18 + 8 * k) 8)
    rbase := .ofNat 64 (rd b 0x38 8)
    cmd := { w.cmd with tlNum := .ofNat 64 (rd b 0x40 8), unit := if w.cmd.unit < 1000 then q / 2 ^ 49 % 128 else w.cmd.unit,
                        creg := if q / 2 ^ 60 % 2 = 1 then some (Fin.ofNat 16 (q / 2 ^ 56)) else none }
    slim := p % 2 ^ 13, nrule := p / 2 ^ 13 % 32, skipix := p / 2 ^ 18 % 32, loopix := p / 2 ^ 23 % 32, entry := p / 2 ^ 28 % 32
    rmode := p / 2 ^ 33 % 2 = 1, trapf := p / 2 ^ 34 % 2 = 1, pol := p / 2 ^ 35 % 4
    step := q % 2 ^ 13, rp := if w.rp > 31 then w.rp else q / 2 ^ 13 % 32, eq := q / 2 ^ 18 % 2 = 1, lt := q / 2 ^ 19 % 2 = 1
    parked := q / 2 ^ 20 % 2 = 1, skipped := q / 2 ^ 21 % 2 = 1, rload := q / 2 ^ 22 % 256, slice := q / 2 ^ 30 % 512, cause := q / 2 ^ 39 % 1024
    pts := .ofNat 48 (rd b 0x58 8), record := (b.drop 0x60).take 128, rules := (List.range 32).map fun k => .ofNat 32 (rd b (0xE0 + 4 * k) 4)
    due := 0 }

/-- Bytes of an image as a bank or FBUF holds them. -/
def loadBlock (b : List Byte) : Tbl Byte := Memory.writeN [] 0 b

/-- The matrix node's registers (R394), with an operation that is cut. -/
def loadNode (b : List Byte) (n : Node) : Node :=
  let cut : Bool := rd b 0x549 1 / 4 % 2 = 1
  let code := if cut then rd b 0x560 1 else 0
  { n with
    md := (List.range 16).map fun i => (i, .ofNat 256 (rd b (32 * i) 32)), mc := (List.range 16).map fun i => (i, .ofNat 32 (rd b (0x200 + 4 * i) 4))
    rmx := (List.range 96).map fun i => (i, .ofNat 32 (rd b (0x240 + 4 * i) 4)), rsm := (List.range 96).map fun i => (i, .ofNat 32 (rd b (0x3C0 + 4 * i) 4))
    flg := .ofNat 7 (rd b 0x540 4), gen := .ofNat 32 (rd b 0x544 4), mode0 := rd b 0x548 1 % 4, mode1 := rd b 0x548 1 / 4 % 4
    stopped := match rd b 0x549 1 % 4 with | 0 => 0 | 1 => if n.stopped = 3 then 3 else 1 | _ => 2
    active := cut, matched := cut && code = 5, cause := rd b 0x54A 2, tokens := rd b 0x550 8
    next := if 0x10 ≤ code ∧ code ≤ 0x14 then n.next else rd b 0x570 8
    chains := match n.chains with | [(u, _)] => [(u, (rd b 0x578 4 % 1024, .ofNat 7 (rd b 0x57C 4)))] | cs => cs
    coop := match n.coop with | [(i, _)] => [(i, rd b 0x580 8)] | cs => cs }

/-- The iteration registers, FBUF and GRM of an iteration image (R270, R274). -/
def loadIteration (b : List Byte) (n : Node) : Node :=
  { n with
    ittol := .ofNat 32 (rd b 0x10 4), itcap := rd b 0x14 4, itcnt := .ofNat 32 (rd b 0x18 4), itres := .ofNat 32 (rd b 0x1C 4)
    itprv := .ofNat 32 (rd b 0x20 4), itstat := .ofNat 32 (rd b 0x24 4)
    fbuf := loadBlock ((b.drop 0x40).take 61440), grm := loadBlock ((b.drop 0xF040).take 36864) }

/-- A wait issued again with the operands of its record: its condition is tested afresh (R395 step 6). -/
def WaitKind.again (c : Core) (a b : Dword) : WaitKind → WaitKind
  | .barFull _ _ late => .barFull (a.toNat % 2048) (b.setWidth 16) late
  | .barPar _ _ _ => .barPar (a.toNat % 2048) (b.setWidth 16) (c.bar (a.toNat % 2048)).phase
  | .timeline k _ => .timeline k a
  | .arrive _ n us => .arrive (a.toNat % 2048) n us
  | .signal k _ us => .signal k a us
  | k => k

/-- The waits of a core from its wait table, in their recorded order (R390, R395). -/
def loadWaits (b : List Byte) (ms : List (Nat × Req)) (c : Core) : Core :=
  { c with waits := c.waits.map fun w =>
    if !w.2.recorded then w
    else
      let k := ((waitOrder c ms w.2.unit).takeWhile (· ≠ (false, w.1))).length
      if k ≥ 24 then w
      else
        let o := 768 * w.2.unit + 32 * k
        let (x, y) : Dword × Dword := (.ofNat 64 (rd b (o + 8) 8), .ofNat 64 (rd b (o + 16) 8))
        (w.1, { w.2 with word := .ofNat 32 (rd b o 4), opa := x, opb := y, kind := WaitKind.again c x y w.2.kind }) }

/-- A core loaded from its image (R395 step 2); what no image holds is as it was kept. -/
def loadCoreImage (s : State) (pa : Nat) (ms : List (Nat × Req)) (c : Core) : Core :=
  let at_ (off n : Nat) : List Byte := imageBytes s (pa + off) n
  let sys := at_ 0x98580 128
  let tls := at_ 0x98B40 256
  let eng (p : Nat) : List Byte := at_ (if p < 8 then 0xC3180 + 256 * p else 0xC3980 + 256 * (p - 13)) 256
  let cp := c.queue 13
  let n := loadIteration (at_ 0xC6280 98368) (loadNode (at_ 0xC5280 4096) c.mn)
  let c := { c with
    elems := c.elems.map fun e =>
      let off := if e.1 < ceIx then 9600 * e.1 else 0x96000
      (e.1, loadElemImage (at_ off 9600) (e.1 = ceIx) s.cycle e.2)
    ctl := loadSystemRecord sys s.cycle c.ctl
    clock := tsMax c.clock (.ofNat 48 (rd sys 0x38 8))
    trapq := imaged (fun i t => if i < 84 then loadTrap (at_ (0x98600 + 16 * i) 16) t else t) c.trapq
    tl := c.tl.map fun t => (t.1, .ofNat 64 (rd tls (16 * t.1) 8))
    tlNext := c.tlNext.map fun t => (t.1, .ofNat 64 (rd tls (16 * t.1 + 8) 8) - 1)
    ports := c.ports.map fun p => (p.1, loadPort (at_ (0x98C40 + 2576 * p.1) 2576) p.2)
    bars := c.bars.map fun b =>
      let v := at_ (0x9B480 + 8 * b.1) 8
      (b.1, { b.2 with expected := rd v 0 2 % 4096, arrived := rd v 2 2 % 4096, phase := .ofNat 16 (rd v 4 2) })
    queues := c.queues.map fun q => (q.1, { q.2 with q := imaged (loadCmd (at_ (0xAB780 + 4608 * q.1) 4608)) q.2.q })
    cpEdge := loadPart (at_ (0xAB780 + 4608 * 13) 4608) cp.q.length
    engines := c.engines.map fun e => (e.1, if savingPorts.contains e.1 ∧ e.1 ≠ 12 ∧ e.1 ≠ 16 then loadEngine (eng e.1) e.1 e.2 else e.2)
    walks := c.walks.map fun w => (w.1, loadWalk (at_ (0xC3C80 + 352 * w.1) 352) w.2)
    mn := { n with acc0 := loadBlock (at_ 0xDE2C0 61440), acc1 := loadBlock (at_ 0xED2C0 61440) } }
  loadWaits (at_ 0x9F480 49920) ms c

/-- A physical address in a launch's scratchpads or cluster blocks, on its new cores. -/
def movePa (x : Launch) (oldBlocks : List (Nat × Nat × Nat)) (pa : Nat) : Nat :=
  match oldBlocks.find? fun b => within_ b.2.2 ((((dataRecs x.object)[b.1]?).map (·.size)).getD 0) pa with
  | some b =>
    (match x.blocks.find? fun a => a.1 = b.1 && a.2.1 = b.2.1 with
      | some a => a.2.2 + (pa - b.2.2)
      | none => pa)
  | none => pa

/-- The data blocks on new cores: a scratchpad's or cluster's block keeps its offset. -/
def moveBlocks (x : Launch) (cores : List Nat) : List (Nat × Nat × Nat) :=
  let c1 := max 1 (imageCores x.object)
  x.blocks.map fun b =>
    match (dataRecs x.object)[b.1]? with
    | some d =>
      if d.space = 1 then (b.1, b.2.1, cpadPa (cores.getD b.2.1 0) (b.2.2 % 2 ^ 19))
      else if d.space = 2 then (b.1, b.2.1, clusBase (cores.getD (b.2.1 * c1 + d.core) 0 / 16) + b.2.2 % 2 ^ 22)
      else b
    | none => b

/-- The ranges of the blocks that lie on cores. -/
def coreRanges (x : Launch) (blocks : List (Nat × Nat × Nat)) : List (Nat × Nat) :=
  blocks.filterMap fun b =>
    match (dataRecs x.object)[b.1]? with
    | some d => if d.space = 1 ∨ d.space = 2 then some (b.2.2, d.size) else none
    | none => none

/-- One core takes its image, held until the release. What belongs to the core and not to the launch stays (R378, R408). -/
def restoreCore (x : Launch) (old : List (Nat × Nat × Nat)) (cores : List Nat) (l k core : Nat) (s : State) : State :=
  let t := getCore s core
  let ms := (x.monitors.filter (·.1 = k)).map (·.2)
  let c := (loadCoreImage s (imageBase { x with cores := [] } k) ms (tget {} x.saved k)).renumber fun i => cores.getD i 0
  let win (w : Win) : Win := { w with pbase := movePa x old w.pbase }
  let c := { c with
    part := some x.part, launch := some l, image := k, spares := t.spares, retired := t.retired, clock := tsMax t.clock c.clock, tnum := t.tnum,
    ports := ([0, 1, 2, 3] : List Nat).map fun p => (p, { c.port p with wins := (c.port p).wins.map fun w => (w.1, win w.2), tlb := (t.port p).tlb }) }
  let s := { s with mem := (tget [] x.pads k).foldl (fun m b => Memory.write m (cpadPa core b.1) b.2)
                      (s.mem.filter fun b => !within_ (cpadPa core 0) 0x60000 b.1) }
  setCore s core c

/-- A deferred trap that a control element holds is its own once it goes on (R151, R175). -/
def wakeHeld (s : State) (core : Nat) : State :=
  let u : UnitId := ⟨core, ceIx⟩
  if (getElem s u).held.isEmpty then s else nextUp (letRun s u) [.trapTaken core]

/-- An access sent to its home anew. -/
def resend (s : State) (core : Nat) (p : Part) : Part :=
  let h : Home := match homeOf s p.pa, p.home with | .ok h, .slice _ => h | _, h => h
  { p with home := h, phase := .travelling (s.cycle + travel core h) }

/-- Requests that stood in the cut go on: updates held in repair queues as they were, monitors to their homes again. -/
def reissueKept (s : State) (x : Launch) (cores : List Nat) : State :=
  x.monitors.foldl (fun s m =>
    let core := cores.getD m.1 0
    let r := { m.2.2 with core := core }
    let r := if monitorReq r then { r with parts := r.parts.map (resend s core) } else r
    setReq s m.2.1 r) s

/-- The memory that a restored launch needs on its new cores, if it is free, and its edges on them. -/
def reserveAgain (s : State) (l : Nat) (cores : List Nat) : Option (State × List Edge) :=
  let x := getLaunch s l
  let blocks := moveBlocks x cores
  let rs := coreRanges x blocks
  if rs.any fun r => (usedRanges s).any (rangesMeet r) then none
  else
    let s := rs.foldl (fun s r => takeRange s l r.1 r.2) s
    let s := setLaunch s l { getLaunch s l with blocks := blocks }
    let es := x.edges.map fun e => { edgeOn (fun k => cores.getD k 0) e with gated := false, marker := false, blocked := none, unsettled := true }
    (setAsideRings s l es).map fun (s, es) => (setLaunch s l { getLaunch s l with rings := ringsBase es }, es)

/-- The tokens of a saved overflow ring in the space of its receiver's new cluster (R395 step 2). -/
def moveRing (s : State) (e : Edge) : State × Edge :=
  match e.dst with
  | .elem core el ch =>
    let r := ((getElem s ⟨core, el⟩).inCh ch).ring
    if e.ringAt = 0 then (s, e)
    else ({ s with mem := Memory.writeN s.mem e.ringAt (r.flatMap fun t => spillBytes t.tok) }, { e with spilled := r.length })
  | _ => (s, e)

def moveRings (s : State) (es : List Edge) : State :=
  es.foldl (fun s e => let (s, e) := moveRing s e; { s with edges := s.edges ++ [e] }) s

/-- A Suspended launch on new cores, released in this cycle. -/
def restoreOn (s : State) (l : Nat) (cores : List Nat) : Option State :=
  let before := getLaunch s l
  (reserveAgain s l cores).map fun (s, es) =>
    let x := getLaunch s l
    let s := (List.range cores.length).foldl (fun s k => restoreCore x before.blocks cores l k (cores.getD k 0) s) s
    let s := x.clus.foldl (fun s b =>
      match x.blocks.find? fun a => a.1 = b.1 && a.2.1 = b.2.1 with
      | some a => { s with mem := Memory.writeN s.mem a.2.2 b.2.2 }
      | none => s) s
    let s := poke s x.map (cores.flatMap (mapEntry s))
    let s := moveRings s es
    let asker (a : Nat × Sink) : Nat × Sink := (if a.1 ≥ imagedAsker then cores.getD (a.1 - imagedAsker) 0 else a.1, a.2)
    let s := setLaunch s l { x with
      object := fillPointers x.object x, cores := cores, stage := .running, imaged := false, saved := [], pads := [], clus := [],
      edges := [], monitors := [], waitingRewires := x.waitingRewires.map fun r => { r with asker := r.asker.map asker } }
    let s := reissueKept s x cores
    cores.foldl (fun s core => pollWaits (wakeHeld s core) core) s

/-- A launch that the scheduler may choose again (R344). -/
def resumable (x : Launch) : Bool := x.stage = .suspended && !x.held && !x.broke && x.imaged

/-- Restores a launch where free cores and their memory allow it. -/
def restoreLaunch (s : State) (l : Nat) : Option State :=
  let x := getLaunch s l
  if resumable x then
    match fitCores x.object (freeCores s x.part) with
    | some cores => restoreOn s l cores
    | none => none
  else none

/-- LAUNCH_RESTORE (R344, R395). -/
def execLaunchRestore (l : Nat) (s : State) : Outcome := .next ((restoreLaunch s l).getD s)

end Sys2Proof.Machine
end

