-- ==== Sys2Proof/Machine/Lane.lean ====
section
/-! DEFINITION. Lane permutes, reductions, width changes, conflict detection, scans and mask compression (R120 to
R127). -/

namespace Sys2Proof.Machine

open Sys2Proof

/-- Lane k of a list, 0 beyond its end (R120). -/
def laneAt (xs : List Nat) (k : Nat) : Nat := xs.getD k 0

/-- A lane's value in a floating-point type. -/
def laneVal (f : Num.Fp) (x : Nat) : Num.Val := Num.decode f x

def execShuf (t : LaneType) (d : Dst) (a b : Src) (s : State) : Outcome :=
  fireQ s (.shuf t d a b) 1 d a fun r =>
    let w := LaneType.width t
    ofLanes w ((lanes w (r.v b)).map (laneAt (lanes w (r.v a))))

def execBcast (t : LaneType) (d : Dst) (a b : Src) (s : State) : Outcome :=
  fireQ s (.bcast t d a b) 1 d a fun r =>
    let w := LaneType.width t
    ofLanes w (List.replicate (128 / w) (laneAt (lanes w (r.v a)) (lo64 (r.v b))))

/-- ins: one lane of DST replaced; unchanged when the index is out of range (R120). -/
def execIns (t : LaneType) (d : Dst) (a b : Src) (s : State) : Outcome :=
  fireQ s (.ins t d a b) 1 d a fun r =>
    let w := LaneType.width t
    ofLanes w ((lanes w (readDst r.e d)).set (lo64 (r.v b)) (laneAt (lanes w (r.v a)) 0))

def execExt (t : LaneType) (d : Dst) (a b : Src) (s : State) : Outcome :=
  fireQ s (.ext t d a b) 1 d a fun r =>
    let w := LaneType.width t
    ofLanes w [laneAt (lanes w (r.v a)) (lo64 (r.v b))]

/-- One rounded floating-point addition, with its draw (R104). -/
def addRound (f : Num.Fp) (rm : Rounding) (x y : Nat) (env : Num.Env) : Nat × Num.Env :=
  let (v, fl) := Num.add (Num.decode f x) (Num.decode f y) rm
  Num.enc f rm v (env.raise fl)

/-- Adds pairs of neighbouring lanes, in order. -/
def addPairs (f : Num.Fp) (rm : Rounding) : List Nat → Num.Env → List Nat × Num.Env
  | x :: y :: xs, env =>
    let (z, env) := addRound f rm x y env
    let (zs, env) := addPairs f rm xs env
    (z :: zs, env)
  | xs, env => (xs, env)

/-- rsum of the floating forms: (a0 + a1) + (a2 + a3), or a0 + a1 (R121). -/
def sumLanes (f : Num.Fp) (rm : Rounding) (xs : List Nat) (env : Num.Env) : Nat × Num.Env :=
  let (ys, env) := addPairs f rm xs env
  let (zs, env) := addPairs f rm ys env
  (zs.headD 0, env)

/-- The latency of an instruction with an integer and a floating-point form (R128). -/
def lat18 (t : LaneType) : Nat := if (LaneType.fp? t).isSome then 8 else 1

def execRsum (t : LaneType) (d : Dst) (a : Src) (s : State) : Outcome :=
  fireTo s (.rsum t d a) (lat18 t) d a fun r env =>
    let w := LaneType.width t
    let xs := lanes w (r.v a)
    match LaneType.fp? t with
    | some f =>
      let (x, env) := sumLanes f r.rm xs env
      (ofLanes w [x], env)
    | none => (ofLanes w [wrapLane t (xs.foldl (· + ·) 0 : Nat)], env)

/-- The extreme lane of the floating forms: NaN lanes are passed over, a signalling one raises NV (R121). -/
def extremeFp (f : Num.Fp) (better : Num.Val → Num.Val → Bool) (xs : List Nat) (env : Num.Env) : Nat × Num.Env :=
  let env := env.raise (Num.sigNV (xs.map (Num.decode f)))
  match xs.filter fun x => !(Num.decode f x).isNaN with
  | [] => (Num.canonNaN f, env)
  | y :: ys => (ys.foldl (fun m x => if better (Num.decode f x) (Num.decode f m) then x else m) y, env)

/-- The extreme lane of the integer forms (R121). -/
def extremeInt (t : LaneType) (better : Int → Int → Bool) (xs : List Nat) : Nat :=
  match xs with
  | [] => 0
  | y :: ys => ys.foldl (fun m x => if better (laneInt t x) (laneInt t m) then x else m) y

def reduceLanes (s : State) (i : Instr) (t : LaneType) (d : Dst) (a : Src) (bi : Int → Int → Bool)
    (bf : Num.Val → Num.Val → Bool) : Outcome :=
  fireTo s i (lat18 t) d a fun r env =>
    let w := LaneType.width t
    let xs := lanes w (r.v a)
    match LaneType.fp? t with
    | some f =>
      let (x, env) := extremeFp f bf xs env
      (ofLanes w [x], env)
    | none => (ofLanes w [extremeInt t bi xs], env)

def execRmax (t : LaneType) (d : Dst) (a : Src) (s : State) : Outcome :=
  reduceLanes s (.rmax t d a) t d a (fun x m => x > m) (fun x m => !Num.totalLe x m)
def execRmin (t : LaneType) (d : Dst) (a : Src) (s : State) : Outcome :=
  reduceLanes s (.rmin t d a) t d a (fun x m => x < m) (fun x m => !Num.totalLe m x)

/-- pack: the double-width lanes of OPA, then of OPB, saturated (R122). -/
def execPack (t : LaneType) (d : Dst) (a b : Src) (s : State) : Outcome :=
  fireTo s (.pack t d a b) 1 d a fun r env =>
    let w := LaneType.width t
    let wide (x : Nat) : Int := if LaneType.signed t then Num.toSigned x (2 * w) else x
    let (xs, env) := satLanes t ((lanes (2 * w) (r.v a) ++ lanes (2 * w) (r.v b)).map wide) env
    (ofLanes w xs, env)

/-- unpk: half the lanes, extended to twice their width (R122). -/
def unpack (t : LaneType) (off : Nat) (q : Quad) : Quad :=
  let w := LaneType.width t
  let n := 64 / w
  ofLanes (2 * w) ((((lanes w q).drop (off * n)).take n).map fun x => Num.wrap (laneInt t x) (2 * w))

def execUnpkLo (t : LaneType) (d : Dst) (a : Src) (s : State) : Outcome :=
  fireQ s (.unpkLo t d a) 1 d a fun r => unpack t 0 (r.v a)
def execUnpkHi (t : LaneType) (d : Dst) (a : Src) (s : State) : Outcome :=
  fireQ s (.unpkHi t d a) 1 d a fun r => unpack t 1 (r.v a)

/-- The mask of the earlier positions, from j on, that hold a key. -/
def sameMask (x : Nat) : Nat → List Nat → Nat
  | _, [] => 0
  | j, y :: ys => (if y = x then 2 ^ j else 0) + sameMask x (j + 1) ys

/-- vconf: for each lane the mask of lower lanes with its key (R123). -/
def conflicts (xs : List Nat) : List Nat := (List.range xs.length).map fun i => sameMask (laneAt xs i) 0 (xs.take i)

def execVconf (t : LaneType) (d : Dst) (a : Src) (s : State) : Outcome :=
  fireQ s (.vconf t d a) 1 d a fun r =>
    let w := LaneType.width t
    ofLanes w (conflicts (lanes w (r.v a)))

/-- vcomb: each key's values added onto its first lane, in lane order (R124). -/
def combine (add : Nat → Nat → Num.Env → Nat × Num.Env) (vals keys : List Nat) :
    List Nat → Num.Env → List Nat × Num.Env
  | [], env => ([], env)
  | i :: is, env =>
    let k := laneAt keys i
    let (x, env) :=
      if (keys.take i).contains k then (0, env)
      else
        ((List.range keys.length).drop (i + 1)).foldl (fun (acc : Nat × Num.Env) j =>
          if laneAt keys j = k then add acc.1 (laneAt vals j) acc.2 else acc) (laneAt vals i, env)
    let (xs, env) := combine add vals keys is env
    (x :: xs, env)

/-- One addition of a reduction: rounded in the floating forms, wrapping in the integer ones. -/
def addLane (t : LaneType) (rm : Rounding) (x y : Nat) (env : Num.Env) : Nat × Num.Env :=
  match LaneType.fp? t with
  | some f => addRound f rm x y env
  | none => (wrapLane t (x + y : Nat), env)

def execVcomb (t : LaneType) (d : Dst) (a b : Src) (s : State) : Outcome :=
  fireTo s (.vcomb t d a b) (lat18 t) d a fun r env =>
    let w := LaneType.width t
    let ks := lanes w (r.v b)
    let (xs, env) := combine (addLane t r.rm) (lanes w (r.v a)) ks (List.range ks.length) env
    (ofLanes w xs, env)

/-- An inclusive prefix sum from a carry (R125). -/
def prefixSums (add : Nat → Nat → Num.Env → Nat × Num.Env) : Nat → List Nat → Num.Env → List Nat × Num.Env
  | _, [], env => ([], env)
  | c, x :: xs, env =>
    let (y, env) := add c x env
    let (ys, env) := prefixSums add y xs env
    (y :: ys, env)

def execPscan (t : LaneType) (d : Dst) (a b : Src) (s : State) : Outcome :=
  fireTo s (.pscan t d a b) (lat18 t) d a fun r env =>
    let w := LaneType.width t
    let (xs, env) := prefixSums (addLane t r.rm) (laneAt (lanes w (r.v b)) (128 / w - 1)) (lanes w (r.v a)) env
    (ofLanes w xs, env)

/-- One step of lscan: A <- a × A, then B <- a × B + b (R126). -/
def affineStep (t : LaneType) (rm : Rounding) (x y ca cb : Nat) (env : Num.Env) : Nat × Nat × Num.Env :=
  match LaneType.fp? t with
  | some f =>
    let (p, fl) := Num.mul (Num.decode f x) (Num.decode f ca)
    let (na, env) := Num.enc f rm p (env.raise fl)
    let (q, fl) := Num.fma (Num.decode f x) (Num.decode f cb) (Num.decode f y) rm
    let (nb, env) := Num.enc f rm q (env.raise fl)
    (na, nb, env)
  | none => (wrapLane t (x * ca : Nat), wrapLane t (x * cb + y : Nat), env)

def affineScan (t : LaneType) (rm : Rounding) : Nat → Nat → List Nat → Num.Env → List Nat × Num.Env
  | ca, cb, x :: y :: xs, env =>
    let (na, nb, env) := affineStep t rm x y ca cb env
    let (zs, env) := affineScan t rm na nb xs env
    (na :: nb :: zs, env)
  | _, _, _, env => ([], env)

def execLscan (t : LaneType) (d : Dst) (a b : Src) (s : State) : Outcome :=
  fireTo s (.lscan t d a b) (lat18 t) d a fun r env =>
    let w := LaneType.width t
    let n := 128 / w
    let cs := lanes w (r.v b)
    let (xs, env) := affineScan t r.rm (laneAt cs (n - 2)) (laneAt cs (n - 1)) (lanes w (r.v a)) env
    (ofLanes w xs, env)

/-- The positions of a mask's set bits below n, each plus a base, then all ones (R127). -/
def maskIndices (w n m b : Nat) : List Nat :=
  let xs := (List.range n).filterMap fun j => if m / 2 ^ j % 2 = 1 then some ((b + j) % 2 ^ w) else none
  xs ++ List.replicate (n - xs.length) (2 ^ w - 1)

def execMskidx (t : LaneType) (d : Dst) (a b : Src) (s : State) : Outcome :=
  fireQ s (.mskidx t d a b) 1 d a fun r =>
    let w := LaneType.width t
    ofLanes w (maskIndices w (128 / w) (r.v a).toNat (laneAt (lanes w (r.v b)) 0))

end Sys2Proof.Machine
end

