-- ==== Sys2Proof/Machine/Move.lean ====
section
/-! DEFINITION. Move, channel and predicate instructions (R106 to R112, R34). -/

namespace Sys2Proof.Machine

open Sys2Proof

/-- nop: only its trigger update and DRP consumption (R106). -/
def execNop (s : State) : Outcome := fire s .nop 1 fun _ _ => .ok { acts := [] }

def execMov (d : Dst) (a : Src) (s : State) : Outcome := fireQ s (.mov d a) 1 d a fun r => r.v a

def execMovi (d : Dst) (i : BitVec 9) (s : State) : Outcome :=
  fireQ s (.movi d i) 1 d .zero fun _ => i.signExtend 128

/-- The value of a literal (R34). -/
def litValue (f : LitForm) (v : Word) : Quad :=
  match f with
  | .zx => v.setWidth 128
  | .sx => v.signExtend 128
  | .rep32 => v ++ v ++ v ++ v
  | .rep64 => v.signExtend 64 ++ v.signExtend 64

def execLit (f : LitForm) (d : Dst) (v : Word) (s : State) : Outcome :=
  fireQ s (.lit f d v) 1 d .zero fun _ => litValue f v

/-- fwd: one output, chosen by two bits of OPB (R107). -/
def execFwd (n : Fin 4) (a b : Src) (s : State) : Outcome :=
  fire s (.fwd n a b) 1 fun e ticket =>
    .ok { acts := [.out (fwdTarget n (readSrc e s.cycle b)) ticket ⟨readSrc e s.cycle a, tagOf e s.cycle a⟩] }

def execTagset (d : Dst) (a : Src) (tag : BitVec 3) (s : State) : Outcome :=
  fire s (.tagset d a tag) 1 fun e ticket => .ok { acts := dstActs e ticket d tag (readSrc e s.cycle a) }

/-- dup: the same token to every selected output (R108). -/
def execDup (m : BitVec 4) (a : Src) (s : State) : Outcome :=
  fire s (.dup m a) 1 fun e ticket =>
    .ok { acts := (maskOuts m).map fun n => .out n ticket ⟨readSrc e s.cycle a, tagOf e s.cycle a⟩ }

def execDrop (a : Src) (s : State) : Outcome := fire s (.drop a) 1 fun _ _ => .ok { acts := [] }

def execPset (p : Fin 8) (v : Bool) (s : State) : Outcome := fireP s (.pset p v) 1 p fun _ env => (v, env)

def execPsetNz (p : Fin 8) (a : Src) (s : State) : Outcome :=
  fireP s (.psetNz p a) 1 p fun r env => (lo64 (r.v a) ≠ 0, env)

def execPsetZ (p : Fin 8) (a : Src) (s : State) : Outcome :=
  fireP s (.psetZ p a) 1 p fun r env => (lo64 (r.v a) = 0, env)

/-- plog: a bit of the truth table (R112). -/
def execPlog (p pa pb : Fin 8) (tt : BitVec 4) (s : State) : Outcome :=
  fireP s (.plog p pa pb tt) 1 p fun r env =>
    (tt.getLsbD ((r.e.pred pa).toNat * 2 + (r.e.pred pb).toNat), env)

/-- sel: both operands are read and consumed, one is passed on with its own tag (R109). -/
def execSel (d : Dst) (a b : Src) (p : Fin 8) (neg : Bool) (s : State) : Outcome :=
  fire s (.sel d a b p neg) 1 fun e ticket =>
    let x := if e.pred p != neg then a else b
    .ok { acts := dstActs e ticket d (tagOf e s.cycle x) (readSrc e s.cycle x) }

def execTagget (d : Dst) (a : Src) (s : State) : Outcome :=
  fireQ s (.tagget d a) 1 d a fun r => (tagOf r.e r.cyc a).setWidth 128

/-- done: a control token, and one completion reported when its effects become visible (R108). -/
def execDone (d : Dst) (a : Src) (s : State) : Outcome :=
  fire s (.done d a) 1 fun e ticket =>
    .ok { acts := dstActs e ticket d 7 (readSrc e s.cycle a) ++ [.doneReport] }

end Sys2Proof.Machine
end

