-- ==== Sys2Proof/Machine/Sched.lean ====
section
/-! DEFINITION. The scheduler: queues and waits (R339, R344), the choice of launches (R347), periods, budgets and borrowing
(R348, R349), and the measurement windows that start rewires (R352, R355). -/

namespace Sys2Proof.Machine

open Sys2Proof

/-! ## Queues (R344, R347) -/

/-- A launch that stands in its queue: it has not yet reached Running. -/
def inQueue (x : Launch) : Bool := x.stage = .queued || x.stage = .waiting || x.stage = .ready

/-- The head of its queue has the lowest place. -/
def headOfQueue (s : State) (x : Launch) : Bool :=
  s.launches.all fun y => !(inQueue y.2 && y.2.part = x.part && y.2.queue = x.queue && y.2.place < x.place)

/-- Heads of queues wait. -/
def headQueues (s : State) : State :=
  { s with launches := s.launches.map fun e =>
      if e.2.stage = .queued ∧ headOfQueue s e.2 then (e.1, { e.2 with stage := .waiting }) else e }

/-- The wait entries of a launch record hold (R339). -/
def waitsHold (s : State) (x : Launch) : Bool :=
  let b := launchOff x.object
  let lead := getCore s (getPart s x.part).lead
  (List.range (rd x.object (b + 0xA) 1)).all fun i =>
    rd x.object (b + 0x200 + 16 * i + 8) 8 ≤ (lead.timeline (rd x.object (b + 0x200 + 16 * i) 1)).toNat

/-- The largest timestamp of what a launch has waited for: its accesses come after that (R346). -/
def waitsTs (s : State) (x : Launch) : Stamp :=
  let b := launchOff x.object
  let lead := getCore s (getPart s x.part).lead
  (List.range (rd x.object (b + 0xA) 1)).foldl (fun t i => tsMax t (tget t lead.tlTs (rd x.object (b + 0x200 + 16 * i) 1))) x.ts

/-- LAUNCH_WAITS_HOLD (R339, R344, R346). -/
def execLaunchWaitsHold (l : Nat) (s : State) : Outcome :=
  let x := getLaunch s l
  if x.stage = .waiting ∧ waitsHold s x then
    .next (nextUp (setLaunch s l { x with stage := .ready, readySince := some s.cycle, ts := waitsTs s x }) [.launchChoose])
  else .next s

/-! ## Choice (R347) -/

/-- The effective priority: raised with the time spent Ready. -/
def effectivePrio (s : State) (x : Launch) : Nat :=
  match x.readySince with
  | some c => min 7 (x.prio + (s.cycle - c) / (64 * 65536))
  | none => x.prio

/-- A partition may borrow one more core-cycle (R349). -/
def Partition.canBorrow (p : Partition) : Bool := p.ben && p.debt + 1 ≤ 4 * p.q

/-- Launches that may be chosen in a partition: highest priority first, then the lowest queue, then submission order. -/
def candidates (s : State) (part : Nat) : List Nat :=
  (s.launches.foldl (fun l e =>
    let x := e.2
    if x.part = part ∧ ((x.stage = .ready ∧ !x.placed) ∨ resumable x) then
      insertBy (((7 - effectivePrio s x) * 64 + x.queue) * 2 ^ 64 + x.place) e.1 l
    else l) ([] : List (Nat × Nat))).map (·.2)

/-- A launch that no set of its partition's cores can hold ends with 0x31B; one that lacks free cores or free memory stays
where it is. The answer says whether it was placed. -/
def tryLaunch (s : State) (l : Nat) : State × Bool :=
  let x := getLaunch s l
  if x.stage = .suspended then
    match restoreLaunch s l with
    | some s => (s, true)
    | none => (s, false)
  else if (fitCores x.object (launchCores s x.part)).isNone then (failLaunch s l 0x31B false 0, false)
  else match fitCores x.object (freeCores s x.part) with
    | none => (s, false)
    | some cores =>
      match placeLaunch s l cores with
      | .ok s => (s, true)
      | .error c =>
        let others : Bool := s.launches.any fun y => y.1 ≠ l && y.2.part = x.part && !y.2.regions.isEmpty
        if c = 0x31B ∧ others then (s, false) else (failLaunch s l c false 0, false)

/-- A partition's candidates are tried in order. -/
def chooseIn (s : State) (part : Nat) : State :=
  (candidates s part).foldl (fun s l =>
    let (s, placed) := tryLaunch s l
    if placed then { s with served := part } else s) s

/-! ### Pre-emption across partitions (R348) -/

/-- A partition's cores that are free, or that would be once those listed are. -/
def coresWith (s : State) (part : Nat) (more : List Nat) : List Nat :=
  (launchCores s part).filter fun k => ((getCore s k).launch.isNone || more.contains k) && !s.root.quiesced.contains (k / 256)

/-- Running launches of partitions without budget that hold cores of a partition's set: largest DEBT first. -/
def preemptible (s : State) (part : Nat) : List (Nat × Launch) :=
  (s.launches.foldl (fun l e =>
    let p := getPart s e.2.part
    if e.2.part ≠ part ∧ e.2.stage = .running ∧ p.rem = 0 ∧ e.2.cores.any (launchCores s part).contains then
      insertBy ((2 ^ 32 - p.debt) * 64 + e.2.part) e l
    else l) ([] : List (Nat × (Nat × Launch)))).map (·.2)

/-- The launches cut until enough cores are free; none where even all of them do not free enough. -/
def cutUntil (fits : List Nat → Bool) : List Nat → List (Nat × Launch) → Option (List Nat)
  | more, [] => if fits more then some [] else none
  | more, e :: es => if fits more then some [] else (cutUntil fits (more ++ e.2.cores) es).map (e.1 :: ·)

/-- The launches that a Ready launch of a partition with budget pre-empts. A kerf in progress counts as cores that come free. -/
def preempts (s : State) (x : Launch) : List Nat :=
  if x.stage = .ready ∧ !x.placed ∧ (getPart s x.part).rem > 0 then
    let (cut, whole) := (preemptible s x.part).partition (·.2.kerf.isSome)
    let fits (more : List Nat) : Bool := (fitCores x.object (coresWith s x.part more)).isSome
    (cutUntil fits (cut.flatMap (·.2.cores)) whole).getD []
  else []

/-- Partitions in the order of service after the one served last. -/
def serviceOrder (s : State) : List Nat :=
  ((List.range 64).map fun i => (s.served + 1 + i) % 64).filter fun p => (getPart s p).used

/-- LAUNCH_CHOOSE (R347): partitions with budget left first, then those that may borrow. -/
def execLaunchChoose (s : State) : Outcome :=
  let order := serviceOrder s
  let s := (order.filter fun p => (getPart s p).rem > 0).foldl chooseIn s
  .next ((order.filter fun p => (getPart s p).rem = 0 && (getPart s p).canBorrow).foldl chooseIn s)

/-! ## Periods and budgets (R344, R348, R349) -/

/-- A period's repayment and budget. -/
def Partition.refill (p : Partition) : Partition :=
  let r := min p.debt (p.q / 4)
  { p with debt := p.debt - r, rem := p.q - r }

/-- PERIOD_START (R349). -/
def execPeriodStart (s : State) : Outcome :=
  .next (nextUp { s with parts := s.parts.map fun e => (e.1, e.2.refill) } [.launchChoose])

/-- One core-cycle charged to a partition: to its budget, or borrowed; neither where it can do neither. -/
def Partition.charge (p : Partition) : Nat → Partition
  | 0 => p
  | n + 1 =>
    let p := if p.rem > 0 then { p with rem := p.rem - 1 } else if p.canBorrow then { p with debt := p.debt + 1 } else p
    Partition.charge p n

/-- The charges of a cycle (R344, R348): every core of a Running launch. -/
def chargeCycle (s : State) : State :=
  s.launches.foldl (fun s e =>
    if e.2.stage = .running then
      let n := e.2.cores.length
      let s := setPart' s e.2.part ((getPart s e.2.part).charge n)
      setLaunch s e.1 { e.2 with charged := e.2.charged + n }
    else s) s

/-- Every Running launch of a partition is suspended by kerf. -/
def kerfAll (s : State) (part : Nat) : State :=
  (s.launches.filter fun e => e.2.part = part && e.2.stage = .running).foldl (fun s e => beginKerf s e.1 0) s

/-- REM_EXHAUSTED (R348, R349): further charges are borrowed, or the partition's launches are suspended. -/
def execRemExhausted (part : Nat) (s : State) : Outcome :=
  let p := getPart s part
  .next (if p.rem = 0 ∧ !p.canBorrow then kerfAll s part else s)

/-- DEBT_LIMIT_REACHED (R349). -/
def execDebtLimitReached (part : Nat) (s : State) : Outcome :=
  let p := getPart s part
  .next (if p.rem = 0 ∧ 4 * p.q < p.debt + 1 then kerfAll s part else s)

/-- A launch has used up its BUDGET. -/
def overBudget (x : Launch) : Bool := x.stage = .running && !x.broke && x.budget * 65536 ≤ x.charged

/-- BUDGET_EXHAUSTED (R344): the launch is suspended with status 0x31A. -/
def execBudgetExhausted (l : Nat) (s : State) : Outcome :=
  let x := getLaunch s l
  if overBudget x then
    let s := setLaunch s l { x with broke := true, kerf := x.kerf.map fun k => { k with status := 0x31A } }
    .next (beginKerf s l 0x31A)
  else .next s

/-- What the budgets bring about now. -/
def budgetEvents (s : State) : List Instr :=
  (s.parts.filterMap fun e =>
    let p := e.2
    if p.rem = 0 ∧ !p.canBorrow ∧ (s.launches.any fun x => x.2.part = e.1 && x.2.stage = .running && x.2.kerf.isNone) then
      some (if p.ben then .debtLimitReached e.1 else .remExhausted e.1)
    else none)
    ++ ((s.launches.filter fun e => overBudget e.2).map fun e => .budgetExhausted e.1)
    ++ ((s.launches.flatMap fun e => preempts s e.2).map fun l => .kerfBegin l)

/-! ## Measurement windows (R352, R355) -/

/-- Counts of the cycle that has ended: the cycles in which an element fired, and those in which a channel was full or
empty; what was gated, Frozen or Stopped in it does not count this window. -/
def countElem (prev : Nat) (e : Elem) : Elem :=
  { e with fires := e.fires + (if e.firedAt = some prev then 1 else 0), unsettled := e.unsettled || e.run ≠ 1 }

def countEdge (s : State) (e : Edge) : Edge :=
  match e.dst with
  | .elem c i ch =>
    let n := ((getElem s ⟨c, i⟩).inCh ch).q.length
    { e with full := e.full + (if n ≥ 4 then 1 else 0), empty := e.empty + (if n = 0 then 1 else 0), unsettled := e.unsettled || e.gated }
  | _ => { e with unsettled := e.unsettled || e.gated }

/-- A core's elements with the counts of a cycle. -/
def countCore (prev : Nat) (c : Core) : Core := { c with elems := c.elems.map fun e => (e.1, countElem prev e.2) }

/-- The window counts of the cycle before this one. -/
def countWindow (s : State) (prev : Nat) : State :=
  { s with edges := s.edges.map (countEdge s), cores := s.cores.map fun k => (k.1, countCore prev k.2) }

/-- Whether the window counts for every element of an operator, and for an edge (R352). -/
def elemsCount (s : State) (x : Launch) (n : Nat) : Bool := (x.op n).workers.all fun c => !(getElem s (x.unit c)).unsettled
def edgeCounts (e : Option Edge) : Bool := e.any fun e => !e.unsettled

/-- An operator after a window: its counts, and its runs of windows. A window that is discarded for an edge breaks only what that edge's
counts decide, and one discarded for an element what the elements' decide (R352, R355). -/
def measureOp (s : State) (x : Launch) (n : Nat) : Op :=
  let o := x.op n
  let (i, j) := (opIn s x n, opOut s x n)
  let fires := o.workers.map fun c => (getElem s (x.unit c)).fires
  let inFull := (i.map (·.full)).getD 0
  let outFull := (j.map (·.full)).getD 0
  let busy : Bool := edgeCounts i && edgeCounts j && clctlField s x.part 25 13 ≤ inFull && outFull < clctlField s x.part 38 26
  let idle : Bool := elemsCount s x n && fires.all (· < fdctlField s x.part 25 13)
  { o with
    fires := if elemsCount s x n then fires.foldl (· + ·) 0 else o.fires
    infull := if edgeCounts i then inFull else o.infull
    outfull := if edgeCounts j then outFull else o.outfull
    cloneRun := if busy then o.cloneRun + 1 else 0
    idleRun := if idle then o.idleRun + 1 else 0 }

/-- Replicas of an automatic clone: at most MAXR, one less than the free elements, a power of two under keyed. -/
def autoReplicas (s : State) (x : Launch) (n : Nat) : Nat :=
  let r := min (clctlField s x.part 59 56) ((freeElems s x).length - 1)
  if (x.op n).cls = 1 then (if r ≥ 8 then 8 else if r ≥ 4 then 4 else if r ≥ 2 then 2 else 0) else r

/-- The change that a window's end starts in an instance (R355): the first kind with a candidate, and its lowest operator. -/
def windowChoice (s : State) (x : Launch) : Option Rewire :=
  let cl (hi lo : Nat) : Nat := clctlField s x.part hi lo
  let fd (hi lo : Nat) : Nat := fdctlField s x.part hi lo
  let ops := List.range x.ops.length
  let crowded (n : Nat) : Bool := (x.op n).cloneRun ≥ cl 46 39
  let idle (n : Nat) : Bool := (x.op n).idleRun ≥ fd 46 39
  -- a pin on an ordered operator changes nothing (R59)
  let pinned (n : Nat) : Bool := (x.op n).pin && (x.op n).cls ≠ 3
  let may (r : Rewire) : Option Rewire := if (rewireReason s x r).isNone then some r else none
  let unfolds := if cl 63 63 = 0 then none else ops.findSome? fun n =>
    if (x.op n).mode = 2 ∧ crowded n ∧ !pinned n then may { kind := 4, opa := n } else none
  let clones := if cl 63 63 = 0 then none else ops.findSome? fun n =>
    if (x.op n).mode = 0 ∧ crowded n ∧ !pinned n ∧ autoReplicas s x n ≥ 2 then may { kind := 1, opa := n, repl := autoReplicas s x n } else none
  let unclones := if fd 62 62 = 0 then none else ops.findSome? fun n =>
    if (x.op n).mode = 1 ∧ idle n ∧ !pinned n then may { kind := 2, opa := n } else none
  let folds := if fd 63 63 = 0 then none else ops.findSome? fun m => ops.findSome? fun n =>
    if m < n ∧ idle m ∧ idle n ∧ !pinned m ∧ !pinned n then may { kind := 3, opa := m, opb := n } else none
  unfolds <|> clones <|> unclones <|> folds

/-- A launch's part of a window's end: the counts of the layout record, and at most one rewire. -/
def endWindow (s : State) (l : Nat) : State :=
  let x := getLaunch s l
  let ns := List.range x.ops.length
  let x := { x with ops := ns.map (measureOp s x) }
  let s := setLaunch s l x
  let s := ns.foldl (fun s n =>
    let o := x.op n
    poke s (x.save + 0x40 + 128 * n + 0x48) (leBytes 4 o.fires ++ leBytes 4 o.infull ++ leBytes 4 o.outfull)) s
  if x.rewire.isSome ∨ x.kerf.isSome ∨ !x.waitingRewires.isEmpty then s
  else match windowChoice s x with
    | some r => requestRewire s l r
    | none => s

/-- A new window begins. -/
def resetElem (e : Elem) : Elem := { e with fires := 0, unsettled := false }
def resetCore (c : Core) : Core := { c with elems := c.elems.map fun e => (e.1, resetElem e.2) }
def resetWindow (s : State) : State :=
  { s with edges := s.edges.map fun e => { e with tok := 0, full := 0, empty := 0, unsettled := false },
           cores := s.cores.map fun k => (k.1, resetCore k.2) }

/-- MEASURE_WINDOW_END (R352, R355, R370). -/
def execMeasureWindowEnd (s : State) : Outcome :=
  let running := (s.launches.filter fun e => e.2.stage = .running && e.2.ran).map (·.1)
  .next (running.foldl endWindow s |> resetWindow)

end Sys2Proof.Machine
end

