-- ==== Sys2Proof/Machine/Root.lean ====
section
/-! DEFINITION. The root: SHAKE256 and the digest (R80), policies (R81, R417, R418), the commands of R416 with their checks,
partitions (R413), and partition reset (R415). -/

namespace Sys2Proof.Machine

open Sys2Proof

/-! ## SHAKE256 -/

/-- A 64-bit lane turned left. -/
def laneTurn (n x : Nat) : Nat := x * 2 ^ (n % 64) % 2 ^ 64 + x / 2 ^ (64 - n % 64)

/-- Each lane takes in the folded columns beside it. Lane (x, y) stands at x + 5y. -/
def mixColumns (a : List Nat) : List Nat :=
  let fold (x : Nat) : Nat := (List.range 5).foldl (fun p y => p ^^^ a.getD (x % 5 + 5 * y) 0) 0
  let cols := (List.range 5).map fold
  a.zipIdx.map fun v => v.1 ^^^ cols.getD ((v.2 + 4) % 5) 0 ^^^ laneTurn 1 (cols.getD ((v.2 + 1) % 5) 0)

/-- The walk over the lanes other than (0, 0): each goes on to the place after its own, turned by a triangular number. -/
def moveLanes (a : List Nat) : List Nat :=
  ((List.range 24).foldl (fun (w : List Nat × Nat × Nat × Nat) t =>
    let (a, x, y, hand) := w
    let i := y + 5 * ((2 * x + 3 * y) % 5)
    (a.set i (laneTurn ((t + 1) * (t + 2) / 2) hand), y, (2 * x + 3 * y) % 5, a.getD i 0)) (a, 1, 0, a.getD 1 0)).1

/-- Each lane takes in the two after it in its row. -/
def mixRows (a : List Nat) : List Nat :=
  a.zipIdx.map fun v =>
    let next (n : Nat) : Nat := a.getD ((v.2 + n) % 5 + 5 * (v.2 / 5)) 0
    v.1 ^^^ ((2 ^ 64 - 1 - next 1) &&& next 2)

/-- The next state of the register that makes the round constants. -/
def shiftNext (r : Nat) : Nat := if r < 128 then 2 * r else (2 * r) ^^^ 0x171

/-- A round's constant, whose bits stand one below the powers of two, and the register after it. -/
def roundBits (r : Nat) : Nat × Nat :=
  (List.range 7).foldl (fun c j => (c.1 + c.2 % 2 * 2 ^ (2 ^ j - 1), shiftNext c.2)) (0, r)

/-- Goes on with numbers worked out one by one: the kernel then carries values, not the sums that give them. -/
def workedOut {α : Type} : List Nat → (List Nat → α) → α
  | [], k => k []
  | x :: xs, k => match x with
    | 0 => workedOut xs fun ys => k (0 :: ys)
    | n + 1 => workedOut xs fun ys => k ((n + 1) :: ys)

/-- Rounds from a state and the register of their constants. -/
def rounds : Nat → List Nat → Nat → List Nat
  | 0, a, _ => a
  | n + 1, a, r =>
    let (c, r) := roundBits r
    workedOut (mixRows (moveLanes (mixColumns a))) fun b => rounds n ((b.headD 0 ^^^ c) :: b.tail) r

/-- Takes in blocks of 136 bytes; fuel is enough for one byte a block. -/
def absorb : Nat → List Byte → List Nat → List Nat
  | 0, _, a => a
  | fuel + 1, m, a =>
    if m.isEmpty then a
    else
      let lane (i : Nat) : Nat := if i < 17 then leNat ((m.drop (8 * i)).take 8) else 0
      absorb fuel (m.drop 136) (rounds 24 (a.zipIdx.map fun v => v.1 ^^^ lane v.2) 1)

/-- SHAKE256 with at most 136 bytes of output. -/
def shake256 (msg : List Byte) (n : Nat) : List Byte :=
  let short := 136 - msg.length % 136
  let pad : List Byte := if short = 1 then [0x9F] else 0x1F :: (List.replicate (short - 2) 0 ++ [0x80])
  let m := msg ++ pad
  ((absorb (m.length + 1) m (List.replicate 25 0)).flatMap (leBytes 8)).take n

/-- The digest of an object (R71, R80). A digested type whose section is absent adds nothing to the input (DESIGN CHOICE, log entry 43). -/
def graphDigest (o : List Byte) : List Byte :=
  let head : List Byte := [0x50, 0x4C, 0x45, 0x58, 0x49, 0x41, 0x2E, 0x47, 0x52, 0x41, 0x50, 0x48, 0x2E, 0x56, 0x31, 0x00]
  let secs := ([0x01, 0x02, 0x03, 0x04, 0x05, 0x06, 0x07, 0x09, 0x0A, 0x0B, 0x0C, 0x0F] : List Nat).filterMap (sec? o)
  shake256 (head ++ secs.flatMap fun s => leBytes 4 s.ty ++ leBytes 8 s.size ++ (o.drop s.off).take s.size) 64

/-! ## Policies (R81, R417) -/

def polPlen (b : List Byte) : Nat := rd b 4 4
def polNdig (b : List Byte) : Nat := rd b 0x34 2
def polFlag (b : List Byte) (n : Nat) : Bool := rd b 0x38 4 / 2 ^ n % 2 = 1
def polMaxQ (b : List Byte) : Nat := rd b 0x3C 4
def polMaxB (b : List Byte) : Nat := rd b 0x40 4
def polMaxC (b : List Byte) : Nat := rd b 0x44 4
def polDigests (b : List Byte) : List (List Byte) := (List.range (polNdig b)).map fun i => (b.drop (0x70 + 64 * i)).take 64

/-- Why a SIG section's bytes name no policy (R81, R417). -/
def sigCause (b : List Byte) : Option Cause :=
  let n := polPlen b
  firstCause
    [(rd b 0 4 ≠ 1, 0x343), (n = 0 ∨ n > 65536 ∨ b.length < 0x30 + n + 3309, 0x343),
     (!zeros b 0x28 8 ∨ !zeros b (0x30 + n + 3309) (b.length - (0x30 + n + 3309)), 0x343),
     (rd b 0x30 4 ≠ 1 ∨ polNdig b = 0 ∨ polNdig b > 512 ∨ rd b 0x36 2 > 9216 ∨ rd b 0x38 4 ≥ 8 ∨ !zeros b 0x48 40, 0x343),
     (n ≠ 64 + 64 * polNdig b + 2 * rd b 0x36 2, 0x343),
     (!Config.mlDsaVerify ((b.drop 8).take 32) (b.take (0x30 + n)) ((b.drop (0x30 + n)).take 3309), 0x343)]

/-- Whether a policy handle belongs to another session, which no command of this one may name (R440). -/
def foreignPolicy (s : State) (session handle : Nat) : Bool := (tfind s.root.policies handle).any (·.session ≠ session)

/-- A verified policy under a handle: one that stands there already must have the same bytes. -/
def bindPolicy (s : State) (session handle : Nat) (b : List Byte) : Except Cause State :=
  if foreignPolicy s session handle then .error 0x349
  else match sigCause b with
  | some c => .error c
  | none =>
    match tfind s.root.policies handle with
    | some p => if p.block = b then .ok s else .error 0x344
    | none => .ok { s with root := { s.root with policies := tput s.root.policies handle { session := session, block := b } } }

/-- The bytes of a policy under a handle. -/
def policyOf (s : State) (handle : Nat) : List Byte := ((tfind s.root.policies handle).map (·.block)).getD []
def policyHandle (o : List Byte) : Nat := rd o (launchOff o + 0x20) 8

/-! ## Commands (R416, R440) -/

/-- Every command is available at stage 3 once FULLMEM is accepted (R433). -/
def commandsOpen (s : State) : Bool := s.root.stage = 3 && feature s 0

/-- Steps 1 and 2: the command is authentic and comes from a session that may give it, and its number rises. -/
def command (s : State) (c : RootCmd) (may : Bool) (act : State → State) : Outcome :=
  if !commandsOpen s then .next s
  else match tfind s.root.sessions c.session with
    | none => .next (tellCode s 0x347)
    | some last =>
      if !c.auth ∨ !may then .next (tellCode s 0x347)
      else if c.seq ≤ last then .next (tellCode s 0x348)
      else .next (act { s with root := { s.root with sessions := tput s.root.sessions c.session c.seq } })

def tenant (c : RootCmd) : Bool := c.session ≠ 0
def hypervisor (c : RootCmd) : Bool := c.session = 0

/-- A handle that the root draws. -/
def drawHandle (s : State) : State × Nat :=
  ({ s with root := { s.root with nextHandle := s.root.nextHandle + 1 } }, s.root.nextHandle)

/-- The partition under a handle, where the session may name it. -/
def namedPart (s : State) (c : RootCmd) (handle : Nat) : Option Nat :=
  (s.parts.find? fun e => e.2.used && e.2.handle = handle &&
    (c.session = 0 || ((tfind s.root.policies e.2.policy).map (·.session)) = some c.session)).map (·.1)

/-- The launch under a handle, for the hypervisor or for the session that created it. -/
def launchOfHypervisor (s : State) (c : RootCmd) (handle : Nat) : Option Launch :=
  if c.session = 0 then tfind s.launches handle else none
def launchOfTenant (s : State) (c : RootCmd) (handle : Nat) : Option Launch :=
  match tfind s.launches handle with
  | some x => if x.session = c.session then some x else none
  | none => none

/-- The policy of a launch's partition. -/
def launchPolicy (s : State) (x : Launch) : List Byte := policyOf s (getPart s x.part).policy

/-! ### Objects -/

/-- Steps 2 to 4 of R82, and the policy that a signed object carries. -/
def loadObject (s : State) (session : Nat) (o : List Byte) : Except Cause State :=
  match objectCause o with
  | some c => .error c
  | none =>
    let signed : Except Cause State := match sec? o 0x0E with
      | some g => bindPolicy s session (policyHandle o) ((o.drop g.off).take g.size)
      | none => if foreignPolicy s session (policyHandle o) then .error 0x349 else .ok s
    match signed with
    | .error c => .error c
    | .ok s => if graphDigest o ≠ (o.drop (launchOff o + 0x140)).take 64 then .error 0x341 else .ok s

/-- ROOT_LOAD (R82 steps 1 to 4): the object is held under a handle. -/
def execRootLoad (c : RootCmd) (object : List Byte) (s : State) : Outcome :=
  command s c (tenant c) fun s =>
    match loadObject s c.session object with
    | .error e => tellCode s e
    | .ok s =>
      let (s, h) := drawHandle s
      tell { s with root := { s.root with objects := tput s.root.objects h { session := c.session, object := object } } } { code := 0, handle := h }

/-- POLICY_REGISTER (R81, R416). -/
def execPolicyRegister (c : RootCmd) (handle : Nat) (sig : List Byte) (s : State) : Outcome :=
  command s c (tenant c) fun s =>
    match bindPolicy s c.session handle sig with
    | .error e => tellCode s e
    | .ok s => tell s { code := 0, handle := handle }

/-- LAUNCH (R82 step 5, R337, R344, R416, R418): the launch goes to the lowest partition created under the policy its record
names. -/
def execLaunch (c : RootCmd) (object : Nat) (args : List Dword) (s : State) : Outcome :=
  command s c (tenant c) fun s =>
    match tfind s.root.objects object with
    | none => tellCode s 0x349
    | some held =>
      let o := held.object
      let ph := policyHandle o
      let mine : Bool := ((tfind s.root.policies ph).map (·.session)) = some c.session
      match (s.parts.find? fun e => e.2.used && e.2.policy = ph).map (·.1) with
      | none => tellCode s 0x349
      | some part =>
        if held.session ≠ c.session ∨ !mine then tellCode s 0x349
        else
          let b := policyOf s ph
          let budget := rd o (launchOff o + 0x10) 4
          if !(polDigests b).contains (graphDigest o) ∨ budget > polMaxB b then tellCode s 0x342
          else if recordBroken o then tellCode s 0x318
          else
            let (s, h) := drawHandle s
            let x : Launch :=
              { session := c.session, part := part, object := o, args := args.take 8, budget := budget, place := s.submitted + 1,
                queue := rd o (launchOff o + 8) 1, prio := rd o (launchOff o + 9) 1 }
            headQueues (tell (setLaunch { s with submitted := s.submitted + 1 } h x) { code := 0, handle := h })

/-! ### Launches -/

/-- RESUME_BUDGET (R344): the BUDGET becomes the operand. -/
def execResumeBudget (c : RootCmd) (handle : Nat) (budget : BitVec 32) (s : State) : Outcome :=
  command s c (tenant c) fun s =>
    match launchOfTenant s c handle with
    | none => tellCode s 0x349
    | some x =>
      tellCode (setLaunch s handle { x with budget := budget.toNat, broke := x.broke && budget.toNat * 65536 ≤ x.charged }) 0

/-- PAUSE (R381, R416): a Running launch is suspended by kerf and held; a Suspended one is held. -/
def execPause (c : RootCmd) (handle : Nat) (s : State) : Outcome :=
  command s c true fun s =>
    match launchOfHypervisor s c handle with
    | none => tellCode s 0x349
    | some x =>
      if !polFlag (launchPolicy s x) 0 then tellCode s 0x346
      else if x.stage = .running ∨ x.stage = .suspended then
        tellCode (beginKerf (setLaunch s handle { x with held := true }) handle 0) 0
      else tellCode s 0

/-- LAUNCH_RESUME (R344): the held mark is cleared. -/
def execLaunchResume (c : RootCmd) (handle : Nat) (s : State) : Outcome :=
  command s c true fun s =>
    match launchOfHypervisor s c handle with
    | none => tellCode s 0x349
    | some x => tellCode (setLaunch s handle { x with held := false }) 0

/-- Whether a launch has ended. -/
def ended (x : Launch) : Bool := x.stage = .complete || x.stage = .failed

/-- EVICT (R344, R351): a Draining launch completes normally. -/
def execEvict (c : RootCmd) (handle : Nat) (s : State) : Outcome :=
  command s c true fun s =>
    match launchOfHypervisor s c handle with
    | none => tellCode s 0x349
    | some x =>
      let s := tellCode s 0
      if ended x ∨ x.stage = .draining then s else failLaunch s handle 0x31D true (.ofNat 128 handle)

/-! ### Partitions -/

/-- Whether CREATE's own checks pass (R413). -/
def createOk (s : State) (x : CreateSpec) : Bool :=
  let led (k : Nat) : Bool := s.parts.any fun e => e.2.used && e.2.lead = k
  let held (k : Nat) : Bool := s.parts.any fun e => e.2.used && e.2.cores.contains k
  let taken (u : Nat) : Bool := s.parts.any fun e => e.2.used && e.2.units.contains u
  !x.cores.isEmpty && x.cores.all (fun k => k < 2048 && !led k && !(getCore s k).retired) && !repeats x.cores && x.cores.contains x.lead && !held x.lead
    && x.units.all (fun u => u < 16384 && !taken u) && !repeats x.units && 2 ≤ x.channel && x.channel ≤ 7 && 2 ≤ x.reply && x.reply ≤ 7
    && x.ptroot % 65536 = 0
    && 8 ≤ x.logK && x.logK ≤ 20

/-- The lowest partition number that is free. -/
def freePart (s : State) : Option Nat := (List.range 64).find? fun p => !(getPart s p).used

/-- The pools that partitions hold on a channel. -/
def poolsOn (s : State) (ch : Nat) : List Nat :=
  s.parts.flatMap fun e =>
    if e.2.used then (if e.2.channel = ch then [e.2.pool] else []) ++ (if e.2.reply = ch then [e.2.replyPool] else []) else []

/-- The lowest number that no partition of a list holds: a pool is never shared (R413). -/
def freePool (held : List Nat) : Nat := ((List.range (held.length + 1)).find? fun n => !held.contains n).getD 0

/-- The partition that CREATE makes of what it names, with pools of its own in every router (R413). -/
def newPartition (s : State) (x : CreateSpec) (handle : Nat) : Partition :=
  let p := freePool (poolsOn s x.channel)
  { used := true, cores := x.cores, lead := x.lead, secure := x.secure, channel := x.channel, reply := x.reply, pool := p,
    replyPool := freePool (poolsOn s x.reply ++ if x.reply = x.channel then [p] else []), units := x.units, ptroot := x.ptroot,
    keyix := x.keyix, logBase := x.logBase, logK := x.logK, policy := x.policy, handle := handle }

/-- CREATE (R413, R416, R418, R432). -/
def execCreate (c : RootCmd) (spec : CreateSpec) (s : State) : Outcome :=
  command s c (hypervisor c) fun s =>
    match tfind s.root.policies spec.policy with
    | none => tellCode s 0x349
    | some p =>
      if spec.cores.length > polMaxC p.block ∨ (!spec.secure ∧ !polFlag p.block 2) ∨ (spec.secure ∧ !feature s 3) then tellCode s 0x346
      else match freePart s, createOk s spec with
        | some n, true =>
          let (s, h) := drawHandle s
          let x := newPartition s spec h
          let s := if spec.secure then (let s := spec.units.foldl flushUnit s; { s with mem := openUnits s.mem x }) else s
          let s := spec.cores.foldl (fun s k =>
            let c := getCore s k
            if c.launch.isSome then s else setCore s k (({ c with part := none } : Core).joined n)) s
          tell { setPart' s n x with root := { s.root with created := true } } { code := 0, handle := h }
        | _, _ => tellCode s 0x346

/-- Everything that a core holds of its launch is gone; what belongs to the partition stays. -/
def clearCore (s : State) (core : Nat) : State :=
  let s := ((getCore s core).elems.map (·.1)).foldl (fun s u => unconfigure s ⟨core, u⟩) s
  let kept (r : Req) : Bool := r.core ≠ core
  let foreign (m : Monitor) : Bool := match tfind s.reqs m.req with | some r => kept r | none => true
  let s := { s with slices := (s.slices.map fun (e : Nat × Slice) => (e.1, { e.2 with monitors := e.2.monitors.filter foreign })) }
  let s := leaveCore { s with reqs := s.reqs.filter fun r => kept r.2 } core
  let c := getCore s core
  setCore s core { freshCore c 0 0 with launch := none, mn := { c.mn.released with coop := [], fbuf := [], grm := [] } }

/-- The dirty lines of a partition go to DRAM; those in a failing slice are lost, and marked poisoned. -/
def flushPart (s : State) (part : Nat) (failing : Option Nat) : State :=
  (s.slices.map (·.1)).foldl (fun s n =>
    let mine := (getSlice s n).lines.filter fun l => l.2.part = part
    if failing = some n then
      let sl := getSlice s n
      let dirty := (mine.filter (·.2.dirty)).map (·.2.addr)
      { setSlice s n { sl with lines := sl.lines.filter fun l => l.2.part ≠ part } with poison := s.poison ++ dirty }
    else (mine.map (·.1)).foldl (fun s k => evict s n k) s) s

/-- Partition reset (R415): its launches fail, and what it has on the module is discarded. -/
def resetPartition (s : State) (part : Nat) (cause : Cause) (failing : Option Nat) : State :=
  let p := getPart s part
  let s := (partCores s part).foldl clearCore s
  let s := dropLeaves s part fun _ => true
  let s := flushPart s part failing
  let ls := (s.launches.filter fun e => e.2.part = part && !ended e.2).map (·.1)
  let s := ls.foldl (fun s l => failLaunch s l cause false 0) s
  let p := getPart s part
  tellCode (setPart' s part { p with resets := min 0xFFFF (p.resets + 1) }) cause

/-- DESTROY (R413): the partition's launches fail, and its cores and regions are free; what DRAM holds of a secure partition stays
encrypted (R414). -/
def execDestroy (c : RootCmd) (handle : Nat) (s : State) : Outcome :=
  command s c (hypervisor c) fun s =>
    match namedPart s c handle with
    | none => tellCode s 0x349
    | some part =>
      let p := getPart s part
      let mine := partCores s part
      let s := mine.foldl clearCore s
      let s := flushPart (dropLeaves s part fun _ => true) part none
      let s := ((s.launches.filter fun e => e.2.part = part && !ended e.2).map (·.1)).foldl (fun s l => failLaunch s l 0x31D false 0) s
      let s := mine.foldl (fun s k => let c := getCore s k; setCore s k { spares := c.spares, retired := c.retired, clock := c.clock }) s
      let s := { s with mem := sealUnits s.mem p, root := { s.root with harvests := s.root.harvests.filter (·.part ≠ part) } }
      tellCode (setPart' s part {}) 0

/-- QSET (R349, R418). -/
def execQset (c : RootCmd) (handle : Nat) (value : Dword) (s : State) : Outcome :=
  command s c (hypervisor c) fun s =>
    match namedPart s c handle with
    | none => tellCode s 0x349
    | some part =>
      let p := getPart s part
      let q := value.toNat % 2 ^ 28
      let others := s.parts.foldl (fun n e => if e.2.used ∧ e.1 ≠ part then n + e.2.q else n) 0
      let leads := (s.parts.filter fun e => e.2.used).length
      if q > polMaxQ (policyOf s p.policy) then tellCode s 0x346
      else if others + q > (2048 - leads) * 65536 then tellCode s 0x31C
      else tellCode (setPart' s part { p with q := q, ben := value.getLsbD 63 }) 0

/-! ### Harvest (R411) -/

/-- Entries of a partition's log. -/
def logBytes (s : State) (p : Partition) (lo hi : Nat) : List Byte :=
  (List.range (hi - lo)).flatMap fun i => Memory.readN s.mem (p.logBase + 32 * ((lo + i) % 2 ^ p.logK)) 32

/-- A walk's reply range counted as written in or before a cycle, and its stores are not yet acknowledged: the walk stands in its queue or
its slot until they are (R221, R410). -/
def replyPending (c : Core) (cycle : Nat) : Bool :=
  let earlier (m : Cmd) : Bool := m.joined ≤ cycle && (pw m.packet 0).toNat % 256 = 1 && (walkCmd m.packet).rmode
  (c.queue 16).q.any earlier || c.walks.any fun w => earlier w.2.cmd

/-- Whether a write of a partition that was translated before a harvest's reset is unacknowledged. -/
def writesPending (s : State) (h : Harvest) : Bool :=
  (s.reqs.any fun r => r.1 < h.limit && r.2.update && (getCore s r.2.core).part = some h.part
      && r.2.parts.any fun p => p.phase ≠ .done && !p.unplaced)
    || (partCores s h.part).any fun k => replyPending (getCore s k) h.cycle

/-- Harvests whose writes are acknowledged return their entries, and OVF behind them. -/
def finishHarvests (s : State) : State :=
  let (wait, done_) := s.root.harvests.partition (writesPending s)
  done_.foldl (fun s h =>
    let p := getPart s h.part
    let s := tell s { code := 0, handle := p.handle, data := logBytes s p p.logHead h.tail ++ [.ofNat 8 p.ovf.toNat] }
    setPart' s h.part { p with logHead := max p.logHead h.tail, ovf := false }) { s with root := { s.root with harvests := wait } }

/-- HARVEST (R411, R418). -/
def execHarvest (c : RootCmd) (handle : Nat) (s : State) : Outcome :=
  command s c (hypervisor c) fun s =>
    match namedPart s c handle with
    | none => tellCode s 0x349
    | some part =>
      if !polFlag (policyOf s (getPart s part).policy) 1 then tellCode s 0x346
      else
        let s := (partCores s part).foldl depositCore s
        let h : Harvest := { part := part, tail := (getPart s part).logTail, limit := s.nextReq, cycle := s.cycle }
        finishHarvests { s with root := { s.root with harvests := s.root.harvests ++ [h] } }

/-- KEY_EXPORT (R416): the key of a partition goes to an attested peer root only. -/
def execKeyExport (c : RootCmd) (handle : Nat) (peerAttested : Bool) (s : State) : Outcome :=
  command s c (hypervisor c) fun s =>
    match namedPart s c handle with
    | none => tellCode s 0x349
    | some part =>
      let p := getPart s part
      if peerAttested ∧ p.secure then tell s { code := 0, handle := handle, data := Config.wrappedKey p.keyix } else tellCode s 0x346

end Sys2Proof.Machine
end

