-- ==== Sys2Proof/Machine/Service.lean ====
section
/-! DEFINITION. The host link (R318, R414, R425 to R427), peers (R412, R429), features and bring-up (R432, R433), service
(R434, R435), and errors (R415). -/

namespace Sys2Proof.Machine

open Sys2Proof

/-! ## The host link -/

/-- The partition whose tag and world a host request carries: one that comes through a TDI that is locked or running (R414). -/
def hostWorld (s : State) (tdi : Option Nat) : Option Nat := tdi.filter fun p => (getPart s p).used && ((getPart s p).tdi = 1 || (getPart s p).tdi = 2)

/-- The core number of a host request: that of no core. -/
def hostCore : Nat := 4096

/-- A host port sends pieces of bytes, each within a line, to their homes, with the link's clock (R318, R425, R439). An address without a
home is not performed; host memory answers with nothing that the module holds. -/
def hostSend (s : State) (port : Nat) (w : Option Nat) (op : MemOp) (ps : List (Nat × List Byte)) : State :=
  let id := s.nextReq
  let parts : List Part := (List.zip (List.range ps.length) ps).filterMap fun e =>
    match homeOf s e.2.1 with
    | .ok (.remote _) | .ok (.host _) | .error _ => none
    | .ok h => some { lane := e.1, va := e.2.1, pa := e.2.1, n := e.2.2.length, home := h, data := .ofNat 128 (leNat e.2.2),
                      bulk := if e.2.2.length > 16 then e.2.2 else [], phase := .travelling (s.cycle + hostTravel port h) }
  let r : Req := { core := hostCore, unit := 0, slot := 0, op := op, posted := false, reuse := .normal, noalloc := false, laneBits := 128,
                   sink := .nul, parts := parts, pts := s.hostClock, update := false, born := s.cycle, link := some port, tag := w.getD noPart }
  { setReq s id r with nextReq := id + 1 }

/-- What the host writes to its own memory is there at once: how the host orders its own accesses is its own concern (R318). -/
def hostOwn (s : State) (ps : List (Nat × List Byte)) : State :=
  { s with mem := ps.foldl (fun m p => if spaceOf p.1 = .host then Memory.writeN m p.1 p.2 else m) s.mem }

/-- A doorbell of the partition in whose locked TDI it lies (R426). -/
def bellOf (s : State) (w : Option Nat) (d : Nat) : Option (Nat × Doorbell) :=
  w.map fun p => (p, tget {} (getPart s p).doorbells d)

/-- HOST_WRITE (R6, R318, R414, R426): the status word of a doorbell is read only. -/
def execHostWrite (via : HostVia) (t : HostTarget) (s : State) : Outcome :=
  let w := hostWorld s via.tdi
  match t with
  | .memory pa data =>
    let ps := linePieces data.length pa data
    .next (hostSend (hostOwn s ps) via.port w .store ps)
  | .staging d payload =>
    match bellOf s w d with
    | some (p, x) =>
      if d < 64 then .next (setPart' s p { getPart s p with doorbells := tput (getPart s p).doorbells d { x with staging := payload } })
      else .next s
    | none => .next s
  | .status _ _ => .next s

/-- HOST_READ (R6, R414, R426): the bytes go to the host; a doorbell's payload and trigger are write only and read zero. -/
def execHostRead (via : HostVia) (t : HostSource) (s : State) : Outcome :=
  let w := hostWorld s via.tdi
  let answer (d : Nat) (f : Doorbell → List Byte) : Outcome :=
    match bellOf s w d with
    | some (_, x) => .next (tell s { code := 0, data := f x })
    | none => .next s
  match t with
  | .memory pa n => .next (hostSend s via.port w .load (linePieces n pa (List.replicate n 0)))
  | .doorbell d => answer d fun x => leBytes 4 (64 - x.toks.length) ++ leBytes 4 x.dropped
  | .payload d => answer d fun _ => List.replicate 16 0
  | .trigger d => answer d fun _ => List.replicate 8 0

/-- An attachment uses an ingress source. -/
def ingressUsed (s : State) (part source : Nat) : Bool := s.edges.any fun e => e.src = .ingress part source

/-- DOORBELL_TRIGGER (R426): a token, or a count of what was dropped; it wakes control elements that sleep for it (R181). -/
def execDoorbellTrigger (part source : Nat) (tag : BitVec 3) (s : State) : Outcome :=
  let p := getPart s part
  let d : Doorbell := tget {} p.doorbells source
  if !p.used ∨ 64 ≤ source then .next s
  else
    let d := if 64 ≤ d.toks.length ∨ !ingressUsed s part source then { d with dropped := min (2 ^ 32 - 1) (d.dropped + 1) }
      else { d with toks := d.toks ++ [⟨⟨d.staging, tag⟩, s.nextReq, s.hostClock⟩] }
    let s := setPart' s part { p with doorbells := tput p.doorbells source d }
    .next ((partCores s part).foldl (fun s k => sleepEvent s k 2) s)

/-- EGRESS_RING_SETUP (R427). -/
def execEgressRingSetup (part base k : Nat) (s : State) : Outcome :=
  let p := getPart s part
  if p.used ∧ base % 4096 = 0 ∧ 6 ≤ k ∧ k ≤ 16 ∧ spaceOf base = .host ∧ spaceOf (base + 32 * 2 ^ k - 1) = .host then
    .next (setPart' s part { p with ring := some (base, k), ringSeq := 0, ringFreed := 0 })
  else .next s

/-- EGRESS_HEAD_WRITE (R427): entries released so far. -/
def execEgressHeadWrite (part released : Nat) (s : State) : Outcome :=
  let p := getPart s part
  if p.ringFreed ≤ released ∧ released ≤ p.ringSeq then .next (setPart' s part { p with ringFreed := released }) else .next s

/-- TDISP_REQUEST (R425): the lock, run and error states of a partition's TDI. -/
def execTdispRequest (part : Nat) (r : TdispReq) (s : State) : Outcome :=
  let p := getPart s part
  if !p.used ∨ !feature s 3 then .next s
  else
    let t := match r, p.tdi with
      | .lock, 0 => 1 | .start, 1 => 2 | .stop, _ => 0 | .error, 0 => 0 | .error, _ => 3 | _, t => t
    .next (setPart' s part { p with tdi := t })

/-! ## Peers -/

/-- The Broddor port to which a module's traffic comes: the manual does not say which of the 48 (DESIGN CHOICE, log entry 50). -/
def peerPort (mod : Nat) : Nat := mod % 48

/-- The clock of a peer's port is raised by a timestamp that came in there (R312). -/
def raisePeer (s : State) (mod : Nat) (ts : Stamp) : State :=
  { s with peerClock := tput s.peerClock (peerPort mod) (tsMax (tget ts s.peerClock (peerPort mod)) ts) }

/-- An answer to a peer. -/
def answerPeer (s : State) (mod : Nat) (a : PeerReply) : State := { s with sent := s.sent ++ [(mod, a)] }

/-- The partition that a remote request concerns. -/
def peerTarget (s : State) (pa : Nat) : PeerOp → Option Nat
  | .barArrive core _ _ _ | .barWait core _ _ => (getCore s core).part
  | _ => ownerOf s pa

/-- The bytes that an operation returns, with its cause and its timestamps (R312). -/
def peerReply (s : State) (mod : Nat) (a : Answer) : State :=
  answerPeer (raisePeer s mod a.ts) mod { code := a.cause, data := a.value, seq := a.seq, ts := a.ts, wts := a.wts, rts := a.rts }

/-- A peer's arrival at a barrier of this module (R168): without an expected count it is dropped, and the home core's control element takes
0x140, which names the sending core (R379). -/
def peerArrive (s : State) (mod core bar count sender : Nat) (ts : Stamp) : State :=
  if ((getCore s core).bar bar).expected = 0 then
    answerPeer (raiseTrap s core { kind := 2, src := 19, cause := 0x140, detail := .ofNat 128 (bar + sender * 2 ^ 16) }) mod { code := 0, ts := ts }
  else answerPeer (countArrivals s core bar count ts).1 mod { code := 0, ts := ts }

/-- A peer's wait at a barrier of this module: its word goes out at completion (R168). -/
def peerWait (s : State) (mod core bar : Nat) (ph : BitVec 16) (ts : Stamp) : State :=
  let b := (getCore s core).bar bar
  if b.expected = 0 then answerPeer s mod { code := 0x140, ts := ts }
  else
    let d := (b.phase - ph).toNat
    let w : Wait := { unit := 0, kind := .barFull bar ph (2 ≤ d && d ≤ 0x7FFF), sink := .nul, peer := some mod }
    let c := getCore s core
    let id := s.stamps
    let s := { setCore s core { c with waits := tput c.waits id w } with stamps := id + 1 }
    if waitHolds c 0 w.kind then finishWait s core id w else s

/-- A peer's monitor at a slice of this module: its wake-up word goes out when it completes (R161). -/
def peerMonitor (s : State) (mod part pa n : Nat) (expect : Quad) (h : Home) (ts : Stamp) : State :=
  match h with
  | .slice k =>
    let id := s.nextReq
    match armMonitor { s with nextReq := id + 1 } id k part pa n (expect.toNat % 2 ^ (8 * n)) ts (some mod) with
    | (s, some a) => peerReply s mod a
    | (s, none) => s
  | _ => answerPeer s mod { code := 0x099, ts := ts }

/-- A remote access performed for its partition. -/
def peerAccess (s : State) (h : Home) (part pa : Nat) (op : PeerOp) (ts : Stamp) : State × Answer :=
  match op with
  | .load n => performRead s h part pa n .normal false ts
  | .store d | .pstore d => performWrite s h part pa d .normal false ts
  | .atom o v => performRmw s h part pa (AtomOp.bytes o) (.atom o) v.toNat 0 ts
  | .cas n e v => performRmw s h part pa n .cas v.toNat e.toNat ts
  | _ => (s, {})

/-- A remote request performed for its partition. -/
def performPeer (s : State) (mod part pa : Nat) (ts : Stamp) (op : PeerOp) : State :=
  match op with
  | .barArrive core bar count sender => peerArrive s mod core bar count sender ts
  | .barWait core bar ph => peerWait s mod core bar ph ts
  | op =>
    match homeOf s pa with
    | .ok (.host _) | .ok (.remote _) | .error _ => answerPeer s mod { code := 0x345, ts := ts }
    | .ok h =>
      match op with
      | .monarm n e => peerMonitor s mod part pa n e h ts
      | op =>
        let (s, a) := peerAccess s h part pa op ts
        peerReply s mod a

/-- A request of a peer waits: its address is held by a domain change (R305), its home lies in a quiesced stack (R435), or one of the same
module waits before it (R306). -/
def peerHeld (s : State) (q : PeerAsk) : Bool :=
  (match q.op with
    | .barArrive _ _ _ _ | .barWait _ _ _ => false
    | _ => heldByDomain s q.pa || match homeOf s q.pa with | .ok h => heldByService s h | .error _ => false)
    || s.peerAsks.any (·.mod = q.mod)

/-- A request of a peer: incarnation, then policy, then what it asks (R412, R418). -/
def peerRequest (s : State) (q : PeerAsk) : State :=
  let now := tget 0 s.peerClock (peerPort q.mod)
  if q.inc ≠ s.inc then answerPeer s q.mod { code := 0x3A2, ts := now }
  else match peerTarget s q.pa q.op with
    | some part =>
      if peerAllowed s part q.mod then performPeer s q.mod part q.pa now q.op
      else answerPeer s q.mod { code := 0x345, ts := now }
    | none => answerPeer s q.mod { code := 0x345, ts := now }

/-- A request of a peer is taken up, or waits. -/
def takePeer (s : State) (q : PeerAsk) : State := if peerHeld s q then { s with peerAsks := s.peerAsks ++ [q] } else peerRequest s q

/-- The requests of peers that waited are taken up anew. -/
def retryPeers (s : State) : State := s.peerAsks.foldl takePeer { s with peerAsks := [] }

/-- REMOTE_REQUEST (R412, R418): the port's clock takes on the request's timestamp (R312). The largest MTS that a module sends asks for
nothing (R314). -/
def execRemoteRequest (mod : BitVec 14) (inc : BitVec 16) (place : PeerPlace) (op : PeerOp) (s : State) : Outcome :=
  if op = .largestMts then .next (takeLargest s place.ts)
  else .next (takePeer (raisePeer s mod.toNat place.ts) ⟨mod.toNat, inc, place.pa.toNat, place.ts, op⟩)

/-- The valid marks of the entries that name a module, set where `ok` says so (R412). -/
def Port.remark (p : Port) (mod : Nat) (ok : Win → Bool) : Port :=
  { p with wins := p.wins.map fun w => if w.2.rem ∧ w.2.mod = mod then (w.1, { w.2 with mark := ok w.2 }) else w }
def remark (s : State) (mod : Nat) (ok : Win → Bool) : State :=
  { s with cores := s.cores.map fun k => (k.1, { k.2 with ports := k.2.ports.map fun p => (p.1, p.2.remark mod ok) }) }

/-- LINK_LOSS (R412). -/
def execLinkLoss (mod : BitVec 14) (s : State) : Outcome :=
  .next (remark { s with links := tput s.links mod.toNat { tget {} s.links mod.toNat with up := false } } mod.toNat fun _ => false)

/-- A request's accesses that wait for a module. -/
def Req.awaits (r : Req) (mod : Nat) : Nat :=
  (r.parts.filter fun p => match p.home, p.phase with | .remote m, .travelling _ => m = mod | _, _ => false).length

/-- The state an outcome goes on with. -/
def onward (s : State) : Outcome → State
  | .next t => t
  | _ => s

/-- LINK_TIMEOUT (R412, R430): 2 ms after a loss, what waits for the module ends, and entries installed since lose their marks too. -/
def execLinkTimeout (mod : BitVec 14) (s : State) : Outcome :=
  if (tget {} s.links mod.toNat : Link).up then .next s
  else .next (s.reqs.foldl (fun s r =>
    (List.range (r.2.awaits mod.toNat)).foldl (fun s _ => onward s (execReplyArrival r.1 (some .lost) s)) s)
    (remark s mod.toNat fun _ => false))

/-- LINK_RESTORED (R412): where the module has come back with the incarnation that an entry names, the next use is performed, its mark
set again. -/
def execLinkRestored (mod : BitVec 14) (inc : BitVec 16) (s : State) : Outcome :=
  .next (remark { s with links := tput s.links mod.toNat { up := true, inc := inc.toNat } } mod.toNat fun w => w.inc = inc.toNat)

/-- DOMAIN_JOIN (R429): identifiers from 9,216 upward are never assigned. -/
def execDomainJoin (id : BitVec 14) (s : State) : Outcome :=
  if id.toNat < 9216 then .next { s with moduleId := some id.toNat } else .next s

/-! ## Features and bring-up -/

/-- FEATACK_WRITE (R432): from stage 2 until the first partition is created. -/
def execFeatackWrite (value : BitVec 256) (s : State) : Outcome :=
  if s.root.stage < 2 ∨ s.root.created then .next s
  else if value &&& ~~~(Config.featdev &&& 0x1FF) ≠ 0 then .next (tellCode s 0x3B2)
  else .next (tellCode { s with root := { s.root with featack := value } } 0)

/-- POWER_ON (R433): the root boots; a failed verification holds the module in stage 1. -/
def execPowerOn (verified : Bool) (s : State) : Outcome :=
  .next { s with root := { s.root with booted := s.root.booted || verified } }

/-- Every core of a stack is out of use. -/
def retireCores (s : State) (stack : Nat) : State :=
  (List.range 256).foldl (fun s i => let k := 256 * stack + i; setCore s k { getCore s k with retired := true }) s

/-- Bits of a byte. -/
def bitsOf (b : Byte) : List Nat := (List.range 8).filter fun i => b.getLsbD i

/-- STAGE_ADVANCE (R433): stage 2, then stage 3, where stacks that fail to start are retired. -/
def execStageAdvance (badstk : Byte) (s : State) : Outcome :=
  if !s.root.booted then .next s
  else if s.root.stage = 1 then .next { s with root := { s.root with stage := 2 } }
  else if s.root.stage = 2 then
    .next ((bitsOf badstk).foldl retireCores { s with root := { s.root with stage := 3, badstk := s.root.badstk ||| badstk } })
  else .next s

/-- BSTAT (R433). -/
def bstat (s : State) : Word :=
  .ofNat 32 (s.root.badstk.toNat * 2 ^ 16 + (s.root.spareChannels.foldl (fun n e => n + e.2) 0) % 2 ^ 12 * 2 ^ 4 + s.root.stage % 4)

/-- FLASH_UPDATE (R433): in stage 1, with an image that verifies. -/
def execFlashUpdate (image : List Byte) (verified : Bool) (s : State) : Outcome :=
  if s.root.stage = 1 ∧ verified then .next (tellCode { s with root := { s.root with flash := image } } 0) else .next s

/-- SPDM_REQUEST (R433, R416, R425): attestation, a session, or the keying of an IDE stream. -/
def execSpdmRequest (r : SpdmReq) (s : State) : Outcome :=
  match r with
  | .attest => .next { s with root := { s.root with attested := s.root.attested + 1 } }
  | .openSession n => .next (if n = 0 then s else { s with root := { s.root with sessions := tput s.root.sessions n 0 } })
  | .keyStream port stream =>
    .next (if port < 2 ∧ stream < 8 ∧ !s.root.keyed.contains (port, stream) then
      { s with root := { s.root with keyed := s.root.keyed ++ [(port, stream)] } } else s)

/-- MODULE_RESET (R412): the machine after reset, its incarnation one higher; memory, flash and retired parts stay. -/
def execModuleReset (s : State) : Outcome :=
  .next { State.reset with
    inc := s.inc + 1, inbox := s.inbox, mem := s.mem, poison := s.poison
    cores := (s.cores.filter fun k => k.2.retired || k.2.spares ≠ 0).map fun k => (k.1, ({ spares := k.2.spares, retired := k.2.retired } : Core))
    root := { flash := s.root.flash, badstk := s.root.badstk, spareChannels := s.root.spareChannels } }

/-! ## Service (R434, R435) -/

/-- A service command of the hypervisor: refused with 0x3B8 where its conditions fail. -/
def serve (s : State) (c : RootCmd) (ok : State → Bool) (act : State → State) : Outcome :=
  command s c (hypervisor c) fun s => if feature s 8 ∧ ok s then tellCode (act s) 0 else tellCode s 0x3B8

def quiet (s : State) (stack : Nat) : Bool := s.root.quiesced.contains stack
def unquiet (s : State) (stack : Nat) : State := { s with root := { s.root with quiesced := s.root.quiesced.filter (· ≠ stack) } }

/-- QUIESCE: every launch with a core in the stack is suspended by kerf, and requests to it are held. -/
def execQuiesce (c : RootCmd) (stack : Fin 8) (s : State) : Outcome :=
  serve s c (fun s => !quiet s stack && !s.root.badstk.getLsbD stack) fun s =>
    let ls := s.launches.filter fun e => e.2.stage = .running && e.2.cores.any fun k => k / 256 = stack.val
    ls.foldl (fun s e => beginKerf s e.1 0) { s with root := { s.root with quiesced := s.root.quiesced ++ [stack.val] } }

/-- RECAL: the channels are calibrated afresh, and held requests go on. -/
def execRecal (c : RootCmd) (stack : Fin 8) (s : State) : Outcome := serve s c (fun s => quiet s stack) fun s => unquiet s stack

/-- UPDATE: verified firmware goes into the base die, and held requests go on. -/
def execUpdate (c : RootCmd) (stack : Fin 8) (_firmware : List Byte) (verified : Bool) (s : State) : Outcome :=
  serve s c (fun s => quiet s stack && verified) fun s => unquiet s stack

/-- RETIRE: no interleave domain and no partition region covers the stack. -/
def execRetire (c : RootCmd) (stack : Fin 8) (s : State) : Outcome :=
  let free (s : State) : Bool :=
    !(s.idt.any fun e => idtValid e.2 && (idtSlices e.2).any fun n => stackOfRouter (routerOfSlice n) = stack.val)
      && !(s.parts.any fun e => e.2.used && e.2.cores.any fun k => k / 256 = stack.val)
  serve s c free fun s => retireCores { unquiet s stack with root := { (unquiet s stack).root with badstk := s.root.badstk ||| 1#8 <<< stack.val } } stack

/-- SPARE_REPLACE (R10, R434): a spare takes on the number and the state; a core without one is retired, a channel waits for its
stack to be quiesced. -/
def execSpareReplace (u : SpareUnit) (s : State) : Outcome :=
  match u with
  | .element core _ =>
    let c := getCore s core
    .next (setCore s core (if c.spares < 2 then { c with spares := c.spares + 1 } else { c with retired := true }))
  | .channel n =>
    let k := n / 128
    let used := tget 0 s.root.spareChannels k
    if (quiet s k ∨ s.root.stage < 3) ∧ used < 8 then
      .next { s with root := { s.root with spareChannels := tput s.root.spareChannels k (used + 1) } }
    else .next s

/-! ## Errors (R415, R225) -/

/-- SOFT_ERROR. -/
def execSoftError (parts : List Nat) (s : State) : Outcome :=
  .next (parts.foldl (fun s p => let x := getPart s p; if x.used then setPart' s p { x with soft := x.soft + 1 } else s) s)

/-- The routers at which a partition's traffic begins and ends: those of its cores, and of the slices that serve its memory. -/
def endRouters (s : State) (p : Partition) : List Nat :=
  p.cores.map routerOfCore ++ p.units.flatMap fun u => (rangeSlices s.idt (u * 2 ^ 28) (u * 2 ^ 28 + 2 ^ 28 - 1)).map routerOfSlice

/-- The routers that a partition's network crosses. A route within a stack joins its two ends directly; one between two stacks passes some
third router of the two, and traffic spreads over all such paths, so that it may cross any router of the stacks (R438; DEDUCED, log entry
51). -/
def networkOf (s : State) (p : Partition) : List Nat :=
  let ends := endRouters s p
  let within := (ends.map stackOfRouter).eraseDups
  if within.length ≤ 1 then ends else (List.range 128).filter fun r => within.contains (stackOfRouter r)

/-- Walks that stand at a failed slice, or migrate to it, end LOST. -/
def loseWalks (s : State) (n : Nat) : State :=
  s.cores.foldl (fun s k => k.2.walks.foldl (fun s w =>
    if w.2.waiting ≤ 2 ∧ (w.2.slice = n ∨ (w.2.waiting = 2 ∧ w.2.target = n)) then endWalk s k.1 w.1 w.2 6 0x289 0 [] else s) s) s

/-- UNCORRECTABLE_ERROR (R225, R415). -/
def execUncorrectableError (u : ErrorUnit) (s : State) : Outcome :=
  match u with
  | .part p => .next (if (getPart s p).used then resetPartition s p 0x3C0 none else s)
  | .router r =>
    let ps := (s.parts.filter fun e => e.2.used && (networkOf s e.2).contains r).map (·.1)
    .next (ps.foldl (fun s p => resetPartition s p 0x3C3 none) s)
  | .slice n =>
    let ps := (s.parts.filter fun e => e.2.used && (getSlice s n).lines.any fun l => l.2.part = e.1).map (·.1)
    let s := ps.foldl (fun s p => resetPartition s p 0x3C0 (some n)) s
    .next (loseWalks (setSlice s n { getSlice s n with failed := true }) n)

end Sys2Proof.Machine
end

