-- ==== Sys2Proof/Machine/SyncFire.lean ====
section
/-! DEFINITION. Barriers, timelines, counting waits and fences at firing (R162 to R166): operands are checked, and
what each waits for or releases from its V on is set down. -/

namespace Sys2Proof.Machine

open Sys2Proof

/-- A barrier number, or none above 2,047 (R162). -/
def barNum (q : Quad) : Option Nat := if lo64 q < 2048 then some (lo64 q) else none

/-- An arrival or expected count of R162: 1 to 4,095 with nothing above bit 11 set. -/
def barCount (q : Quad) : Option Nat := if 1 ≤ lo64 q ∧ lo64 q < 4096 then some (lo64 q) else none

/-- An expected count: only bits 11:0 are read, and zero is out of range (R162). -/
def barExpected (q : Quad) : Option Nat := if q.toNat % 4096 = 0 then none else some (q.toNat % 4096)

/-- An instruction that starts a wait or a release: its sink stays pending until it completes (R20). -/
def fireWait (s : State) (i : Instr) (d : Dst) (a : Src) (f : Elem → Except (Cause × Dword) (List Act × (Sink → Act))) :
    Outcome :=
  fire s i 1 fun e ticket =>
    match f e with
    | .error c => .error c
    | .ok (acts, w) =>
      .ok { acts := acts ++ [w (replySink ticket d (tagOf e s.cycle a))], keepD := Dst.bits d }

def execBarArr (d : Dst) (a : Src) (s : State) : Outcome :=
  fireWait s (.barArr d a) d a fun e =>
    match barNum (readSrc e s.cycle a) with
    | none => .error (0x141, 0)
    | some b => .ok ([], .wait (.arrive b 1 []))

def execBarArrN (d : Dst) (a b : Src) (s : State) : Outcome :=
  fireWait s (.barArrN d a b) d a fun e =>
    match barNum (readSrc e s.cycle a), barCount (readSrc e s.cycle b) with
    | none, _ => .error (0x141, 0)
    | _, none => .error (0x144, 0)
    | some k, some n => .ok ([], .wait (.arrive k n []))

def execBarArrInit (d : Dst) (a b : Src) (s : State) : Outcome :=
  fireWait s (.barArrInit d a b) d a fun e =>
    match barNum (readSrc e s.cycle a), barExpected (readSrc e s.cycle b) with
    | none, _ => .error (0x141, 0)
    | _, none => .error (0x144, 0)
    | some k, some n => .ok ([], .initBar k n)

/-- bar.wait.full: lateness is found at firing, and written to its predicate at V (R163). -/
def lateBy (phase ph : BitVec 16) : Bool := 2 ≤ (phase - ph).toNat && (phase - ph).toNat ≤ 0x7FFF

def execBarWaitFull (d : Dst) (a b : Src) (p : Fin 8) (s : State) : Outcome :=
  let core := match s.actor with | .unit u _ _ => u.core | _ => 0
  fireWait s (.barWaitFull d a b p) d a fun e =>
    match barNum (readSrc e s.cycle a) with
    | none => .error (0x141, 0)
    | some k =>
      let ph := (readSrc e s.cycle b).setWidth 16
      let late := lateBy ((getCore s core).bar k).phase ph
      .ok (if p = 0 then [] else [.p (predBit p) (if late then predBit p else 0)], .wait (.barFull k ph late))

def execBarWaitPar (d : Dst) (a b : Src) (s : State) : Outcome :=
  let core := match s.actor with | .unit u _ _ => u.core | _ => 0
  fireWait s (.barWaitPar d a b) d a fun e =>
    match barNum (readSrc e s.cycle a) with
    | none => .error (0x141, 0)
    | some k => .ok ([], .wait (.barPar k ((readSrc e s.cycle b).setWidth 16) ((getCore s core).bar k).phase))

def execTlWait (k : Fin 16) (d : Dst) (a : Src) (s : State) : Outcome :=
  fireWait s (.tlWait k d a) d a fun e => .ok ([], .wait (.timeline k ((readSrc e s.cycle a).setWidth 64)))

/-- tl.sig on an engine's timeline traps 0x142 (R164). -/
def execTlSig (k : Fin 16) (d : Dst) (a : Src) (s : State) : Outcome :=
  fireWait s (.tlSig k d a) d a fun e =>
    if k.val < 8 then .error (0x142, 0) else .ok ([], .wait (.signal k ((readSrc e s.cycle a).setWidth 64) []))

def execCwait (d : Dst) (n : BitVec 8) (s : State) : Outcome :=
  fireWait s (.cwait d n) d .zero fun _ => .ok ([], .wait (.count n.toNat))

def execFence (sc : Scope) (d : Dst) (s : State) : Outcome :=
  fireWait s (.fence sc d) d .zero fun _ => .ok ([], .wait (.fence sc [] 0 0 false))

end Sys2Proof.Machine
end

