-- ==== Sys2Proof/Machine/TrapTake.lean ====
section
/-! DEFINITION. TRAP_TAKEN: which trap a control element takes and when (R175, R176), and its escalation (R377). -/

namespace Sys2Proof.Machine

open Sys2Proof

/-- Whether an entry is taken before another. -/
def TrapEntry.before (t u : TrapEntry) : Bool := t.since < u.since || (t.since = u.since && t.rank < u.rank)

/-- The entry of a trap queue that is taken next. -/
def nextEntry (q : List TrapEntry) : Option TrapEntry :=
  q.foldl (fun (b : Option TrapEntry) t =>
    match b with
    | some x => if t.before x then some t else some x
    | none => some t) none

/-- A trap that cannot be taken (R175, R377): the control element stops. At the lead core the partition is reset; at any other the
launch that holds the core fails, and the supervisor is told. -/
def escalate (s : State) (core : Nat) (cause : Cause) : State :=
  let s := setCtl s core { getCtl s core with stopped := true, own := none }
  let part := partOf s core
  if (getPart s part).lead = core then resetPartition s part 0x3C1 none
  else match (getCore s core).launch with
    | some l => failLaunch s l 0x3C1 true (.ofNat 128 (core + cause * 2 ^ 16))
    | none => s

/-- Whether no record fits at TRBASE (R179). -/
def noRecord (x : Ctl) : Bool := x.trbase.toNat > trbaseMax

/-- A sleep in progress completes with TRAP, and with TIMEOUT where its limit expires in the same cycle (R176, R181). -/
def wakeForTrap (s : State) (core : Nat) : State :=
  wakeUp s core ((getCtl s core).sleep.any fun z => z.limit.any (· ≤ s.cycle)) true

/-- The control element's own trap (R175): the record's WORD is the word at EPC, or that of the request for a deferred trap. -/
def takeOwn (s : State) (core : Nat) (o : OwnTrap) : State :=
  if (getCtl s core).hnd ∨ noRecord (getCtl s core) then escalate s core o.cause
  else
    enterHandler (wakeForTrap s core) core (0, 0) (ecauseWord 0 0 o.cause 0 o.deferred) (.ofNat 32 o.pc) o.word o.addr 0 0 0
      o.deferred.toNat o.detail

/-- Whether an entry stands for an instruction at which its element stopped. -/
def TrapEntry.atSlot (t : TrapEntry) : Bool := t.kind = 1 && t.cause ≠ 0x104 && t.cause ≠ 0x00C

/-- A queued trap (R175, R378). -/
def takeQueued (s : State) (core : Nat) (t : TrapEntry) : State :=
  let c := getCore s core
  let s := setCore s core { c with trapq := c.trapq.filter fun x => !(x.kind = t.kind && x.src = t.src) }
  if noRecord c.ctl then escalate s core t.cause
  else
    let e := getElem s ⟨core, t.src⟩
    let element : Bool := t.kind = 1
    enterHandler (wakeForTrap s core) core (t.kind, t.src) (ecauseWord t.kind t.src t.cause t.repeats t.deferred)
      (.ofNat 32 c.ctl.pc) (if t.atSlot then e.slot e.fslot else 0) t.addr (if t.atSlot then e.fslot else 0)
      (if element then t.src / 8 else 0) (if element then t.src % 8 else 0) (t.deferred.toNat + 2 * t.krf.toNat) t.detail

/-- Whether a control element takes queued traps in this cycle: it is in no handler, does not mask them, and fires nothing; a transfer
of control in flight says first which instruction is the next. -/
def takesQueued (s : State) (core : Nat) : Bool :=
  let x := getCtl s core
  let e := getElem s ⟨core, ceIx⟩
  !x.hnd && !x.msk && e.firedAt ≠ some s.cycle && !jumpInFlight e

/-- TRAP_TAKEN (R175, R176): a running control element takes its own trap, or the first of those queued. -/
def execTrapTaken (core : Nat) (s : State) : Outcome :=
  let x := getCtl s core
  if x.stopped ∨ (getElem s ⟨core, ceIx⟩).run ≠ 1 then .next s
  else match x.own with
    | some o => .next (takeOwn s core o)
    | none =>
      if takesQueued s core then
        match nextEntry (getCore s core).trapq with
        | some t => .next (takeQueued s core t)
        | none => .next s
      else .next s

end Sys2Proof.Machine
end

