-- ==== Sys2Proof/Machine/Visible.lean ====
section
/-! DEFINITION. INSTRUCTION_VISIBLE: what an instruction does in its V (R19), and the traps that are detected there
(R21). -/

namespace Sys2Proof.Machine

open Sys2Proof

/-! ## Traps at V (R21) -/

/-- An instruction is cancelled with every one that its unit has fired after it, a sleep among them, and its unit traps. -/
def trapAtV (s : State) (u : UnitId) (f : Flight) (cause : Cause) (addr : Dword) : State :=
  let s := cancelAll s u
  let s := if isCe u then setCtl s u.core { getCtl s u.core with sleep := none } else s
  trapUnit s u f.slot f.word cause addr 0 false

/-- A precise fault that an effect finds in the state of its V: an arrival at a barrier with no expected count, an expected count set
over pending arrivals (R162), a rewire request that cannot be read (R367). -/
def actFault (s : State) (core : Nat) : Act → Option (Cause × Dword)
  | .wait (.arrive b _ _) _ => if ((getCore s core).bar b).expected = 0 then some (0x140, 0) else none
  | .initBar b _ _ => if ((getCore s core).bar b).arrived ≠ 0 then some (0x143, 0) else none
  | .rewire a _ => match lookUp s core a.toNat 64 .read with
    | .ok _ => none
    | .fault _ c => some (c, a)
  | _ => none

/-- The trap that is detected in an instruction's V, if any. -/
def flightFault (s : State) (u : UnitId) (f : Flight) : Option (Cause × Dword) :=
  match f.trap with
  | some c => some (c, 0)
  | none => f.acts.findSome? (actFault s u.core)

/-! ## Effects (R19) -/

/-- The consumed tokens leave their channels. -/
def removeEaten (e : Elem) (m : BitVec 4) (cyc : Nat) : Elem :=
  ([0, 1, 2, 3] : List (Fin 4)).foldl (fun (e : Elem) (n : Fin 4) =>
    if m.getLsbD n then e.setIn n ((e.inCh n).remove cyc) else e) e

/-- The predicates after the trigger's update and the instruction's own writes, in that order. -/
def predsAfter (p : BitVec 8) (f : Flight) : BitVec 8 :=
  f.acts.foldl (fun p a => match a with | .p m v => predWrite p m v | _ => p) (predUpdate p f.pclr f.pset)

/-- The element's own part of a V: tokens, predicates, flags and generator; the pending bits clear, but those that wait for a
reply. -/
def settleFlight (e : Elem) (f : Flight) (cyc : Nat) : Elem :=
  let e := removeEaten e f.consume cyc
  { e with
    p := predsAfter e.p f, fpflg := mergeFlags e.fpflg f.flags, srstate := f.srAfter.getD e.srstate,
    pendD := e.pendD &&& ~~~(f.pendD &&& ~~~f.keepD), pendA := e.pendA &&& ~~~f.pendA, pendP := e.pendP &&& ~~~f.pendP,
    pendLane := e.pendLane && !f.pendLane, lastV := cyc, flights := e.flights.tail }

/-- A release or a fence begins with the updates of its issuer that are not yet acknowledged (R149, R166). -/
def waitFor (s : State) (u : UnitId) : WaitKind → WaitKind
  | .arrive b n _ => .arrive b n (outstanding s u.core u.ix (fun _ => true) false)
  | .signal k n _ => .signal k n (outstanding s u.core u.ix (fun _ => true) false)
  | .fence sc _ d l x => .fence sc (outstanding s u.core u.ix (inScope sc) (sc = .lane)) d l x
  | k => k

/-- An expected count is set; the phase stays (R162). -/
def initBarrier (s : State) (u : UnitId) (bar e : Nat) (sink : Sink) : State :=
  let c := getCore s u.core
  let b := c.bar bar
  writeSink (setCore s u.core (c.setBar bar { b with expected := e })) u sink (arrivalWord b.phase b.phase)

/-- A write through a virtual address is noted for the dirty ranges (R410). -/
def noteAt (s : State) (core va n : Nat) : State :=
  match translate s core va n .write with
  | .ok r => noteWrite s core r n
  | .fault _ _ => s

/-- A command joins its queue (R167): a remote arrival waits for its issuer's earlier updates (R168), WCLR stops its entry from
translating (R407), a walk's reply range counts as written (R410). -/
def enterQueue (s : State) (u : UnitId) (port : Nat) (m : Cmd) : State :=
  let code := (pw m.packet 0).toNat % 256
  let m := if port = 19 ∧ code = 1 then { m with updates := outstanding s u.core u.ix (fun _ => true) false } else m
  let s := joinQueue s u.core port m true
  if 8 ≤ port ∧ port ≤ 11 ∧ code = 2 then clearWin s u.core (port - 8) (fld (pw m.packet 0) 11 8)
  else if port = 16 ∧ code = 1 ∧ (walkCmd m.packet).rmode then
    let b := (walkCmd m.packet).rbase.toNat
    noteAt (noteAt s u.core b 128) u.core (b + 128) 16
  else s

/-- sys.rewire reads its request, one read of 64 bytes (R183, R367): it asks when the bytes have come. -/
def readRewire (s : State) (core slot : Nat) (a : Dword) (sink : Sink) : State :=
  match lookUp s core a.toNat 64 .read, sink with
  | .ok r, .d n =>
    let id := s.nextReq
    let (s, p) := sendPart s core r.port 0 a.toNat 64 0 0 .read .normal false (walkCycles s core a.toNat .read) r
    let q : Req := { core := core, unit := ceIx, slot := slot, word := fetchWord s core slot, op := .load, posted := false, reuse := .normal,
                     noalloc := false, laneBits := 128, sink := .request n, parts := [p], pts := (getCore s core).clock, update := false,
                     born := s.cycle }
    { setReq s id q with nextReq := id + 1 }
  | _, _ => s

/-- One effect of an instruction that becomes visible. -/
def applyAct (u : UnitId) (f : Flight) (s : State) (a : Act) : State :=
  let e := getElem s u
  match a with
  | .d n v => setElem s u (e.setD n v)
  | .a n v => setElem s u (e.setA n v)
  | .p _ _ => s
  | .lane addr bytes => setElem s u (e.laneWrite addr bytes)
  | .out ch ticket t => writeSink s u (.out ch ticket t.tag) t.payload
  | .mem _ => s
  | .wait k sink => beginWait s u f (waitFor s u k) sink
  | .initBar b n sink => initBarrier s u b n sink
  | .command port m => enterQueue s u port m
  | .jump pc => setCtl s u.core { getCtl s u.core with pc := pc }
  | .sys (.write n v) => writeSysReg s u.core n.toNat v
  | .sys .eret => leaveHandler s u.core
  | .sysread n sink => writeSink s u sink ((readSysReg s u.core n.toNat).setWidth 128)
  | .rewire addr sink => readRewire s u.core f.slot addr sink
  | .layoutv l sink => writeSink s u sink (layoutWord s l)
  | .doneReport => countDone s u.core
  | .cursorStep =>
    let x := getCtl s u.core
    setCtl s u.core { x with sccur := dword ((x.sccur.toNat + x.scstr.toNat) % 2 ^ 32) }

/-- The memory request of an instruction, if it makes one. -/
def flightMem (f : Flight) : Option MemSpec := f.acts.findSome? fun a => match a with | .mem m => some m | _ => none

/-- An instruction whose request, if any, has been accepted becomes visible. -/
def showFlight (s : State) (u : UnitId) (f : Flight) : State :=
  f.acts.foldl (applyAct u f) (setElem s u (settleFlight (getElem s u) f s.cycle))

/-- What happens to the oldest instruction in flight of a unit in its V: it traps (R21), its acceptance waits for a translation or for
the repair queue (R147, R152), or its effects become visible. -/
def visibleNow (s : State) (u : UnitId) (f : Flight) : State :=
  match flightFault s u f with
  | some (c, a) => trapAtV s u f c a
  | none =>
    match flightMem f with
    | none => showFlight s u f
    | some m =>
      match acceptMem s u f m with
      | .ok s => showFlight s u f
      | .trap c va => trapAtV s u f c (.ofNat 64 va)
      | .hold => s
      | .walk n =>
        let e := getElem s u
        setElem s u { e with flights := { f with walked := true, vis := s.cycle + n } :: e.flights.tail }

/-- INSTRUCTION_VISIBLE (R19, R21): the oldest instruction of a unit between its firing and its V, where its V has come. -/
def execInstructionVisible (u : UnitId) (s : State) : Outcome :=
  match (getElem s u).flights with
  | f :: _ => .next (if f.vis ≤ s.cycle then visibleNow s u f else s)
  | [] => .next s

end Sys2Proof.Machine
end

