-- ==== Sys2Proof/Machine/Dispatch.lean ====
section
/-! DEFINITION. One arm per instruction: its meaning, or its refusal by name. -/

namespace Sys2Proof.Machine

open Sys2Proof

/-- The meaning of every step of the machine. -/
def exec (i : Instr) (s : State) : Host.Outcome State Fault Refusal :=
  match i with
  | .mov d a => Sys2Proof.Machine.execMov d a s
  | .movi d imm => Sys2Proof.Machine.execMovi d imm s
  | .lit lf d v => Sys2Proof.Machine.execLit lf d v s
  | .fwd base a b => Sys2Proof.Machine.execFwd base a b s
  | .tagset d a tag => Sys2Proof.Machine.execTagset d a tag s
  | .dup mask a => Sys2Proof.Machine.execDup mask a s
  | .drop a => Sys2Proof.Machine.execDrop a s
  | .pset p v => Sys2Proof.Machine.execPset p v s
  | .psetNz p a => Sys2Proof.Machine.execPsetNz p a s
  | .psetZ p a => Sys2Proof.Machine.execPsetZ p a s
  | .plog p pa pb tt => Sys2Proof.Machine.execPlog p pa pb tt s
  | .sel d a b p neg => Sys2Proof.Machine.execSel d a b p neg s
  | .tagget d a => Sys2Proof.Machine.execTagget d a s
  | .done d a => Sys2Proof.Machine.execDone d a s
  | .add lt d a b => Sys2Proof.Machine.execAdd lt d a b s
  | .sub lt d a b => Sys2Proof.Machine.execSub lt d a b s
  | .addi d a imm => Sys2Proof.Machine.execAddi d a imm s
  | .mul lt d a b => Sys2Proof.Machine.execMul lt d a b s
  | .mulh lt d a b => Sys2Proof.Machine.execMulh lt d a b s
  | .mad lt d a b => Sys2Proof.Machine.execMad lt d a b s
  | .div lt d a b => Sys2Proof.Machine.execDiv lt d a b s
  | .rem lt d a b => Sys2Proof.Machine.execRem lt d a b s
  | .and lt d a b => Sys2Proof.Machine.execAnd lt d a b s
  | .or lt d a b => Sys2Proof.Machine.execOr lt d a b s
  | .xor lt d a b => Sys2Proof.Machine.execXor lt d a b s
  | .andn lt d a b => Sys2Proof.Machine.execAndn lt d a b s
  | .shl lt d a b => Sys2Proof.Machine.execShl lt d a b s
  | .shr lt d a b => Sys2Proof.Machine.execShr lt d a b s
  | .sha lt d a b => Sys2Proof.Machine.execSha lt d a b s
  | .rot lt d a b => Sys2Proof.Machine.execRot lt d a b s
  | .shli d a w c => Sys2Proof.Machine.execShli d a w c s
  | .shri d a w c => Sys2Proof.Machine.execShri d a w c s
  | .min lt d a b => Sys2Proof.Machine.execMin lt d a b s
  | .max lt d a b => Sys2Proof.Machine.execMax lt d a b s
  | .abs lt d a => Sys2Proof.Machine.execAbs lt d a s
  | .neg lt d a => Sys2Proof.Machine.execNeg lt d a s
  | .clz lt d a => Sys2Proof.Machine.execClz lt d a s
  | .popc lt d a => Sys2Proof.Machine.execPopc lt d a s
  | .cmpEq lt m p a b => Sys2Proof.Machine.execCmpEq lt m p a b s
  | .cmpLt lt m p a b => Sys2Proof.Machine.execCmpLt lt m p a b s
  | .cmpLe lt m p a b => Sys2Proof.Machine.execCmpLe lt m p a b s
  | .adds lt d a b => Sys2Proof.Machine.execAdds lt d a b s
  | .subs lt d a b => Sys2Proof.Machine.execSubs lt d a b s
  | .lea sh d a b => Sys2Proof.Machine.execLea sh d a b s
  | .dot4 signed d a b => Sys2Proof.Machine.execDot4 signed d a b s
  | .bfx lt d a b => Sys2Proof.Machine.execBfx lt d a b s
  | .shuf lt d a b => Sys2Proof.Machine.execShuf lt d a b s
  | .bcast lt d a b => Sys2Proof.Machine.execBcast lt d a b s
  | .ins lt d a b => Sys2Proof.Machine.execIns lt d a b s
  | .ext lt d a b => Sys2Proof.Machine.execExt lt d a b s
  | .rsum lt d a => Sys2Proof.Machine.execRsum lt d a s
  | .rmax lt d a => Sys2Proof.Machine.execRmax lt d a s
  | .rmin lt d a => Sys2Proof.Machine.execRmin lt d a s
  | .pack lt d a b => Sys2Proof.Machine.execPack lt d a b s
  | .unpkLo lt d a => Sys2Proof.Machine.execUnpkLo lt d a s
  | .unpkHi lt d a => Sys2Proof.Machine.execUnpkHi lt d a s
  | .vconf lt d a => Sys2Proof.Machine.execVconf lt d a s
  | .vcomb lt d a b => Sys2Proof.Machine.execVcomb lt d a b s
  | .pscan lt d a b => Sys2Proof.Machine.execPscan lt d a b s
  | .lscan lt d a b => Sys2Proof.Machine.execLscan lt d a b s
  | .mskidx lt d a b => Sys2Proof.Machine.execMskidx lt d a b s
  | .fadd lt d a b => Sys2Proof.Machine.execFadd lt d a b s
  | .fsub lt d a b => Sys2Proof.Machine.execFsub lt d a b s
  | .fmul lt d a b => Sys2Proof.Machine.execFmul lt d a b s
  | .fma lt d a b => Sys2Proof.Machine.execFma lt d a b s
  | .fms lt d a b => Sys2Proof.Machine.execFms lt d a b s
  | .fnma lt d a b => Sys2Proof.Machine.execFnma lt d a b s
  | .fmin lt d a b => Sys2Proof.Machine.execFmin lt d a b s
  | .fmax lt d a b => Sys2Proof.Machine.execFmax lt d a b s
  | .fabs lt d a => Sys2Proof.Machine.execFabs lt d a s
  | .fneg lt d a => Sys2Proof.Machine.execFneg lt d a s
  | .fcmpEq lt m p a b => Sys2Proof.Machine.execFcmpEq lt m p a b s
  | .fcmpLt lt m p a b => Sys2Proof.Machine.execFcmpLt lt m p a b s
  | .fcmpLe lt m p a b => Sys2Proof.Machine.execFcmpLe lt m p a b s
  | .fcmpUn lt m p a b => Sys2Proof.Machine.execFcmpUn lt m p a b s
  | .fdiv lt d a b => Sys2Proof.Machine.execFdiv lt d a b s
  | .fsqrt lt d a => Sys2Proof.Machine.execFsqrt lt d a s
  | .cvt row g rm d a => Sys2Proof.Machine.execCvt row g rm d a s
  | .cvti row g rm d a => Sys2Proof.Machine.execCvti row g rm d a s
  | .cvtf row g rm d a => Sys2Proof.Machine.execCvtf row g rm d a s
  | .split3 term d a b => Sys2Proof.Machine.execSplit3 term d a b s
  | .fdot2 lt d a b => Sys2Proof.Machine.execFdot2 lt d a b s
  | .qmxScale f d a => Sys2Proof.Machine.execQmxScale f d a s
  | .qmxEnc f d a b => Sys2Proof.Machine.execQmxEnc f d a b s
  | .dqmx f d a b => Sys2Proof.Machine.execDqmx f d a b s
  | .fclass lt d a => Sys2Proof.Machine.execFclass lt d a s
  | .frcp lt d a => Sys2Proof.Machine.execFrcp lt d a s
  | .frsq lt d a => Sys2Proof.Machine.execFrsq lt d a s
  | .fexp2 lt d a => Sys2Proof.Machine.execFexp2 lt d a s
  | .flog2 lt d a => Sys2Proof.Machine.execFlog2 lt d a s
  | .fsig lt d a => Sys2Proof.Machine.execFsig lt d a s
  | .ftanh lt d a => Sys2Proof.Machine.execFtanh lt d a s
  | .fsin lt d a => Sys2Proof.Machine.execFsin lt d a s
  | .fcos lt d a => Sys2Proof.Machine.execFcos lt d a s
  | .lsld w bump d an => Sys2Proof.Machine.execLsld w bump d an s
  | .lsst w bump an b => Sys2Proof.Machine.execLsst w bump an b s
  | .lsldx w d an idx => Sys2Proof.Machine.execLsldx w d an idx s
  | .lsstx w idx an b => Sys2Proof.Machine.execLsstx w idx an b s
  | .aset an a imm => Sys2Proof.Machine.execAset an a imm s
  | .aadd an a imm => Sys2Proof.Machine.execAadd an a imm s
  | .ldq w rc d a ord => Sys2Proof.Machine.execLdq w rc d a ord s
  | .stq w noalloc d a b => Sys2Proof.Machine.execStq w noalloc d a b s
  | .stqp w noalloc a b => Sys2Proof.Machine.execStqp w noalloc a b s
  | .ldqx w rc d a idx => Sys2Proof.Machine.execLdqx w rc d a idx s
  | .stqx w op idx a b => Sys2Proof.Machine.execStqx w op idx a b s
  | .monarm w32 d a b => Sys2Proof.Machine.execMonarm w32 d a b s
  | .pref rc a => Sys2Proof.Machine.execPref rc a s
  | .atom op d a b => Sys2Proof.Machine.execAtom op d a b s
  | .cas w d a b => Sys2Proof.Machine.execCas w d a b s
  | .barArr d a => Sys2Proof.Machine.execBarArr d a s
  | .barArrN d a b => Sys2Proof.Machine.execBarArrN d a b s
  | .barArrInit d a b => Sys2Proof.Machine.execBarArrInit d a b s
  | .barWaitFull d a b late => Sys2Proof.Machine.execBarWaitFull d a b late s
  | .barWaitPar d a b => Sys2Proof.Machine.execBarWaitPar d a b s
  | .tlWait k d a => Sys2Proof.Machine.execTlWait k d a s
  | .tlSig k d a => Sys2Proof.Machine.execTlSig k d a s
  | .cwait d n => Sys2Proof.Machine.execCwait d n s
  | .fence sc d => Sys2Proof.Machine.execFence sc d s
  | .send port a len sig nb => Sys2Proof.Machine.execSend port a len sig nb s
  | .sendw port a len sig nb c => Sys2Proof.Machine.execSendw port a len sig nb c s
  | .cfgEng port a len c => Sys2Proof.Machine.execCfgEng port a len c s
  | .cfgFab a len c => Sys2Proof.Machine.execCfgFab a len c s
  | .cfgPhase a len c => Sys2Proof.Machine.execCfgPhase a len c s
  | .sbind se a len c => Sys2Proof.Machine.execSbind se a len c s
  | .br off => Sys2Proof.Machine.execBr off s
  | .sysCall d a => Sys2Proof.Machine.execSysCall d a s
  | .sysRet a => Sys2Proof.Machine.execSysRet a s
  | .sysTrap k => Sys2Proof.Machine.execSysTrap k s
  | .sysEret => Sys2Proof.Machine.execSysEret s
  | .sysSysrd d a => Sys2Proof.Machine.execSysSysrd d a s
  | .sysSyswr a b => Sys2Proof.Machine.execSysSyswr a b s
  | .sysSleep d a b => Sys2Proof.Machine.execSysSleep d a b s
  | .sysScnext d p => Sys2Proof.Machine.execSysScnext d p s
  | .sysRewire d a => Sys2Proof.Machine.execSysRewire d a s
  | .sysLayoutv d a => Sys2Proof.Machine.execSysLayoutv d a s
  | .loop d imm => Sys2Proof.Machine.execLoop d imm s
  | .ldr n => Sys2Proof.Machine.execLdr n s
  | .ldf w off sz => Sys2Proof.Machine.execLdf w off sz s
  | .cmpk off sz => Sys2Proof.Machine.execCmpk off sz s
  | .cmpw w off sz => Sys2Proof.Machine.execCmpw w off sz s
  | .cmpi r imm => Sys2Proof.Machine.execCmpi r imm s
  | .ruleBr c tgt => Sys2Proof.Machine.execRuleBr c tgt s
  | .hash w k sh mul => Sys2Proof.Machine.execHash w k sh mul s
  | .setc r imm => Sys2Proof.Machine.execSetc r imm s
  | .wadd w imm => Sys2Proof.Machine.execWadd w imm s
  | .follow off => Sys2Proof.Machine.execFollow off s
  | .choose off => Sys2Proof.Machine.execChoose off s
  | .ret off b => Sys2Proof.Machine.execRet off b s
  | .fail code => Sys2Proof.Machine.execFail code s
  | .tokenDelivered src => Sys2Proof.Machine.execTokenDelivered src s
  | .instructionVisible u => Sys2Proof.Machine.execInstructionVisible u s
  | .replyArrival id remote => Sys2Proof.Machine.execReplyArrival id remote s
  | .engineCompletion core port => Sys2Proof.Machine.execEngineCompletion core port s
  | .waitComplete u id => Sys2Proof.Machine.execWaitComplete u id s
  | .spillTimeout src => Sys2Proof.Machine.execSpillTimeout src s
  | .trapTaken core => Sys2Proof.Machine.execTrapTaken core s
  | .sleepWake core => Sys2Proof.Machine.execSleepWake core s
  | .sleepTimeout core => Sys2Proof.Machine.execSleepTimeout core s
  | .fabricLoad mask img => Sys2Proof.Machine.execFabricLoad mask img s
  | .fabricUnload mask => Sys2Proof.Machine.execFabricUnload mask s
  | .phaseCommand pmask => Sys2Proof.Machine.execPhaseCommand pmask s
  | .bind base pat => Sys2Proof.Machine.execBind base pat s
  | .streamTokenDeliver core se => Sys2Proof.Machine.execStreamTokenDeliver core se s
  | .resume core port => Sys2Proof.Machine.execResume core port s
  | .abort core port => Sys2Proof.Machine.execAbort core port s
  | .signal tl => Sys2Proof.Machine.execSignal tl s
  | .copy c => Sys2Proof.Machine.execCopy c s
  | .cpEdgeWord core => Sys2Proof.Machine.execCpEdgeWord core s
  | .gather c => Sys2Proof.Machine.execGather c s
  | .scatter c => Sys2Proof.Machine.execScatter c s
  | .conf lsel shift => Sys2Proof.Machine.execConf lsel shift s
  | .mask c => Sys2Proof.Machine.execMask c s
  | .list c => Sys2Proof.Machine.execList c s
  | .walk c => Sys2Proof.Machine.execWalk c s
  | .aditResume core => Sys2Proof.Machine.execAditResume core s
  | .aditAbort core => Sys2Proof.Machine.execAditAbort core s
  | .walkMigrationArrival core slot => Sys2Proof.Machine.execWalkMigrationArrival core slot s
  | .recordLoadComplete core slot => Sys2Proof.Machine.execRecordLoadComplete core slot s
  | .mnEdgeToken core => Sys2Proof.Machine.execMnEdgeToken core s
  | .mma t => Sys2Proof.Machine.execMma t s
  | .mmat t => Sys2Proof.Machine.execMmat t s
  | .mmaCsr t => Sys2Proof.Machine.execMmaCsr t s
  | .mmaBsr t => Sys2Proof.Machine.execMmaBsr t s
  | .mmaC t => Sys2Proof.Machine.execMmaC t s
  | .coopTimeout cluster coopid => Sys2Proof.Machine.execCoopTimeout cluster coopid s
  | .mscan t => Sys2Proof.Machine.execMscan t s
  | .mepi t => Sys2Proof.Machine.execMepi t s
  | .msmQk t => Sys2Proof.Machine.execMsmQk t s
  | .msmPv t => Sys2Proof.Machine.execMsmPv t s
  | .msmFin t => Sys2Proof.Machine.execMsmFin t s
  | .msig t => Sys2Proof.Machine.execMsig t s
  | .mnResume core => Sys2Proof.Machine.execMnResume core s
  | .mnAbort core => Sys2Proof.Machine.execMnAbort core s
  | .mpoly t => Sys2Proof.Machine.execMpoly t s
  | .miterNs t => Sys2Proof.Machine.execMiterNs t s
  | .miterGen t => Sys2Proof.Machine.execMiterGen t s
  | .mres t => Sys2Proof.Machine.execMres t s
  | .mfeed t => Sys2Proof.Machine.execMfeed t s
  | .mld t => Sys2Proof.Machine.execMld t s
  | .mst t => Sys2Proof.Machine.execMst t s
  | .mstZ t => Sys2Proof.Machine.execMstZ t s
  | .mstC t => Sys2Proof.Machine.execMstC t s
  | .mzero t => Sys2Proof.Machine.execMzero t s
  | .mcopy t => Sys2Proof.Machine.execMcopy t s
  | .msts t => Sys2Proof.Machine.execMsts t s
  | .mdset t w1 w2 => Sys2Proof.Machine.execMdset t w1 w2 s
  | .mcset t => Sys2Proof.Machine.execMcset t s
  | .wset win trapf w1 w2 => Sys2Proof.Machine.execWset win trapf w1 w2 s
  | .wclr win trapf => Sys2Proof.Machine.execWclr win trapf s
  | .release entry trapf => Sys2Proof.Machine.execRelease entry trapf s
  | .inval trapf vbase size => Sys2Proof.Machine.execInval trapf vbase size s
  | .barRemoteArrive peer core bar count => Sys2Proof.Machine.execBarRemoteArrive peer core bar count s
  | .barRemoteWait peer core bar phase => Sys2Proof.Machine.execBarRemoteWait peer core bar phase s
  | .egress sink tag payload => Sys2Proof.Machine.execEgress sink tag payload s
  | .pstore mod inc pa data => Sys2Proof.Machine.execPstore mod inc pa data s
  | .homeRead id part => Sys2Proof.Machine.execHomeRead id part s
  | .homeWrite id part => Sys2Proof.Machine.execHomeWrite id part s
  | .homeRmw id part => Sys2Proof.Machine.execHomeRmw id part s
  | .explicitHomeAccess id part => Sys2Proof.Machine.execExplicitHomeAccess id part s
  | .monitorArm id => Sys2Proof.Machine.execMonitorArm id s
  | .dramDataReturn slice line => Sys2Proof.Machine.execDramDataReturn slice line s
  | .chuteDrain slice => Sys2Proof.Machine.execChuteDrain slice s
  | .viewLineFill line => Sys2Proof.Machine.execViewLineFill line s
  | .wbinv slice => Sys2Proof.Machine.execWbinv slice s
  | .replay id part => Sys2Proof.Machine.execReplay id part s
  | .launchWaitsHold l => Sys2Proof.Machine.execLaunchWaitsHold l s
  | .launchRelease l => Sys2Proof.Machine.execLaunchRelease l s
  | .launchComplete l => Sys2Proof.Machine.execLaunchComplete l s
  | .remExhausted part => Sys2Proof.Machine.execRemExhausted part s
  | .budgetExhausted l => Sys2Proof.Machine.execBudgetExhausted l s
  | .kerfBegin l => Sys2Proof.Machine.execKerfBegin l s
  | .kerfMarkerArrival src => Sys2Proof.Machine.execKerfMarkerArrival src s
  | .elementFreeze u => Sys2Proof.Machine.execElementFreeze u s
  | .ceFreeze core => Sys2Proof.Machine.execCeFreeze core s
  | .engineSave core port => Sys2Proof.Machine.execEngineSave core port s
  | .cutComplete l => Sys2Proof.Machine.execCutComplete l s
  | .launchRestore l => Sys2Proof.Machine.execLaunchRestore l s
  | .rewireDrainFreeze u => Sys2Proof.Machine.execRewireDrainFreeze u s
  | .rewireComplete l => Sys2Proof.Machine.execRewireComplete l s
  | .powerOn verified => Sys2Proof.Machine.execPowerOn verified s
  | .debtLimitReached part => Sys2Proof.Machine.execDebtLimitReached part s
  | .registerWrite r value => Sys2Proof.Machine.execRegisterWrite r value s
  | .rootLoad c object => Sys2Proof.Machine.execRootLoad c object s
  | .launch c object args => Sys2Proof.Machine.execLaunch c object args s
  | .resumeBudget c handle budget => Sys2Proof.Machine.execResumeBudget c handle budget s
  | .policyRegister c handle sig => Sys2Proof.Machine.execPolicyRegister c handle sig s
  | .create c spec => Sys2Proof.Machine.execCreate c spec s
  | .destroy c handle => Sys2Proof.Machine.execDestroy c handle s
  | .pause c handle => Sys2Proof.Machine.execPause c handle s
  | .launchResume c handle => Sys2Proof.Machine.execLaunchResume c handle s
  | .evict c handle => Sys2Proof.Machine.execEvict c handle s
  | .qset c handle value => Sys2Proof.Machine.execQset c handle value s
  | .harvest c handle => Sys2Proof.Machine.execHarvest c handle s
  | .keyExport c handle peerAttested => Sys2Proof.Machine.execKeyExport c handle peerAttested s
  | .featackWrite value => Sys2Proof.Machine.execFeatackWrite value s
  | .quiesce c stack => Sys2Proof.Machine.execQuiesce c stack s
  | .recal c stack => Sys2Proof.Machine.execRecal c stack s
  | .update c stack firmware verified => Sys2Proof.Machine.execUpdate c stack firmware verified s
  | .retire c stack => Sys2Proof.Machine.execRetire c stack s
  | .hostWrite via t => Sys2Proof.Machine.execHostWrite via t s
  | .hostRead via t => Sys2Proof.Machine.execHostRead via t s
  | .doorbellTrigger part source tag => Sys2Proof.Machine.execDoorbellTrigger part source tag s
  | .egressRingSetup part base k => Sys2Proof.Machine.execEgressRingSetup part base k s
  | .egressHeadWrite part released => Sys2Proof.Machine.execEgressHeadWrite part released s
  | .remoteRequest mod inc place op => Sys2Proof.Machine.execRemoteRequest mod inc place op s
  | .linkLoss mod => Sys2Proof.Machine.execLinkLoss mod s
  | .linkTimeout mod => Sys2Proof.Machine.execLinkTimeout mod s
  | .softError parts => Sys2Proof.Machine.execSoftError parts s
  | .uncorrectableError u => Sys2Proof.Machine.execUncorrectableError u s
  | .stageAdvance badstk => Sys2Proof.Machine.execStageAdvance badstk s
  | .spareReplace u => Sys2Proof.Machine.execSpareReplace u s
  | .linkRestored mod inc => Sys2Proof.Machine.execLinkRestored mod inc s
  | .domainJoin id => Sys2Proof.Machine.execDomainJoin id s
  | .tdispRequest part r => Sys2Proof.Machine.execTdispRequest part r s
  | .spdmRequest r => Sys2Proof.Machine.execSpdmRequest r s
  | .flashUpdate image verified => Sys2Proof.Machine.execFlashUpdate image verified s
  | .formatWindowInstall w cfg => Sys2Proof.Machine.execFormatWindowInstall w cfg s
  | .formatWindowRemove w => Sys2Proof.Machine.execFormatWindowRemove w s
  | .fwstatClear w mask => Sys2Proof.Machine.execFwstatClear w mask s
  | .idtWrite ix value => Sys2Proof.Machine.execIdtWrite ix value s
  | .domainChange lo hi entries => Sys2Proof.Machine.execDomainChange lo hi entries s
  | .routerReadMerge newer newerPart older olderPart => Sys2Proof.Machine.execRouterReadMerge newer newerPart older olderPart s
  | .viewLineWriteback line => Sys2Proof.Machine.execViewLineWriteback line s
  | .clone l op repl drun => Sys2Proof.Machine.execClone l op repl drun s
  | .unclone l op => Sys2Proof.Machine.execUnclone l op s
  | .fold l opa opb => Sys2Proof.Machine.execFold l opa opb s
  | .unfold l op => Sys2Proof.Machine.execUnfold l op s
  | .aditSignal => Sys2Proof.Machine.execAditSignal s
  | .pstat => Sys2Proof.Machine.execPstat s
  | .psig => Sys2Proof.Machine.execPsig s
  | .stockpileDecay => Sys2Proof.Machine.execStockpileDecay s
  | .timestampRenormalise => Sys2Proof.Machine.execTimestampRenormalise s
  | .domainRelease => Sys2Proof.Machine.execDomainRelease s
  | .launchChoose => Sys2Proof.Machine.execLaunchChoose s
  | .periodStart => Sys2Proof.Machine.execPeriodStart s
  | .measureWindowEnd => Sys2Proof.Machine.execMeasureWindowEnd s
  | .moduleReset => Sys2Proof.Machine.execModuleReset s
  | .retw => Sys2Proof.Machine.execRetw s
  | .miss => Sys2Proof.Machine.execMiss s
  | .idle => Sys2Proof.Machine.execIdle s
  | .nop => Sys2Proof.Machine.execNop s

end Sys2Proof.Machine
end

