-- ==== Sys2Proof/Machine/Tick.lean ====
section
/-! DEFINITION. The cycle: what happens in each and in which order, and what an entry of the agenda comes to. -/

namespace Sys2Proof.Machine

open Sys2Proof

/-! ## What a cycle brings about by itself -/

/-- Draining launches whose elements are still configured lose them in the cycle after the last report (R345). -/
def drainLaunches (s : State) : State :=
  s.launches.foldl (fun s e =>
    if e.2.stage = .draining ∧ e.2.cores.any (fun k => !(getCore s k).elems.isEmpty) then unconfigureLaunch s e.1 else s) s

/-- A launch that drains or has ended and still holds cores. -/
def holdsCores (x : Launch) : Bool := (x.stage = .draining || x.stage = .complete || x.stage = .failed) && !x.cores.isEmpty

/-- Launches that drain or have ended give up the cores whose engines are idle (R345). -/
def reapEnded (s : State) : State := (s.launches.filter fun e => holdsCores e.2).foldl (fun s e => reapLaunch s e.1) s

/-- A rewire one of whose elements has trapped is abandoned (R366). -/
def abandonTrapped (s : State) : State :=
  s.launches.foldl (fun s e =>
    match e.2.rewire with
    | some r => if r.els.any fun c => (getElem s (e.2.unit c)).run = 2 then abandonRewire s e.1 8 else s
    | none => s) s

/-- A rewire that has waited for its launch to run begins (R366). -/
def startWaiting (s : State) : State :=
  s.launches.foldl (fun s e =>
    match e.2.waitingRewires with
    | r :: rest =>
      if e.2.stage = .running ∧ e.2.kerf.isNone ∧ e.2.rewire.isNone then
        requestRewire (setLaunch s e.1 { getLaunch s e.1 with waitingRewires := rest }) e.1 r
      else s
    | [] => s) s

/-- Sources that a kerf could not gate at once are gated (R381). -/
def gateLate (s : State) : State := s.launches.foldl (fun s e => if e.2.kerf.isSome then gateSources s e.1 else s) s

/-- Rewire requests whose bytes have come are taken up (R367). -/
def takeAsks (s : State) : State := s.asks.foldl (fun s a => forceRewire s a.1 a.2.2 a.2.1) { s with asks := [] }

/-- What the start of a cycle does before anything else happens in it. -/
def openCycle (s : State) : State :=
  let s := endPosts { s with cycle := s.cycle + 1, actor := .none }
  let s := chargeCycle (countWindow s (s.cycle - 1))
  let s := takeAsks (startWaiting (abandonTrapped (reapEnded (drainLaunches (retryPeers s)))))
  watchEdges (runClones (headQueues (finishHarvests (gateLate s))))

/-! ## What is due in a cycle -/

/-- The events of fixed periods (R297, R314, R349, R352). -/
def periodEvents (s : State) : List Instr :=
  (if s.cycle % 4096 = 0 then [.measureWindowEnd] else []) ++ (if s.cycle % 65536 = 0 then [.periodStart, .stockpileDecay] else [])
    ++ (if s.cycle % 2 ^ 20 = 0 then [.timestampRenormalise] else [])

/-- Instructions due to become visible now, one event for each. -/
def visibleOf (s : State) (core : Nat) (e : Nat × Elem) : List Instr :=
  (e.2.flights.filter fun f => f.vis ≤ s.cycle).map fun _ => .instructionVisible ⟨core, e.1⟩

/-- Each core's control element goes before its elements (R180). -/
def visibleEvents (s : State) : List Instr :=
  s.cores.flatMap fun k =>
    (k.2.elems.filter (·.1 = ceIx)).flatMap (visibleOf s k.1) ++ (k.2.elems.filter (·.1 ≠ ceIx)).flatMap (visibleOf s k.1)

/-- Completions on their way that arrive now (R22). -/
def completionEvents (s : State) : List Instr :=
  s.cores.flatMap fun k => k.2.comps.flatMap fun c =>
    (c.2.filter fun x => x.due ≤ s.cycle).map fun _ => .engineCompletion k.1 c.1

/-- Waits whose conditions hold. -/
def waitEvents (s : State) : List Instr := s.cores.flatMap fun k => heldWaits s k.1

/-- Tokens that may move: one of each edge in a cycle. -/
def tokenEvents (s : State) : List Instr :=
  (s.edges.filter fun e => !e.gated).filterMap fun e =>
    let go : Bool := match e.src, e.dst with
      | .elem _ _ _, .mn _ | .elem _ _ _, .cp _ => false
      | .elem c i o, _ => !((getElem s ⟨c, i⟩).outCh o).q.isEmpty || e.spill
      | .eng c p, _ => 8 ≤ p && !(tget {} (getCore s c).engOut p : EngOut).toks.isEmpty
      | .ingress p n, _ => !(tget {} (getPart s p).doorbells n : Doorbell).toks.isEmpty
    if go then some (.tokenDelivered e.src) else none

/-- Heads of edges between cores that have been blocked long enough to spill (R169). -/
def spillEvents (s : State) : List Instr :=
  (s.edges.filter fun e => e.crossCore && !e.spill && !e.gated && e.blocked.any (fun c => c + 1024 ≤ s.cycle)).map fun e => .spillTimeout e.src

/-- Whether a core's launch is being cut: nothing queued starts (R381). -/
def cutting (s : State) (core : Nat) : Bool := (kerfOf s core).isSome

/-- Edge ports: a token may reach each of them in this cycle (R205, R228). -/
def edgePortEvents (s : State) : List Instr :=
  s.edges.filterMap fun e =>
    match e.dst with
    | .mn k => some (.mnEdgeToken k)
    | .cp k => some (.cpEdgeWord k)
    | _ => none

/-- The running walks of stream engines (R198). -/
def streamEvents (s : State) : List Instr :=
  s.cores.flatMap fun k =>
    ((List.range 8).filter fun p => (tget {} k.2.engines p : Engine).state = 1 && !k.2.engSaved.contains p).map fun p =>
      .streamTokenDeliver k.1 (Fin.ofNat 8 p)

/-- Partners of cooperative products that have waited too long (R257). -/
def coopEvents (s : State) : List Instr :=
  s.cores.filterMap fun k =>
    if k.2.mn.coopSince.any (fun c => c + 2 ^ 20 ≤ s.cycle) then
      (headCmd s k.1 12).map fun m => .coopTimeout (k.1 / 16) (.ofNat 32 (coopId m))
    else none

/-- Queues with a command at their head. -/
def engineActions (s : State) : List Action :=
  s.cores.flatMap fun k => (k.2.queues.filter fun q => !q.2.q.isEmpty || q.2.taken > 0).map fun q => .engine k.1 q.1

/-- Walks that reach a slice or get their record now (R220, R223); a quiesced stack takes none in. -/
def walkEvents (s : State) : List Instr :=
  s.cores.flatMap fun k => k.2.walks.filterMap fun w =>
    if w.2.due > s.cycle then none
    else if w.2.waiting = 2 ∧ !heldByService s (.slice w.2.target) then some (.walkMigrationArrival k.1 (Fin.ofNat 16 w.1))
    else if w.2.waiting = 1 then some (.recordLoadComplete k.1 (Fin.ofNat 16 w.1))
    else none

def walkActions (s : State) : List Action := s.cores.flatMap fun k => k.2.walks.map fun w => .walk k.1 w.1

/-- Writes that wait in a chute drain one at a time (R298). -/
def chuteEvents (s : State) : List Instr := (s.slices.filter fun k => !k.2.chute.isEmpty).map fun k => .chuteDrain k.1

/-- A domain change: WBINV reaches the slices that owe their report, each over its path from the root; their reports are back, and HOLD is
cleared everywhere, after the longest path there and back (R305, log entry 52). -/
def domainEvents (s : State) : List Instr :=
  match s.change with
  | some c => (c.pending.filter fun n => c.begun + 30 + 12 * hops 0 (routerOfSlice n) ≤ s.cycle).map (.wbinv ·)
      ++ if c.begun + 108 ≤ s.cycle then [.domainRelease] else []
  | none => []

/-- The scheduler's events for launches (R339, R342). -/
def launchEvents (s : State) : List Instr :=
  s.launches.filterMap fun e =>
    match e.2.stage with
    | .waiting => some (.launchWaitsHold e.1)
    | .ready => if e.2.placed ∧ !e.2.ran then some (.launchRelease e.1) else none
    | _ => none

/-- Whether the receiver of an edge has everything that was on its way when the edge was gated (R441). -/
def settled (s : State) (e : Edge) : Bool :=
  match e.dst with
  | .elem c i ch => ((getElem s ⟨c, i⟩).inCh ch).q.all fun a => (if a.seen ≥ unseen then a.seen - unseen else a.seen) ≤ s.cycle
  | _ => true

/-- Markers that arrive (R383, R441). -/
def markerEvents (s : State) : List Instr :=
  (s.edges.filter fun e => e.gated && e.marker && settled s e).map fun e => .kerfMarkerArrival e.src

/-- The units of a launch, the control elements last on each core. -/
def unitsOf (s : State) (x : Launch) : List UnitId := x.cores.flatMap fun k => (getCore s k).elems.map fun e => ⟨k, e.1⟩

/-- Units that may freeze for a kerf, or for a rewire other than a clone, before they fire again (R365, R383, R384). -/
def freezeEvents (s : State) : List Instr :=
  s.launches.flatMap fun e =>
    (if e.2.kerf.isSome then (unitsOf s e.2).map fun u => if isCe u then .ceFreeze u.core else .elementFreeze u else [])
      ++ match e.2.rewire with
        | some r => if r.kind = 1 then [] else r.els.map fun c => .rewireDrainFreeze (e.2.unit c)
        | none => []

/-- Elements that are to be cloned freeze when they have nothing more to fire in a cycle (R365). -/
def cloneFreezes (s : State) : List Instr :=
  s.launches.flatMap fun e => match e.2.rewire with
    | some r => if r.kind = 1 then r.els.map fun c => .rewireDrainFreeze (e.2.unit c) else []
    | none => []

/-- What may go on with a kerf (R385), and what may end a launch (R345). -/
def progressEvents (s : State) : List Instr :=
  s.launches.flatMap fun e =>
    let x := e.2
    (if x.kerf.isSome then
        (x.cores.flatMap fun k => (savingPorts.filter fun p => !(getCore s k).engSaved.contains p).map fun p => .engineSave k p) ++ [.cutComplete e.1]
      else [])
    ++ (if x.stage = .draining then [.launchComplete e.1] else [])

/-- Rewires that may be complete (R365). -/
def rewireEvents (s : State) : List Instr := (s.launches.filter fun e => e.2.rewire.isSome).map fun e => .rewireComplete e.1

/-- A sleeping control element: a limit that has expired, and the events that this cycle has brought (R181). -/
def sleepActions (s : State) (core : Nat) (c : Core) : List Action :=
  match c.ctl.sleep with
  | some z => (if z.limit.any (· ≤ s.cycle) then [.event (.sleepTimeout core)] else []) ++ [.event (.sleepWake core)]
  | none => []

/-- The turns of a cycle: each core's elements, its queued traps, the end of its control element's sleep, then its control element. -/
def turns (s : State) : List Action :=
  s.cores.flatMap fun k =>
    ((k.2.elems.map (·.1)).filter (· < ceIx)).map (fun u => Action.turn ⟨k.1, u⟩)
      ++ .event (.trapTaken k.1) :: sleepActions s k.1 k.2 ++ [.turn ⟨k.1, ceIx⟩]

/-- What a cycle brings: one thing from outside, then what is due, the turns of the units, and what comes after them. -/
def cycleAgenda (s : State) : List Action :=
  let ev (l : List Instr) : List Action := l.map .event
  ev (s.inbox.take 1 ++ periodEvents s ++ budgetEvents s ++ launchEvents s ++ markerEvents s ++ visibleEvents s
      ++ requestEvents s ++ queuedEvents s ++ chuteEvents s ++ completionEvents s ++ waitEvents s ++ tokenEvents s ++ streamEvents s)
    ++ engineActions s ++ ev (walkEvents s) ++ walkActions s ++ ev (rewireEvents s ++ freezeEvents s) ++ turns s
    ++ ev (cloneFreezes s ++ edgePortEvents s ++ spillEvents s ++ coopEvents s ++ domainEvents s ++ progressEvents s)

/-- Builds the agenda of a new cycle. -/
def beginCycle (s : State) : State :=
  let s := openCycle s
  { s with inbox := s.inbox.drop 1, agenda := s.agenda ++ cycleAgenda s }

/-! ## What an entry of the agenda comes to -/

/-- Whether a command may start at an engine now: memory, barrier, host and peer ports look at their head in every cycle; an engine of
R191 starts a command when it is idle, and goes on with one that it has resumed. -/
def mayRun (s : State) (core port : Nat) : Bool :=
  let c := getCore s core
  let e := getEng s core port
  if port = 12 then c.mn.stopped = 0 && (c.mn.part || c.mn.busy ≤ s.cycle)
  else if port ≤ 7 then e.state = 0
  else if 13 ≤ port ∧ port ≤ 15 then
    e.state = 0 || (e.state = 1 && e.final.isNone && e.cause = 0 && (tget {} c.engOut port : EngOut).toks.isEmpty)
  else true

/-- The command at a queue's head runs with its engine as the actor. -/
def runHead (s : State) (core port : Nat) (m : Cmd) : Taken :=
  match m.bad with
  | some c => .nothing (stopOnBad s core port m c)
  | none => .run { s with actor := .engine core port } (readCommand core port m.packet)

/-- The configuration queue's next command comes to its head (R186); in a kerf, only the LOAD under way (R381). -/
def fabricTurn (s : State) (core : Nat) : Taken :=
  let c := getCore s core
  let q := c.queue fabricPort
  let cut := cutting s core
  match if cut then (if (getEng s core fabricPort).state = 0 then none else fabricLoading c) else fabricNext c with
  | none => .nothing s
  | some i =>
    match q.q[i]? with
    | none => .nothing s
    | some m =>
      let s := setCore s core (c.setQueue fabricPort { q with q := m :: q.q.eraseIdx i })
      .run { s with actor := .engine core fabricPort } (readFabric m.packet)

/-- A queue's turn. In a kerf nothing begins; the matrix node goes on to where it is cut (R260, R274, R381). -/
def engineTurn (s : State) (core port : Nat) : Taken :=
  let s := if 13 ≤ port ∧ port ≤ 15 ∧ !(getCore s core).engSaved.contains port then settleEngine s core port else s
  if port = fabricPort then fabricTurn s core
  else if cutting s core ∧ !(port = 12 ∧ mnGoesOn s core) then .nothing s
  else match headCmd s core port with
    | some m => if mayRun s core port then runHead s core port m else .nothing s
    | none => .nothing s

/-- A walk's turn: its reply moves on, or it runs its next rule. -/
def walkTurn (s : State) (core slot : Nat) : Taken :=
  let s := moveReply s core slot
  if cutting s core then .nothing s
  else match walkRule s core slot with
    | some (some i) => .run { s with actor := .walk core slot } i
    | some none => .nothing (match tfind (getCore s core).walks slot with | some w => ruleFault s core slot w | none => s)
    | none => .nothing s

/-- What an entry of the agenda comes to. -/
def take (s : State) : Action → Taken
  | .turn u => if isCe u then ceTurn s u.core else feTurn s u
  | .engine core port => engineTurn s core port
  | .walk core slot => walkTurn s core slot
  | .event i => .run { s with actor := .none } i

end Sys2Proof.Machine
end

