-- ==== Sys2Proof/Machine/Place.lean ====
section
/-! DEFINITION. Placing one instruction word where the next step fetches it; it stands for the load of a program. -/

namespace Sys2Proof.Machine

open Sys2Proof

/-- Places a word in slot 0 of an element, with the literal's second word behind it. -/
def placeFe (s : State) (w v : Nat) : State :=
  let u : UnitId := ⟨0, 0⟩
  let e := getElem s u
  { setElem s u { e with slots := tput (tput e.slots 0 (.ofNat 32 w)) 1 (.ofNat 32 v), sloten := 1, estat := 1 } with
    agenda := [.turn u] }

/-- Places a word at the control element's PC. -/
def placeCe (s : State) (w v : Nat) : State :=
  let u : UnitId := ⟨0, ceIx⟩
  let e := getElem s u
  let s := { s with mem := Memory.writeN s.mem (cpadPa 0 0) (leBytes 8 (w + v * 2 ^ 32)) }
  let s := setElem s u { e with estat := 1 }
  { setCtl s 0 { getCtl s 0 with pc := 0 } with agenda := [.turn u] }

/-- Places a rule as the next one of a walk. -/
def placeRule (s : State) (w : Nat) : State :=
  let c := getCore s 0
  let k : Walk := { cmd := { unit := 64, slot := 0, packet := [], sig := false, creg := none },
                    slim := 4096, nrule := 31, rp := 0, record := List.replicate 128 0,
                    rules := .ofNat 32 w :: List.replicate 31 0xF0000000 }
  { setCore s 0 { c with walks := tput c.walks 0 k } with agenda := [.walk 0 0] }

/-- Places a word by its kind. -/
def placeWord (s : State) (nbits w : Nat) : State :=
  let w0 := w % 2 ^ 32
  let v := w % 2 ^ nbits / 2 ^ 32 % 2 ^ 32
  if isRuleWord w0 v then placeRule s w0
  else match decodeWord false w0 (some v) with
    | .ok _ => placeFe s w0 v
    | .error _ => placeCe s w0 v

end Sys2Proof.Machine
end

