-- ==== Sys2Proof/Machine/Step.lean ====
section
/-! DEFINITION. One step: the next thing on the agenda happens, or a new cycle begins. -/

namespace Sys2Proof.Machine

open Sys2Proof

/-- One step of the machine. -/
def step (s : State) : Host.Outcome State Fault Refusal :=
  match s.agenda with
  | [] => .next (beginCycle s)
  | a :: rest =>
    match take { s with agenda := rest } a with
    | .nothing s => .next s
    | .run s i => exec i s

/-- The state with an instruction placed where the next step fetches it: a rule in a walk of core 0, a word only a
control element runs at core 0's PC, any other in slot 0 of fe(0,0) of core 0. -/
def State.withFetchWord (s : State) (nbits w : Nat) : State := placeWord s nbits w

end Sys2Proof.Machine
end

