-- ==== Sys2Proof/Safety.lean ====
section
/-! DEFINITION. What counts as a safe run: memory keeps its canonical form. -/

namespace Sys2Proof

/-- The memory of a state is in canonical form. -/
def Safe (s : Machine.State) : Prop := Machine.Memory.wf s.mem = true

end Sys2Proof
end

