-- ==== Sys2Proof/Certificates/Slice0/Obligations.lean ====
section
/-! DEFINITION. The statements for the provers, and the words they are made of: when an instruction fires and what its
firing leaves alone (R18, R19), lanes, and what each step of the machine comes to. -/

namespace Sys2Proof.Claims

open Sys2Proof Sys2Proof.Machine

/-! ## Words -/

/-- An element's or control element's instruction that fires now: its unit runs it, everything R18 asks for holds, and the A
registers of its lane-slice operands are in range (R15). -/
def CanFire (s : State) (u : UnitId) (slot : Nat) (word : Word) (i : Instr) : Prop :=
  s.actor = .unit u slot word ∧ ready s u word i = true ∧
    laneFault (Machine.getElem s u) (needOf (Machine.getElem s u) s.cycle i) = false

/-- A source operand's value at the firing (R35, R36). -/
def val (s : State) (u : UnitId) (a : Src) : Quad := readSrc (Machine.getElem s u) s.cycle a

/-- DST's value where it is read as a third source (R33). -/
def dstVal (s : State) (u : UnitId) (d : Dst) : Quad := readDst (Machine.getElem s u) d

/-- Lane k of a word, in lanes of w bits, lane 0 lowest (R5). -/
def laneOf (w : Nat) (q : Quad) (k : Nat) : Nat := q.toNat / 2 ^ (w * k) % 2 ^ w

/-- The same lane as an integer of the lane type (R104). -/
def intOf (t : LaneType) (q : Quad) (k : Nat) : Int := laneInt t (laneOf (LaneType.width t) q k)

/-- Every lane of a result is what a rule gives for it. -/
def LaneWise (w : Nat) (v : Quad) (f : Nat → Nat) : Prop := ∀ k, k < 128 / w → laneOf w v k = f k

/-- The instruction between its firing and its V as R18 and R19 give it: when it becomes visible, what it holds until then,
and what it will do. -/
def flightOf (s : State) (u : UnitId) (slot : Nat) (word : Word) (i : Instr) (lat : Nat) (r : Fired) : Flight :=
  let e := Machine.getElem s u
  let t := gate e (isCe u) word
  let need := needOf e s.cycle i
  { vis := max (s.cycle + lat) e.prevV, slot := slot, word := word, consume := eaten need t,
    outs := need.outs.map fun n => (n, e.tickets), pset := trigPset t, pclr := trigPclr t, pendD := need.wD &&& ~~~r.spare,
    pendA := need.aW, pendP := trigPset t ||| trigPclr t ||| need.pW, pendLane := need.laneW, flags := r.flags, srAfter := r.sr,
    acts := r.acts, keepD := r.keepD, opa := laneOp e s.cycle need 0, opb := laneOp e s.cycle need 1,
    trap := flagTrap e.fpctl r.flags }

/-- What a firing changes: of the unit, its flights, its pending bits and the positions it has reserved in its channels; of a
control element, its pc besides, which moves past the instruction. Every register, predicate, flag, token and byte of memory,
and everything outside the unit, is as it was. -/
structure FiringFrame (s t : State) (u : UnitId) (slot : Nat) (i : Instr) (f : Flight) : Prop where
  outside : t = { s with cores := t.cores }
  cores : ∀ k, k ≠ u.core → getCore t k = getCore s k
  units : ∀ j, j ≠ u.ix → Machine.getElem t ⟨u.core, j⟩ = Machine.getElem s ⟨u.core, j⟩
  core : getCore t u.core = { getCore s u.core with elems := (getCore t u.core).elems, ctl := (getCore t u.core).ctl }
  ctl : getCtl t u.core = if isCe u then { getCtl s u.core with pc := slot + Instr.bytes i } else getCtl s u.core
  unit : Machine.getElem t u = { Machine.getElem s u with
    inq := (Machine.getElem t u).inq, outq := (Machine.getElem t u).outq, flights := (Machine.getElem s u).flights ++ [f],
    firedAt := some s.cycle, tickets := (Machine.getElem s u).tickets + 1,
    pendD := (Machine.getElem s u).pendD ||| f.pendD, pendA := (Machine.getElem s u).pendA ||| f.pendA,
    pendP := (Machine.getElem s u).pendP ||| f.pendP, pendLane := (Machine.getElem s u).pendLane || f.pendLane }
  tokens : ∀ n, ((Machine.getElem t u).inCh n).q = ((Machine.getElem s u).inCh n).q
  memory : ∀ a, Memory.read t.mem a = Memory.read s.mem a

/-- The instruction fires: exec answers a next state in which it is in flight, and nothing else has changed. -/
def Fires (s : State) (u : UnitId) (slot : Nat) (word : Word) (i : Instr) (lat : Nat) (r : Fired) : Prop :=
  ∃ t, exec i s = .next t ∧ FiringFrame s t u slot i (flightOf s u slot word i lat r)

/-- The instruction fires with one result, bound for a destination with the tag of the operand a (R37), raising flags, and with
the generator left at sr; where that is where it stood, no draw was taken (R97). -/
def Gives (s : State) (u : UnitId) (slot : Nat) (word : Word) (i : Instr) (lat : Nat) (d : Dst) (a : Src) (v : Quad)
    (flags : Sys2Proof.Num.Flags) (sr : Word) : Prop :=
  Fires s u slot word i lat
    { acts := dstActs (Machine.getElem s u) (Machine.getElem s u).tickets d (tagOf (Machine.getElem s u) s.cycle a) v,
      flags := flags, sr := if sr = (Machine.getElem s u).srNow then none else some sr }

/-- As Gives, for an instruction of one cycle that raises no flag and draws nothing. -/
def Yields (s : State) (u : UnitId) (slot : Nat) (word : Word) (i : Instr) (d : Dst) (a : Src) (v : Quad) : Prop :=
  Gives s u slot word i 1 d a v 0 (Machine.getElem s u).srNow

/-- The instruction fires with a predicate as its result, raising flags. -/
def Decides (s : State) (u : UnitId) (slot : Nat) (word : Word) (i : Instr) (lat : Nat) (p : Fin 8) (b : Bool)
    (flags : Sys2Proof.Num.Flags) : Prop :=
  Fires s u slot word i lat
    { acts := [.p (predBit p) (if b then predBit p else 0)], flags := flags }

/-- The largest and smallest integers of a lane type (R88). -/
def topOf (t : LaneType) : Int :=
  if LaneType.signed t then 2 ^ (LaneType.width t - 1) - 1 else 2 ^ LaneType.width t - 1
def botOf (t : LaneType) : Int := if LaneType.signed t then -2 ^ (LaneType.width t - 1) else 0

/-- SAT, if any of the first n exact results lies outside the type (R88). -/
def satFlag (t : LaneType) (n : Nat) (f : Nat → Int) : Sys2Proof.Num.Flags :=
  if (List.range n).any fun k => f k < botOf t || topOf t < f k then Sys2Proof.Num.fSAT else 0

/-- A per-lane test reduced over n lanes: all of them, any of them, or lane 0 (R113). -/
def reduced (m : Reduce) (n : Nat) (f : Nat → Bool) : Bool :=
  match m with
  | .all => (List.range n).all f
  | .any => (List.range n).any f
  | .lane0 => f 0

/-- R86, R104, R129, R130: one rounding of each lane's exact result, the flags of all lanes together. What the stochastic mode
draws is the generator's next states, one for each rounding, and the other modes leave the generator alone. -/
def RoundsLanes (s : State) (u : UnitId) (slot : Nat) (word : Word) (i : Instr) (lat : Nat) (t : LaneType) (d : Dst) (a : Src)
    (op : Nat → Sys2Proof.Num.Val × Sys2Proof.Num.Flags) : Prop :=
  let e := Machine.getElem s u
  let f := LaneType.fp t
  let w := LaneType.width t
  let n := 128 / w
  let draw (k : Nat) : Word := (Nat.rec e.srNow (fun _ x => Sys2Proof.Num.srDraw x) (k + 1) : Word)
  let out (k : Nat) : Nat × Sys2Proof.Num.Flags := Sys2Proof.Num.encode f e.rm (op k).1 (if e.rm = .sr then (draw k).toNat else 0)
  ∃ v fl sr, LaneWise w v (fun k => (out k).1 % 2 ^ w) ∧
    (fl = (List.range n).foldl (fun m k => m ||| (op k).2 ||| (out k).2) 0) ∧
    sr = (if e.rm = .sr then draw (n - 1) else e.srNow) ∧ Gives s u slot word i lat d a v fl sr

/-- A conversion of lanes in order: source lanes of ws bits into result lanes of wd bits, lane group g (R135), the environment
of flags and draws threaded from lane to lane. -/
def Converts (s : State) (u : UnitId) (slot : Nat) (word : Word) (i : Instr) (d : Dst) (a : Src) (ws wd g : Nat)
    (f : Nat → Sys2Proof.Num.Env → Nat × Sys2Proof.Num.Env) : Prop :=
  let e := Machine.getElem s u
  let ns := 128 / ws
  let nd := 128 / wd
  let src := (List.range (min ns nd)).map fun j => laneOf ws (val s u a) (if nd > ns then j else g * nd + j)
  let r := Sys2Proof.Num.mapEnv f src { flags := 0, sr := e.srNow }
  ∃ v, LaneWise wd v (fun k => (if nd > ns then (if k < g * ns then 0 else r.1.getD (k - g * ns) 0) else r.1.getD k 0) % 2 ^ wd) ∧
    Gives s u slot word i 4 d a v r.2.flags r.2.sr

/-- The instruction traps at its firing (R21, R175): an element stops with the slot and the cause and raises its trap at the
control element; a control element takes its own trap at once. No register, token, byte of memory or other unit changes. -/
structure Traps (s : State) (u : UnitId) (slot : Nat) (word : Word) (i : Instr) (c : Cause) (a : Dword) : Prop where
  traps : ∃ t, exec i s = .next t ∧ t = { s with cores := t.cores, agenda := t.agenda } ∧
    (∀ k, k ≠ u.core → getCore t k = getCore s k) ∧
    (∀ j, j ≠ u.ix → Machine.getElem t ⟨u.core, j⟩ = Machine.getElem s ⟨u.core, j⟩) ∧
    (if isCe u then
        Machine.getElem t u = { Machine.getElem s u with firedAt := some s.cycle } ∧
          (getCtl t u.core).own = some ⟨c, slot, word, a, 0, false⟩ ∧ t.agenda = .event (.trapTaken u.core) :: s.agenda
      else
        Machine.getElem t u = { Machine.getElem s u with
            estat := (Machine.getElem t u).estat, firedAt := some s.cycle, faultAddr := a, faultWord := word, deferred := false } ∧
          (Machine.getElem t u).run = 2 ∧ (Machine.getElem t u).cause = c % 1024 ∧ (Machine.getElem t u).fslot = slot % 32 ∧
          (getCore t u.core).trapq = raiseInto (getCore s u.core).trapq
            { kind := 1, src := u.ix, cause := c, addr := a, since := s.cycle } ∧ t.agenda = s.agenda)

/-- A firing that sends a command: as FiringFrame, but that the command takes an entry of one queue (R167). -/
structure SendFrame (s t : State) (u : UnitId) (slot : Nat) (i : Instr) (f : Flight) (port : Nat) : Prop where
  outside : t = { s with cores := t.cores }
  cores : ∀ k, k ≠ u.core → getCore t k = getCore s k
  units : ∀ j, j ≠ u.ix → Machine.getElem t ⟨u.core, j⟩ = Machine.getElem s ⟨u.core, j⟩
  core : getCore t u.core = { getCore s u.core with
    elems := (getCore t u.core).elems, ctl := (getCore t u.core).ctl, queues := (getCore t u.core).queues }
  taken : (getCore t u.core).queue port = { (getCore s u.core).queue port with
    taken := ((getCore s u.core).queue port).taken + 1, acceptAt := some s.cycle, lastIssuer := u.ix }
  queues : ∀ q, q ≠ port → (getCore t u.core).queue q = (getCore s u.core).queue q
  ctl : getCtl t u.core = if isCe u then { getCtl s u.core with pc := slot + Instr.bytes i } else getCtl s u.core
  flight : (Machine.getElem t u).flights = (Machine.getElem s u).flights ++ [f]
  registers : (Machine.getElem t u).d = (Machine.getElem s u).d ∧ (Machine.getElem t u).a = (Machine.getElem s u).a ∧
    (Machine.getElem t u).p = (Machine.getElem s u).p ∧ (Machine.getElem t u).fpflg = (Machine.getElem s u).fpflg ∧
    (Machine.getElem t u).lane = (Machine.getElem s u).lane
  memory : ∀ a, Memory.read t.mem a = Memory.read s.mem a

/-- The instruction fires and takes a queue's entry for its command. -/
def Sends (s : State) (u : UnitId) (slot : Nat) (word : Word) (i : Instr) (port : Nat) (r : Fired) : Prop :=
  ∃ t, exec i s = .next t ∧ SendFrame s t u slot i (flightOf s u slot word i 1 r) port

/-- A one-access memory instruction's request as R147 to R161 give it: an operation at the address in OPA's lane 0. -/
def ask (s : State) (u : UnitId) (a : Src) (d : Dst) (n : Nat) (op : MemOp) (posted : Bool) (rc : Reuse) (na : Bool)
    (data cmp : Nat) : MemSpec :=
  let e := Machine.getElem s u
  { op := op, posted := posted, reuse := rc, noalloc := na,
    words := [(0, laneOf 64 (val s u a) 0, n, .ofNat 128 (data % 2 ^ (8 * n)), .ofNat 128 (cmp % 2 ^ (8 * n)))],
    sink := replySink e.tickets d (tagOf e s.cycle a) }

/-- The instruction completes: it fires, and in its V, if nothing else has changed the machine meanwhile, its effect is what q says. -/
def Shows (s : State) (u : UnitId) (slot : Nat) (word : Word) (i : Instr) (lat : Nat) (r : Fired) (q : State → Prop) : Prop :=
  ∃ t v, exec i s = .next t ∧ FiringFrame s t u slot i (flightOf s u slot word i lat r) ∧
    exec (.instructionVisible u) { t with cycle := (flightOf s u slot word i lat r).vis, actor := .none } = .next v ∧ q v

/-- Nothing holds a request up (R147, R152): its unit has nothing in flight, each of its addresses is translated without a radix walk,
and for a posted one, no update of the core waits in a repair queue, and no fence awaits an update whose number has not been given. -/
structure Unhindered (s : State) (u : UnitId) (m : MemSpec) (rts : List Route) : Prop where
  alone : (Machine.getElem s u).flights = []
  routes : m.words.map (fun w => lookUp s u.core w.2.1 w.2.2.1 (MemOp.use m.op)) = rts.map Xlate.ok
  quick : ∀ w ∈ m.words, walkCycles s u.core w.2.1 (MemOp.use m.op) = 0
  clear : m.posted = true → ∀ p, p < 4 → repairing ((getCore s u.core).port p) = false
  fresh : m.posted = true → ∀ w ∈ (getCore s u.core).waits, ∀ sc us n l x, w.2.kind = .fence sc us n l x → ∀ k ∈ us, k.1 ≠ s.nextReq

/-- A request is under way (R7, R147, R148): with its operation and its reply's destination, which stays pending, and each access on its
way to the home that its address gives. Its port counts an update that is posted. No register, no lane slice and no byte of memory
has changed. -/
structure UnderWay (s v : State) (u : UnitId) (slot : Nat) (word : Word) (m : MemSpec) (rts : List Route) (cyc : Nat)
    (keep : BitVec 16) : Prop where
  number : v.nextReq = s.nextReq + 1
  request : ∃ rq, tfind v.reqs s.nextReq = some rq ∧ rq.op = m.op ∧ rq.posted = m.posted ∧ rq.reuse = m.reuse ∧
    rq.noalloc = m.noalloc ∧ rq.sink = m.sink ∧ rq.laneBits = m.laneBits ∧ rq.core = u.core ∧ rq.unit = u.ix ∧ rq.slot = slot ∧
    rq.word = word ∧ rq.pts = (getCore s u.core).clock ∧
    rq.parts.map (fun x => (x.lane, x.va, x.n, x.data, x.compare)) = m.words ∧
    rq.parts.map (fun x => (x.pa, x.home, x.inc, x.phase)) =
      rts.map fun r => (r.pa, r.home, r.inc, Phase.travelling (cyc + travel u.core r.home))
  others : ∀ j, j ≠ s.nextReq → tfind v.reqs j = tfind s.reqs j
  counted : m.posted = true → ∀ p, (tget ({} : Issuer) ((getCore v u.core).port p).issuers u.ix).open_ =
    (tget ({} : Issuer) ((getCore s u.core).port p).issuers u.ix).open_ + (rts.filter fun r => r.port = p).length
  pending : (Machine.getElem v u).pendD = (Machine.getElem s u).pendD ||| keep
  registers : (Machine.getElem v u).d = (Machine.getElem s u).d ∧ (Machine.getElem v u).a = (Machine.getElem s u).a ∧
    (Machine.getElem v u).lane = (Machine.getElem s u).lane
  memory : v.mem = s.mem

/-- Nothing is asked, and nothing has changed. -/
def NothingAsked (s v : State) (u : UnitId) : Prop :=
  v.reqs = s.reqs ∧ v.nextReq = s.nextReq ∧ v.mem = s.mem ∧ (Machine.getElem v u).d = (Machine.getElem s u).d

/-- The address of one access is fit for it: below 2^56 and a multiple of its size (R150). -/
def AddressFits (va n : Nat) : Prop := va < 2 ^ 56 ∧ va % n = 0

/-- The accesses of a gather or scatter, lane by lane, without the lanes whose index is all ones (R158). -/
def lanesOf (w : LaneWidth) (base : Nat) (idx data : Quad) : List (Nat × Nat × Nat × Quad × Quad) :=
  let k := LaneWidth.bytes w
  (List.range (16 / k)).filterMap fun j =>
    let i := laneOf (8 * k) idx j
    if i = 2 ^ (8 * k) - 1 then none else some (j, (base + i * k) % 2 ^ 64, k, .ofNat 128 (laneOf (8 * k) data j), 0)

/-- The packet of a command: the D registers from the first on (R44). -/
def packet (s : State) (u : UnitId) (a : Fin 16) (len : Fin 8) : List Quad :=
  (List.range (len.val + 1)).map fun j => (Machine.getElem s u).dreg (a.val + j)

/-- The command as its queue will hold it. -/
def command (s : State) (u : UnitId) (slot : Nat) (ws : List Quad) (sig : Bool) (c : Option (Fin 16)) (conf : Bool) : Cmd :=
  { unit := u.ix, slot := slot, packet := ws, sig := sig, creg := c, pts := (getCore s u.core).clock, conf := conf }

/-- An effect on the unit itself: a register, the predicates, the lane slice or an output. -/
def IsLocal : Act → Prop
  | .d _ _ | .a _ _ | .p _ _ | .lane _ _ | .out _ _ _ => True
  | _ => False

/-- An access of a request reaches its home now. -/
def Arriving (s : State) (id : Nat) (r : Req) (p : Part) : Prop :=
  tfind s.reqs id = some r ∧ r.part p.lane = some p ∧ ∃ due, p.phase = .travelling due ∧ due ≤ s.cycle

/-- The homes of R313. -/
def IsExplicit : Home → Prop
  | .cpad _ | .clus _ _ | .mpad _ => True
  | _ => False

/-- An explicit home has performed an access of a core: what it answers is on its way back, its clock stands at the access's timestamp,
and it has given a tag to a write. Nothing else has changed but memory. -/
def Answered (s t : State) (id : Nat) (r : Req) (p : Part) (value : List Byte) (seq : Option (BitVec 16)) (ts : Stamp) : Prop :=
  let hc : HomeClock := tget {} s.homes (homeKey p.home)
  let back (x : Part) : Part := { x with
    value := .ofNat 128 (leNat value), seq := seq.getD 0, ts := ts, rts := ts, wts := 0, line := [],
    bulk := if 16 < value.length then value else [], cause := 0, phase := .replied (s.cycle + travel r.core p.home) }
  t = { s with reqs := t.reqs, homes := t.homes, mem := t.mem } ∧ tfind t.reqs id = some (r.answer p.lane back) ∧
    (∀ j, j ≠ id → tfind t.reqs j = tfind s.reqs j) ∧
    tget {} t.homes (homeKey p.home) = { hc with hclk := ts, seq := if seq.isSome then hc.seq + 1 else hc.seq }

/-- The command that the step runs: its engine is the actor, and it stands at its queue's head. -/
def Commanded (s : State) (core port : Nat) (m : Cmd) : Prop := s.actor = .engine core port ∧ headCmd s core port = some m

/-- A command's completion as it sets out (R22, R23): its register, its word, its timeline and number, and its scoreboard bit. -/
def completionOf (s : State) (port : Nat) (m : Cmd) (esp count cause : Nat) (ts : Stamp) (after : Nat) : Completion :=
  { unit := m.unit, reg := m.creg, word := completionWord m.tlNum esp count cause, tl := cmdTimeline port m.packet, num := m.tlNum,
    ts := ts, due := s.cycle + after, psb := cmdPsb port m, trapf := cmdTrapf port m.packet }

/-- The command has left its queue, and its completion has set out behind the port's earlier ones. -/
def Completes (s t : State) (core port : Nat) (m : Cmd) (esp count cause : Nat) (ts : Stamp) (after : Nat) : Prop :=
  ((getCore t core).queue port).q = ((getCore s core).queue port).q.tail ∧
    tget [] (getCore t core).comps port = tget [] (getCore s core).comps port ++ [completionOf s port m esp count cause ts after]

/-- Every element and control element of every core is as it was: its registers, predicates, flags, channels and run state. -/
def UnitsKeep (s t : State) : Prop := ∀ k, (getCore t k).elems = (getCore s k).elems ∧ (getCore t k).ctl = (getCore s k).ctl

/-- A walk's slot holds this now; no other walk, no register and no byte of memory has changed. -/
def WalkNow (s t : State) (core slot : Nat) (v : Walk) : Prop :=
  tfind (getCore t core).walks slot = some v ∧ (∀ j, j ≠ slot → tfind (getCore t core).walks j = tfind (getCore s core).walks j) ∧
    t = { s with cores := t.cores } ∧ (∀ k, k ≠ core → getCore t k = getCore s k) ∧
    getCore t core = { getCore s core with walks := (getCore t core).walks }

end Sys2Proof.Claims

/-! ## Move, channel and predicate instructions -/

open Sys2Proof Sys2Proof.Machine Sys2Proof.Claims

/-- R34, R37, R106, R107, R108, R109: what each move and channel instruction sends, with which tag, when it fires.
R111, R112: pset and the zero tests write one predicate; plog takes it from its truth table. -/
def Obligations.MovesChannelsAndPredicates : Prop :=
  (
    ∀ (s : State) (u : UnitId) (slot : Nat) (word : Word) (d : Dst) (a b : Src) (p : Fin 8) (neg : Bool) (tag : BitVec 3)
      (n : Fin 4) (m : BitVec 4) (imm : BitVec 9) (w : Word),
      let e := Machine.getElem s u
      (CanFire s u slot word .nop → Fires s u slot word .nop 1 { acts := [] }) ∧
      (CanFire s u slot word (.mov d a) → Yields s u slot word (.mov d a) d a (val s u a)) ∧
      (CanFire s u slot word (.movi d imm) →
        ∃ v : Quad, v.toInt = imm.toInt ∧ Yields s u slot word (.movi d imm) d .zero v) ∧
      (CanFire s u slot word (.lit .zx d w) → ∃ v : Quad, v.toNat = w.toNat ∧ Yields s u slot word (.lit .zx d w) d .zero v) ∧
      (CanFire s u slot word (.lit .sx d w) → ∃ v : Quad, v.toInt = w.toInt ∧ Yields s u slot word (.lit .sx d w) d .zero v) ∧
      (CanFire s u slot word (.lit .rep32 d w) →
        ∃ v : Quad, LaneWise 32 v (fun _ => w.toNat) ∧ Yields s u slot word (.lit .rep32 d w) d .zero v) ∧
      (CanFire s u slot word (.lit .rep64 d w) →
        ∃ v : Quad, LaneWise 64 v (fun _ => (w.toInt % 2 ^ 64).toNat) ∧ Yields s u slot word (.lit .rep64 d w) d .zero v) ∧
      (CanFire s u slot word (.tagset d a tag) →
        Fires s u slot word (.tagset d a tag) 1 { acts := dstActs e e.tickets d tag (val s u a) }) ∧
      (CanFire s u slot word (.tagget d a) →
        ∃ v : Quad, v.toNat = (tagOf e s.cycle a).toNat ∧ Yields s u slot word (.tagget d a) d a v) ∧
      (CanFire s u slot word (.sel d a b p neg) →
        let x := if e.p.getLsbD p = neg then b else a
        Fires s u slot word (.sel d a b p neg) 1 { acts := dstActs e e.tickets d (tagOf e s.cycle x) (val s u x) }) ∧
      (CanFire s u slot word (.fwd n a b) →
        ∃ o : Fin 4, o.val = (n.val + (val s u b).toNat % 4) % 4 ∧
          Fires s u slot word (.fwd n a b) 1 { acts := [.out o e.tickets ⟨val s u a, tagOf e s.cycle a⟩] }) ∧
      (CanFire s u slot word (.dup m a) →
        ∃ os : List (Fin 4), (∀ o : Fin 4, o ∈ os ↔ m.getLsbD o = true) ∧ os.Nodup ∧
          Fires s u slot word (.dup m a) 1 { acts := os.map fun o => .out o e.tickets ⟨val s u a, tagOf e s.cycle a⟩ }) ∧
      (CanFire s u slot word (.drop a) → Fires s u slot word (.drop a) 1 { acts := [] }) ∧
      (CanFire s u slot word (.done d a) →
        Fires s u slot word (.done d a) 1 { acts := dstActs e e.tickets d 7 (val s u a) ++ [.doneReport] })) ∧
  (
    ∀ (s : State) (u : UnitId) (slot : Nat) (word : Word) (a : Src) (p q r : Fin 8) (v : Bool) (tt : BitVec 4),
      let e := Machine.getElem s u
      let x := laneOf 64 (val s u a) 0
      (CanFire s u slot word (.pset p v) → Decides s u slot word (.pset p v) 1 p v 0) ∧
      (CanFire s u slot word (.psetNz p a) → Decides s u slot word (.psetNz p a) 1 p (decide (x ≠ 0)) 0) ∧
      (CanFire s u slot word (.psetZ p a) → Decides s u slot word (.psetZ p a) 1 p (decide (x = 0)) 0) ∧
      (CanFire s u slot word (.plog p q r tt) →
        Decides s u slot word (.plog p q r tt) 1 p (tt.getLsbD (2 * (e.p.getLsbD q).toNat + (e.p.getLsbD r).toNat)) 0))

/-! ## Integer arithmetic -/

/-- R114, R117, R119: the sums and products of the lanes, modulo the lane's range, and the high half of the product. -/
def Obligations.SumsAndProductsOfLanes : Prop :=
  ∀ (s : State) (u : UnitId) (slot : Nat) (word : Word) (t : LaneType) (d : Dst) (a b : Src) (imm : BitVec 9) (sh : Fin 16),
    let w := LaneType.width t
    let x := laneOf w (val s u a)
    let y := laneOf w (val s u b)
    let z := laneOf w (dstVal s u d)
    (CanFire s u slot word (.add t d a b) →
      ∃ v, LaneWise w v (fun k => (x k + y k) % 2 ^ w) ∧ Yields s u slot word (.add t d a b) d a v) ∧
    (CanFire s u slot word (.sub t d a b) →
      ∃ v, LaneWise w v (fun k => (x k + (2 ^ w - y k)) % 2 ^ w) ∧ Yields s u slot word (.sub t d a b) d a v) ∧
    (CanFire s u slot word (.addi d a imm) →
      ∃ v, LaneWise 64 v (fun k => (((laneOf 64 (val s u a) k : Int) + imm.toInt) % 2 ^ 64).toNat) ∧
        Yields s u slot word (.addi d a imm) d a v) ∧
    (CanFire s u slot word (.mul t d a b) →
      ∃ v, LaneWise w v (fun k => x k * y k % 2 ^ w) ∧ Yields s u slot word (.mul t d a b) d a v) ∧
    (CanFire s u slot word (.mulh t d a b) →
      ∃ v, LaneWise w v (fun k => (intOf t (val s u a) k * intOf t (val s u b) k / 2 ^ w % 2 ^ w).toNat) ∧
        Yields s u slot word (.mulh t d a b) d a v) ∧
    (CanFire s u slot word (.mad t d a b) →
      ∃ v, LaneWise w v (fun k => (z k + x k * y k) % 2 ^ w) ∧ Yields s u slot word (.mad t d a b) d a v) ∧
    (CanFire s u slot word (.lea sh d a b) →
      ∃ v, LaneWise 64 v (fun k => (laneOf 64 (val s u a) k + laneOf 64 (val s u b) k * 2 ^ sh.val) % 2 ^ 64) ∧
        Yields s u slot word (.lea sh d a b) d a v)

/-- R114, R116: the bitwise instructions and the shifts, whose count is the whole lane of OPB, and the immediate shifts. -/
def Obligations.BitwiseAndShiftInstructions : Prop :=
  ∀ (s : State) (u : UnitId) (slot : Nat) (word : Word) (t : LaneType) (d : Dst) (a b : Src) (sw : ShiftWidth) (c : BitVec 7),
    let w := LaneType.width t
    let x := laneOf w (val s u a)
    let y := laneOf w (val s u b)
    let iw := ShiftWidth.bits sw
    let ix := laneOf iw (val s u a)
    (CanFire s u slot word (.and t d a b) → Yields s u slot word (.and t d a b) d a (val s u a &&& val s u b)) ∧
    (CanFire s u slot word (.or t d a b) → Yields s u slot word (.or t d a b) d a (val s u a ||| val s u b)) ∧
    (CanFire s u slot word (.xor t d a b) → Yields s u slot word (.xor t d a b) d a (val s u a ^^^ val s u b)) ∧
    (CanFire s u slot word (.andn t d a b) → Yields s u slot word (.andn t d a b) d a (val s u a &&& ~~~(val s u b))) ∧
    (CanFire s u slot word (.shl t d a b) →
      ∃ v, LaneWise w v (fun k => if w ≤ y k then 0 else x k * 2 ^ y k % 2 ^ w) ∧ Yields s u slot word (.shl t d a b) d a v) ∧
    (CanFire s u slot word (.shr t d a b) →
      ∃ v, LaneWise w v (fun k => if w ≤ y k then 0 else x k / 2 ^ y k) ∧ Yields s u slot word (.shr t d a b) d a v) ∧
    (CanFire s u slot word (.sha t d a b) →
      ∃ v, LaneWise w v (fun k => (Sys2Proof.Num.toSigned (x k) w / 2 ^ (min (y k) w) % 2 ^ w).toNat) ∧
        Yields s u slot word (.sha t d a b) d a v) ∧
    (CanFire s u slot word (.rot t d a b) →
      ∃ v, LaneWise w v (fun k => (x k * 2 ^ (y k % w) + x k / 2 ^ (w - y k % w)) % 2 ^ w) ∧
        Yields s u slot word (.rot t d a b) d a v) ∧
    (CanFire s u slot word (.shli d a sw c) →
      ∃ v, LaneWise iw v (fun k => if iw ≤ c.toNat then 0 else ix k * 2 ^ c.toNat % 2 ^ iw) ∧
        Yields s u slot word (.shli d a sw c) d a v) ∧
    (CanFire s u slot word (.shri d a sw c) →
      ∃ v, LaneWise iw v (fun k => if iw ≤ c.toNat then 0 else ix k / 2 ^ c.toNat) ∧ Yields s u slot word (.shri d a sw c) d a v)

/-- R114, R118: the lesser and the greater of two lanes, magnitudes, negation, leading zeros and one bits.
R120, R122, R123, R127: lane permutes, insertion and extraction, widening, conflict masks and mask compression. -/
def Obligations.LaneOrderCountsAndPermutes : Prop :=
  (
    ∀ (s : State) (u : UnitId) (slot : Nat) (word : Word) (t : LaneType) (d : Dst) (a b : Src),
      let w := LaneType.width t
      let x := laneOf w (val s u a)
      let y := laneOf w (val s u b)
      (CanFire s u slot word (.min t d a b) →
        ∃ v, LaneWise w v (fun k => if intOf t (val s u a) k ≤ intOf t (val s u b) k then x k else y k) ∧
          Yields s u slot word (.min t d a b) d a v) ∧
      (CanFire s u slot word (.max t d a b) →
        ∃ v, LaneWise w v (fun k => if intOf t (val s u a) k ≤ intOf t (val s u b) k then y k else x k) ∧
          Yields s u slot word (.max t d a b) d a v) ∧
      (CanFire s u slot word (.abs t d a) →
        ∃ v, LaneWise w v (fun k => (intOf t (val s u a) k).natAbs % 2 ^ w) ∧ Yields s u slot word (.abs t d a) d a v) ∧
      (CanFire s u slot word (.neg t d a) →
        ∃ v, LaneWise w v (fun k => (2 ^ w - x k) % 2 ^ w) ∧ Yields s u slot word (.neg t d a) d a v) ∧
      (CanFire s u slot word (.clz t d a) →
        ∃ v, LaneWise w v (fun k => ((List.range w).filter fun j => x k < 2 ^ j).length) ∧
          Yields s u slot word (.clz t d a) d a v) ∧
      (CanFire s u slot word (.popc t d a) →
        ∃ v, LaneWise w v (fun k => ((List.range w).filter fun j => (x k).testBit j).length) ∧
          Yields s u slot word (.popc t d a) d a v)) ∧
  (
    ∀ (s : State) (u : UnitId) (slot : Nat) (word : Word) (t : LaneType) (d : Dst) (a b : Src),
      let w := LaneType.width t
      let n := 128 / w
      let x := laneOf w (val s u a)
      let y := laneOf w (val s u b)
      let z := laneOf w (dstVal s u d)
      let ix := laneOf 64 (val s u b) 0
      let pick (k : Nat) : Nat := if k < n then x k else 0
      let set : List Nat := (List.range n).filter fun j => (val s u a).toNat.testBit j
      (CanFire s u slot word (.shuf t d a b) →
        ∃ v, LaneWise w v (fun k => pick (y k)) ∧ Yields s u slot word (.shuf t d a b) d a v) ∧
      (CanFire s u slot word (.bcast t d a b) →
        ∃ v, LaneWise w v (fun _ => pick ix) ∧ Yields s u slot word (.bcast t d a b) d a v) ∧
      (CanFire s u slot word (.ins t d a b) →
        ∃ v, LaneWise w v (fun k => if k = ix then x 0 else z k) ∧ Yields s u slot word (.ins t d a b) d a v) ∧
      (CanFire s u slot word (.ext t d a b) →
        ∃ v, LaneWise w v (fun k => if k = 0 then pick ix else 0) ∧ Yields s u slot word (.ext t d a b) d a v) ∧
      (t.isNarrow = true → CanFire s u slot word (.unpkLo t d a) →
        ∃ v, LaneWise (2 * w) v (fun k => (intOf t (val s u a) k % 2 ^ (2 * w)).toNat) ∧
          Yields s u slot word (.unpkLo t d a) d a v) ∧
      (t.isNarrow = true → CanFire s u slot word (.unpkHi t d a) →
        ∃ v, LaneWise (2 * w) v (fun k => (intOf t (val s u a) (n / 2 + k) % 2 ^ (2 * w)).toNat) ∧
          Yields s u slot word (.unpkHi t d a) d a v) ∧
      (CanFire s u slot word (.vconf t d a) →
        ∃ v, LaneWise w v (fun k => ((List.range k).map fun j => if x j = x k then 2 ^ j else 0).sum % 2 ^ w) ∧
          Yields s u slot word (.vconf t d a) d a v) ∧
      (CanFire s u slot word (.mskidx t d a b) →
        ∃ v, LaneWise w v (fun k => match set[k]? with | some j => (y 0 + j) % 2 ^ w | none => 2 ^ w - 1) ∧
          Yields s u slot word (.mskidx t d a b) d a v))

/-- R88, R114, R119, R122: saturating sums and differences, packing, the byte dot product and the field extract. -/
def Obligations.SaturatingDotAndFieldInstructions : Prop :=
  ∀ (s : State) (u : UnitId) (slot : Nat) (word : Word) (t : LaneType) (d : Dst) (a b : Src) (sg : Bool),
    let w := LaneType.width t
    let sr := (Machine.getElem s u).srNow
    let clamp (k : Int) : Nat := (max (botOf t) (min k (topOf t)) % 2 ^ w).toNat
    let sum (k : Nat) : Int := intOf t (val s u a) k + intOf t (val s u b) k
    let dif (k : Nat) : Int := intOf t (val s u a) k - intOf t (val s u b) k
    let n := 64 / w
    let wide (k : Nat) : Int :=
      let q := if k < n then laneOf (2 * w) (val s u a) k else laneOf (2 * w) (val s u b) (k - n)
      if LaneType.signed t then Sys2Proof.Num.toSigned q (2 * w) else q
    let bt : LaneType := if sg then .i8x16 else .n8x16
    let prod (k : Nat) : Int := intOf bt (val s u a) k * intOf bt (val s u b) k
    let pos := (val s u b).toNat % 256
    let len := min ((val s u b).toNat / 256 % 256) w
    let field (k : Nat) : Int := intOf t (val s u a) k / 2 ^ pos % 2 ^ len
    (CanFire s u slot word (.adds t d a b) →
      ∃ v, LaneWise w v (fun k => clamp (sum k)) ∧
        Gives s u slot word (.adds t d a b) 1 d a v (satFlag t (128 / w) sum) sr) ∧
    (CanFire s u slot word (.subs t d a b) →
      ∃ v, LaneWise w v (fun k => clamp (dif k)) ∧
        Gives s u slot word (.subs t d a b) 1 d a v (satFlag t (128 / w) dif) sr) ∧
    (t.isNarrow = true → CanFire s u slot word (.pack t d a b) →
      ∃ v, LaneWise w v (fun k => clamp (wide k)) ∧
        Gives s u slot word (.pack t d a b) 1 d a v (satFlag t (128 / w) wide) sr) ∧
    (CanFire s u slot word (.dot4 sg d a b) →
      ∃ v, LaneWise 32 v (fun k => ((prod (4 * k) + prod (4 * k + 1) + prod (4 * k + 2) + prod (4 * k + 3)) % 2 ^ 32).toNat) ∧
        Yields s u slot word (.dot4 sg d a b) d a v) ∧
    (CanFire s u slot word (.bfx t d a b) →
      ∃ v, LaneWise w v (fun k =>
          if len = 0 then 0
          else if LaneType.signed t then (Sys2Proof.Num.toSigned (field k).toNat len % 2 ^ w).toNat else (field k).toNat) ∧
        Yields s u slot word (.bfx t d a b) d a v)

/-- R115: quotients towards zero, remainders with the sign of the dividend, and the fixed answers and the DZ flag of a zero
divisor. -/
def Obligations.DivisionOfLanes : Prop :=
  ∀ (s : State) (u : UnitId) (slot : Nat) (word : Word) (t : LaneType) (d : Dst) (a b : Src),
    let w := LaneType.width t
    let x := intOf t (val s u a)
    let y := intOf t (val s u b)
    let zero (k : Nat) : Bool := laneOf w (val s u b) k = 0
    let dz : Sys2Proof.Num.Flags := if (List.range (128 / w)).any zero then Sys2Proof.Num.fDZ else 0
    let sr := (Machine.getElem s u).srNow
    (CanFire s u slot word (.div t d a b) →
      ∃ v, LaneWise w v (fun k => if zero k then 2 ^ w - 1 else ((x k).tdiv (y k) % 2 ^ w).toNat) ∧
        Gives s u slot word (.div t d a b) 16 d a v dz sr) ∧
    (CanFire s u slot word (.rem t d a b) →
      ∃ v, LaneWise w v (fun k => if zero k then laneOf w (val s u a) k else ((x k).tmod (y k) % 2 ^ w).toNat) ∧
        Gives s u slot word (.rem t d a b) 16 d a v dz sr)

/-- R113: the integer comparisons. -/
def Obligations.IntegerComparisonsDecide : Prop :=
  ∀ (s : State) (u : UnitId) (slot : Nat) (word : Word) (t : LaneType) (m : Reduce) (p : Fin 8) (a b : Src),
    let n := 128 / LaneType.width t
    let x := intOf t (val s u a)
    let y := intOf t (val s u b)
    (CanFire s u slot word (.cmpEq t m p a b) →
      Decides s u slot word (.cmpEq t m p a b) 1 p (reduced m n fun k => decide (x k = y k)) 0) ∧
    (CanFire s u slot word (.cmpLt t m p a b) →
      Decides s u slot word (.cmpLt t m p a b) 1 p (reduced m n fun k => decide (x k < y k)) 0) ∧
    (CanFire s u slot word (.cmpLe t m p a b) →
      Decides s u slot word (.cmpLe t m p a b) 1 p (reduced m n fun k => decide (x k ≤ y k)) 0)

/-! ## Lanes -/

/-- R121, R124, R125, R126, R128 in the integer types: sums, extremes, combination by key and scans take one cycle, wrap and
raise nothing.
R104, R121, R124, R125, R126, R128 in the floating types: the reductions, the combination by key and the scans take 8 cycles
and round every addition, in the order of the lanes. -/
def Obligations.ReductionsAndScans : Prop :=
  (
    ∀ (s : State) (u : UnitId) (slot : Nat) (word : Word) (t : LaneType) (d : Dst) (a b : Src), t.isInt = true →
      let w := LaneType.width t
      let n := 128 / w
      let x := laneOf w (val s u a)
      let y := laneOf w (val s u b)
      let least (k : Nat) : Prop := k < n ∧ ∀ j, j < n → intOf t (val s u a) k ≤ intOf t (val s u a) j
      let most (k : Nat) : Prop := k < n ∧ ∀ j, j < n → intOf t (val s u a) j ≤ intOf t (val s u a) k
      (CanFire s u slot word (.rsum t d a) →
        ∃ v, LaneWise w v (fun k => if k = 0 then ((List.range n).map x).sum % 2 ^ w else 0) ∧
          Yields s u slot word (.rsum t d a) d a v) ∧
      (CanFire s u slot word (.rmax t d a) →
        ∃ v m, most m ∧ LaneWise w v (fun k => if k = 0 then x m else 0) ∧ Yields s u slot word (.rmax t d a) d a v) ∧
      (CanFire s u slot word (.rmin t d a) →
        ∃ v m, least m ∧ LaneWise w v (fun k => if k = 0 then x m else 0) ∧ Yields s u slot word (.rmin t d a) d a v) ∧
      (CanFire s u slot word (.vcomb t d a b) →
        ∃ v, LaneWise w v (fun k =>
            if (List.range k).any (fun j => y j = y k) then 0
            else ((List.range n).map fun j => if k ≤ j ∧ y j = y k then x j else 0).sum % 2 ^ w) ∧
          Yields s u slot word (.vcomb t d a b) d a v) ∧
      (CanFire s u slot word (.pscan t d a b) →
        ∃ v, LaneWise w v (fun k => (y (n - 1) + ((List.range (k + 1)).map x).sum) % 2 ^ w) ∧
          Yields s u slot word (.pscan t d a b) d a v) ∧
      (t.isPaired = true → CanFire s u slot word (.lscan t d a b) →
        ∃ v, (∀ j, 2 * j + 1 < n →
            let ca := if j = 0 then y (n - 2) else laneOf w v (2 * j - 2)
            let cb := if j = 0 then y (n - 1) else laneOf w v (2 * j - 1)
            laneOf w v (2 * j) = x (2 * j) * ca % 2 ^ w ∧ laneOf w v (2 * j + 1) = (x (2 * j) * cb + x (2 * j + 1)) % 2 ^ w) ∧
          Yields s u slot word (.lscan t d a b) d a v)) ∧
  (
    ∀ (s : State) (u : UnitId) (slot : Nat) (word : Word) (t : LaneType) (d : Dst) (a b : Src),
      t = .f64x2 ∨ t = .f32x4 →
      let e := Machine.getElem s u
      let env : Sys2Proof.Num.Env := { flags := 0, sr := e.srNow }
      let w := LaneType.width t
      let n := 128 / w
      let f := LaneType.fp t
      let xs := (List.range n).map (laneOf w (val s u a))
      let ys := (List.range n).map (laneOf w (val s u b))
      let first (r : Nat × Sys2Proof.Num.Env) (i : Instr) : Prop :=
        ∃ v, LaneWise w v (fun k => if k = 0 then r.1 % 2 ^ w else 0) ∧ Gives s u slot word i 8 d a v r.2.flags r.2.sr
      let each (r : List Nat × Sys2Proof.Num.Env) (i : Instr) : Prop :=
        ∃ v, LaneWise w v (fun k => r.1.getD k 0 % 2 ^ w) ∧ Gives s u slot word i 8 d a v r.2.flags r.2.sr
      (CanFire s u slot word (.rsum t d a) → first (sumLanes f e.rm xs env) (.rsum t d a)) ∧
      (CanFire s u slot word (.rmax t d a) → first (extremeFp f (fun x m => !Sys2Proof.Num.totalLe x m) xs env) (.rmax t d a)) ∧
      (CanFire s u slot word (.rmin t d a) → first (extremeFp f (fun x m => !Sys2Proof.Num.totalLe m x) xs env) (.rmin t d a)) ∧
      (CanFire s u slot word (.vcomb t d a b) →
        each (combine (addRound f e.rm) xs ys (List.range n) env) (.vcomb t d a b)) ∧
      (CanFire s u slot word (.pscan t d a b) →
        each (prefixSums (addRound f e.rm) (ys.getD (n - 1) 0) xs env) (.pscan t d a b)) ∧
      (CanFire s u slot word (.lscan t d a b) →
        each (affineScan t e.rm (ys.getD (n - 2) 0) (ys.getD (n - 1) 0) xs env) (.lscan t d a b)))

/-! ## Floating point -/

/-- R129, R130: sums, differences, products, quotients, roots and fused products.
R143, R145: the transcendentals round the rule of their core once, in 8 cycles. -/
def Obligations.FloatResultsRoundOnce : Prop :=
  (
    ∀ (s : State) (u : UnitId) (slot : Nat) (word : Word) (t : LaneType) (d : Dst) (a b : Src), t.isFloat = true →
      let rm := (Machine.getElem s u).rm
      let x (k : Nat) : Sys2Proof.Num.Val := Sys2Proof.Num.decode (LaneType.fp t) (laneOf (LaneType.width t) (val s u a) k)
      let y (k : Nat) : Sys2Proof.Num.Val := Sys2Proof.Num.decode (LaneType.fp t) (laneOf (LaneType.width t) (val s u b) k)
      let z (k : Nat) : Sys2Proof.Num.Val := Sys2Proof.Num.decode (LaneType.fp t) (laneOf (LaneType.width t) (dstVal s u d) k)
      (CanFire s u slot word (.fadd t d a b) →
        RoundsLanes s u slot word (.fadd t d a b) 4 t d a fun k => Sys2Proof.Num.add (x k) (y k) rm) ∧
      (CanFire s u slot word (.fsub t d a b) →
        RoundsLanes s u slot word (.fsub t d a b) 4 t d a fun k => Sys2Proof.Num.add (x k) (y k).negate rm) ∧
      (CanFire s u slot word (.fmul t d a b) →
        RoundsLanes s u slot word (.fmul t d a b) 4 t d a fun k => Sys2Proof.Num.mul (x k) (y k)) ∧
      (CanFire s u slot word (.fma t d a b) →
        RoundsLanes s u slot word (.fma t d a b) 4 t d a fun k => Sys2Proof.Num.fma (x k) (y k) (z k) rm) ∧
      (CanFire s u slot word (.fms t d a b) →
        RoundsLanes s u slot word (.fms t d a b) 4 t d a fun k => Sys2Proof.Num.fma (x k) (y k) (z k).negate rm) ∧
      (CanFire s u slot word (.fnma t d a b) →
        RoundsLanes s u slot word (.fnma t d a b) 4 t d a fun k => Sys2Proof.Num.fma (x k).negate (y k) (z k) rm) ∧
      (CanFire s u slot word (.fdiv t d a b) →
        RoundsLanes s u slot word (.fdiv t d a b) 16 t d a fun k => Sys2Proof.Num.div (x k) (y k)) ∧
      (CanFire s u slot word (.fsqrt t d a) →
        RoundsLanes s u slot word (.fsqrt t d a) 16 t d a fun k => Sys2Proof.Num.sqrt (x k))) ∧
  (
    ∀ (s : State) (u : UnitId) (slot : Nat) (word : Word) (t : LaneType) (d : Dst) (a : Src), t.isTrans = true →
      let x (k : Nat) : Sys2Proof.Num.Val := Sys2Proof.Num.decode (LaneType.fp t) (laneOf (LaneType.width t) (val s u a) k)
      (CanFire s u slot word (.frcp t d a) → RoundsLanes s u slot word (.frcp t d a) 8 t d a fun k => rcpVal (x k)) ∧
      (CanFire s u slot word (.frsq t d a) → RoundsLanes s u slot word (.frsq t d a) 8 t d a fun k => rsqVal (x k)) ∧
      (CanFire s u slot word (.fexp2 t d a) → RoundsLanes s u slot word (.fexp2 t d a) 8 t d a fun k => exp2Val (x k)) ∧
      (CanFire s u slot word (.flog2 t d a) → RoundsLanes s u slot word (.flog2 t d a) 8 t d a fun k => log2Val (x k)) ∧
      (CanFire s u slot word (.fsig t d a) → RoundsLanes s u slot word (.fsig t d a) 8 t d a fun k => sigVal (x k)) ∧
      (CanFire s u slot word (.ftanh t d a) → RoundsLanes s u slot word (.ftanh t d a) 8 t d a fun k => tanhVal (x k)) ∧
      (CanFire s u slot word (.fsin t d a) → RoundsLanes s u slot word (.fsin t d a) 8 t d a fun k => sinVal (x k)) ∧
      (CanFire s u slot word (.fcos t d a) → RoundsLanes s u slot word (.fcos t d a) 8 t d a fun k => cosVal (x k)))

/-- R131 to R134: minima and maxima without rounding, the sign operations as bit operations, the classes, and the comparisons
with the NV that their NaNs raise. -/
def Obligations.FloatOrderSignsAndClasses : Prop :=
  ∀ (s : State) (u : UnitId) (slot : Nat) (word : Word) (t : LaneType) (m : Reduce) (p : Fin 8) (d : Dst) (a b : Src),
    t.isFloat = true →
    let w := LaneType.width t
    let n := 128 / w
    let f := LaneType.fp t
    let sr := (Machine.getElem s u).srNow
    let x := laneOf w (val s u a)
    let vx (k : Nat) : Sys2Proof.Num.Val := Sys2Proof.Num.decode f (x k)
    let vy (k : Nat) : Sys2Proof.Num.Val := Sys2Proof.Num.decode f (laneOf w (val s u b) k)
    let flags (op : Nat → Sys2Proof.Num.Val × Sys2Proof.Num.Flags) : Sys2Proof.Num.Flags := (List.range n).foldl (fun m k => m ||| (op k).2) 0
    let anyLane (q : Sys2Proof.Num.Val → Bool) : Bool := (List.range n).any fun k => q (vx k) || q (vy k)
    let quiet : Sys2Proof.Num.Flags := if anyLane fun v => v = .nan true then Sys2Proof.Num.fNV else 0
    let loud : Sys2Proof.Num.Flags := if anyLane fun v => v.isNaN then Sys2Proof.Num.fNV else 0
    (CanFire s u slot word (.fmin t d a b) →
      ∃ v, LaneWise w v (fun k => (Sys2Proof.Num.encode f .rne (Sys2Proof.Num.fmin (vx k) (vy k)).1 0).1 % 2 ^ w) ∧
        Gives s u slot word (.fmin t d a b) 4 d a v (flags fun k => Sys2Proof.Num.fmin (vx k) (vy k)) sr) ∧
    (CanFire s u slot word (.fmax t d a b) →
      ∃ v, LaneWise w v (fun k => (Sys2Proof.Num.encode f .rne (Sys2Proof.Num.fmax (vx k) (vy k)).1 0).1 % 2 ^ w) ∧
        Gives s u slot word (.fmax t d a b) 4 d a v (flags fun k => Sys2Proof.Num.fmax (vx k) (vy k)) sr) ∧
    (CanFire s u slot word (.fabs t d a) →
      ∃ v, LaneWise w v (fun k => x k % 2 ^ (w - 1)) ∧ Yields s u slot word (.fabs t d a) d a v) ∧
    (CanFire s u slot word (.fneg t d a) →
      ∃ v, LaneWise w v (fun k => (x k).xor (2 ^ (w - 1))) ∧ Yields s u slot word (.fneg t d a) d a v) ∧
    (CanFire s u slot word (.fclass t d a) →
      ∃ v, LaneWise w v (fun k => classBit f (x k)) ∧ Yields s u slot word (.fclass t d a) d a v) ∧
    (CanFire s u slot word (.fcmpEq t m p a b) →
      Decides s u slot word (.fcmpEq t m p a b) 4 p (reduced m n fun k => Sys2Proof.Num.eq (vx k) (vy k)) quiet) ∧
    (CanFire s u slot word (.fcmpLt t m p a b) →
      Decides s u slot word (.fcmpLt t m p a b) 4 p (reduced m n fun k => Sys2Proof.Num.lt (vx k) (vy k)) loud) ∧
    (CanFire s u slot word (.fcmpLe t m p a b) →
      Decides s u slot word (.fcmpLe t m p a b) 4 p (reduced m n fun k => Sys2Proof.Num.lt (vx k) (vy k) || Sys2Proof.Num.eq (vx k) (vy k)) loud) ∧
    (CanFire s u slot word (.fcmpUn t m p a b) →
      Decides s u slot word (.fcmpUn t m p a b) 4 p (reduced m n fun k => (vx k).isNaN || (vy k).isNaN) quiet)

/-- R135 to R138: the conversions between formats, to integers and from integers, in the rounding mode that the instruction
names or else in that of FPCTL. -/
def Obligations.ConversionsOfLanes : Prop :=
  ∀ (s : State) (u : UnitId) (slot : Nat) (word : Word) (g : Fin 4) (rm : Option Rounding) (d : Dst) (a : Src),
    let mode := rm.getD (Machine.getElem s u).rm
    (∀ row : Fin 16, convOk (cvtShape row) g rm = true → CanFire s u slot word (.cvt row g rm d a) →
      Converts s u slot word (.cvt row g rm d a) d a (cvtPair row).1.bits (cvtPair row).2.bits g
        (if 0xE ≤ row.val then rintLane (cvtPair row).1 mode
          else cvtLane (cvtPair row).1 (cvtPair row).2 (cvtShape row).exact mode)) ∧
    (∀ row : Fin 11, convOk (cvtiShape row) g rm = true → CanFire s u slot word (.cvti row g rm d a) →
      Converts s u slot word (.cvti row g rm d a) d a (cvtiPair row).1.bits (cvtiPair row).2.1 g
        (cvtiLane (cvtiPair row).1 (cvtiPair row).2.1 (cvtiPair row).2.2 mode)) ∧
    (∀ row : Fin 11, convOk (cvtfShape row) g rm = true → CanFire s u slot word (.cvtf row g rm d a) →
      Converts s u slot word (.cvtf row g rm d a) d a (cvtfPair row).1 (cvtfPair row).2.2.bits g
        (cvtfLane (cvtfPair row).1 (cvtfPair row).2.1 (cvtfPair row).2.2 (cvtfShape row).exact mode))

/-- R139 to R142: the three-term split, the dot product of two terms, and the block quantisation instructions. -/
def Obligations.SplitDotAndBlockInstructions : Prop :=
  ∀ (s : State) (u : UnitId) (slot : Nat) (word : Word) (t : LaneType) (m : MxFmt) (term : SplitTerm) (d : Dst) (a b : Src),
    let e := Machine.getElem s u
    let env : Sys2Proof.Num.Env := { flags := 0, sr := e.srNow }
    let f := LaneType.fp t
    let w := LaneType.width t
    let g : Sys2Proof.Num.Fp := if f = .fp32 then .fp64 else .fp32
    let x := laneOf w (val s u a)
    let y := laneOf w (val s u b)
    let both (k : Nat) : Nat := if k < 4 then laneOf 32 (val s u a) k else laneOf 32 (val s u b) (k - 4)
    let dot := Sys2Proof.Num.mapEnv (fun k env => roundLane g e.rm (dotPair f e.rm (x (2 * k)) (y (2 * k)) (x (2 * k + 1)) (y (2 * k + 1))) env)
      (List.range (64 / w)) env
    let c := (val s u b).toNat
    let grp := c / 256 % 4
    let enc := Sys2Proof.Num.mapEnv (fun k env => qmxElem m (c % 256) e.rm (laneOf 32 (val s u a) k) env) [0, 1, 2, 3] env
    let dec := Sys2Proof.Num.mapEnv (fun k env =>
      Sys2Proof.Num.enc .fp32 .rne (Sys2Proof.Num.mxDecode m (c % 256) (laneOf 8 (val s u a) (4 * grp + k) % 2 ^ Sys2Proof.Num.mxBits m)) env) [0, 1, 2, 3] env
    (CanFire s u slot word (.split3 term d a b) →
      ∃ v, LaneWise 16 v (fun k => splitLane term (both k) % 2 ^ 16) ∧
        Gives s u slot word (.split3 term d a b) 4 d a v
          (if (List.range 8).any fun k => Sys2Proof.Num.decode .fp32 (both k) = .nan true then Sys2Proof.Num.fNV else 0) e.srNow) ∧
    (t.isDot = true → CanFire s u slot word (.fdot2 t d a b) →
      ∃ v, LaneWise (2 * w) v (fun k => dot.1.getD k 0 % 2 ^ (2 * w)) ∧
        Gives s u slot word (.fdot2 t d a b) 4 d a v dot.2.flags dot.2.sr) ∧
    (CanFire s u slot word (.qmxScale m d a) →
      ∃ v : Quad, v.toNat = (mxScale m (Sys2Proof.Num.decode .fp32 (laneOf 32 (val s u a) 0))).1 ∧
        Gives s u slot word (.qmxScale m d a) 4 d a v (mxScale m (Sys2Proof.Num.decode .fp32 (laneOf 32 (val s u a) 0))).2 e.srNow) ∧
    (CanFire s u slot word (.qmxEnc m d a b) →
      ∃ v, LaneWise 8 v (fun k => if 4 * grp ≤ k then enc.1.getD (k - 4 * grp) 0 % 2 ^ 8 else 0) ∧
        Gives s u slot word (.qmxEnc m d a b) 4 d a v enc.2.flags enc.2.sr) ∧
    (CanFire s u slot word (.dqmx m d a b) →
      ∃ v, LaneWise 32 v (fun k => dec.1.getD k 0 % 2 ^ 32) ∧ Gives s u slot word (.dqmx m d a b) 4 d a v dec.2.flags dec.2.sr)


/-! ## The lane slice, memory requests, synchronisation and commands -/

/-- R155, R156: an access of the lane slice in range and aligned reads or writes little-endian bytes, and moves its A register;
out of range it traps 0x081, and misaligned 0x083. aset and aadd write A registers. -/
def Obligations.LaneSliceInstructions : Prop :=
  ∀ (s : State) (u : UnitId) (slot : Nat) (word : Word) (w : Width) (lw : LaneWidth) (m : Bump) (d : Dst) (n : Fin 4)
    (ix : Fin 16) (a : Src) (imm : BitVec 9),
    let e := Machine.getElem s u
    let k := Width.bytes w
    let at_ := (e.areg n).toNat
    let bump : List Act := match m with
      | .none => [] | .inc => [.a n (e.areg n + .ofNat 32 k)] | .dec => [.a n (e.areg n - .ofNat 32 k)]
    let lk := LaneWidth.bytes lw
    let at_k (q : Quad) (j : Nat) : Nat := at_ + laneOf (8 * lk) q j * lk
    let fits (q : Quad) : Prop := ∀ j, j < 16 / lk → at_k q j < 2 ^ 13 ∧ at_k q j % lk = 0
    let lanes := List.range (16 / lk)
    (CanFire s u slot word (.lsld w m d n) → at_ < 2 ^ 13 → at_ % k = 0 →
      Fires s u slot word (.lsld w m d n) 1
        { acts := dstActs e e.tickets d 0 (.ofNat 128 (leNat (Memory.readN e.lane at_ k))) ++ bump }) ∧
    (CanFire s u slot word (.lsst w m n a) → at_ < 2 ^ 13 → at_ % k = 0 →
      Fires s u slot word (.lsst w m n a) 1 { acts := [.lane at_ (leBytes k (val s u a).toNat)] ++ bump }) ∧
    (CanFire s u slot word (.lsld w m d n) → 2 ^ 13 ≤ at_ → Traps s u slot word (.lsld w m d n) 0x081 0) ∧
    (CanFire s u slot word (.lsst w m n a) → 2 ^ 13 ≤ at_ → Traps s u slot word (.lsst w m n a) 0x081 0) ∧
    (CanFire s u slot word (.lsld w m d n) → at_ < 2 ^ 13 → at_ % k ≠ 0 → Traps s u slot word (.lsld w m d n) 0x083 0) ∧
    (CanFire s u slot word (.lsst w m n a) → at_ < 2 ^ 13 → at_ % k ≠ 0 → Traps s u slot word (.lsst w m n a) 0x083 0) ∧
    (CanFire s u slot word (.lsldx lw d n a) → fits (val s u a) →
      ∃ v, LaneWise (8 * lk) v (fun j => leNat (Memory.readN e.lane (at_k (val s u a) j) lk)) ∧
        Fires s u slot word (.lsldx lw d n a) 1 { acts := dstActs e e.tickets d 0 v }) ∧
    (CanFire s u slot word (.lsstx lw ix n a) → fits (e.dreg ix) →
      Fires s u slot word (.lsstx lw ix n a) 1
        { acts := lanes.map fun j => .lane (at_k (e.dreg ix) j) (leBytes lk (laneOf (8 * lk) (val s u a) j)) }) ∧
    (CanFire s u slot word (.aset n a imm) →
      ∃ v : Word, v.toNat = (((val s u a).toNat + imm.toInt) % 2 ^ 32).toNat ∧
        Fires s u slot word (.aset n a imm) 1 { acts := [.a n v] }) ∧
    (CanFire s u slot word (.aadd n a imm) →
      ∃ v : Word, v.toNat = ((at_ + (val s u a).toNat + 16 * imm.toInt) % 2 ^ 32).toNat ∧
        Fires s u slot word (.aadd n a imm) 1 { acts := [.a n v] })

/-- R148, R157 to R161: what each memory instruction asks of its port at its V, where its addresses fit. Each of them completes so: where
nothing holds its request up, the request is under way from its V on; a gather or scatter without a lane asks for nothing of a posted
update, and a prefetch of what is not coherent memory is dropped. -/
def Obligations.MemoryInstructionsAsk : Prop :=
  (
    ∀ (s : State) (u : UnitId) (slot : Nat) (word : Word) (w : Width) (lw : LaneWidth) (cw : CasWidth) (rc : Reuse) (na w32 : Bool)
      (op : AtomOp) (sop : ScatterOp) (d : Dst) (r : Fin 16) (a b : Src),
      let e := Machine.getElem s u
      let va := laneOf 64 (val s u a) 0
      let x := (val s u b).toNat
      let k := Width.bytes w
      let lk := LaneWidth.bytes lw
      let gather := lanesOf lw va (val s u b) 0
      let scatter := lanesOf lw va (e.dreg r) (val s u b)
      let sm : MemOp := match sop with | .st => .store | .add => .add lw | .fadd => .fadd lw
      let mk := if w32 then 4 else 8
      let cb := CasWidth.bytes cw
      (CanFire s u slot word (.ldq w rc d a b) → AddressFits va k →
        Fires s u slot word (.ldq w rc d a b) 2 { acts := [.mem (ask s u a d k .load false rc false 0 0)], keepD := Dst.bits d }) ∧
      (CanFire s u slot word (.stq w na d a b) → AddressFits va k →
        Fires s u slot word (.stq w na d a b) 2 { acts := [.mem (ask s u a d k .store false .normal na x 0)], keepD := Dst.bits d }) ∧
      (CanFire s u slot word (.stqp w na a b) → AddressFits va k →
        Fires s u slot word (.stqp w na a b) 1 { acts := [.mem (ask s u a .nul k .store true .normal na x 0)] }) ∧
      (CanFire s u slot word (.ldqx lw rc d a b) → (∀ g ∈ gather, AddressFits g.2.1 lk) →
        Fires s u slot word (.ldqx lw rc d a b) 2
          { acts := [.mem { op := .load, reuse := rc, words := gather, lanes := 16 / lk, laneBits := 8 * lk,
                            sink := replySink e.tickets d (tagOf e s.cycle a) }], keepD := Dst.bits d }) ∧
      (CanFire s u slot word (.stqx lw sop r a b) → (∀ g ∈ scatter, AddressFits g.2.1 lk) →
        Fires s u slot word (.stqx lw sop r a b) 2
          { acts := [.mem { op := sm, posted := true, words := scatter, lanes := 16 / lk, laneBits := 8 * lk, sink := .nul }] }) ∧
      (CanFire s u slot word (.monarm w32 d a b) → AddressFits va mk →
        Fires s u slot word (.monarm w32 d a b) 2 { acts := [.mem (ask s u a d mk .monitor false .normal false 0 x)], keepD := Dst.bits d }) ∧
      (CanFire s u slot word (.pref rc a) → AddressFits va 128 →
        Fires s u slot word (.pref rc a) 1
          { acts := [.mem { op := .prefetch, reuse := rc, words := [(0, va, 128, 0, 0)], sink := .nul }] }) ∧
      (CanFire s u slot word (.pref rc a) → ¬ AddressFits va 128 → Fires s u slot word (.pref rc a) 1 { acts := [] }) ∧
      (CanFire s u slot word (.atom op d a b) → AddressFits va (AtomOp.bytes op) →
        Fires s u slot word (.atom op d a b) 2
          { acts := [.mem (ask s u a d (AtomOp.bytes op) (.atom op) (d = .nul) .normal false x 0)], keepD := Dst.bits d }) ∧
      (CanFire s u slot word (.cas cw r a b) → AddressFits va cb →
        Fires s u slot word (.cas cw r a b) 2
          { acts := [.mem (ask s u a (.d r) cb .cas false .normal false x (e.dreg r).toNat)], keepD := dbit r })) ∧
  (
    ∀ (s : State) (u : UnitId) (slot : Nat) (word : Word) (w : Width) (lw : LaneWidth) (cw : CasWidth) (rc : Reuse) (na w32 : Bool)
      (op : AtomOp) (sop : ScatterOp) (d : Dst) (k : Fin 16) (a b : Src) (i : Instr) (lat : Nat) (m : MemSpec) (keep : BitVec 16)
      (rts : List Route),
      let e := Machine.getElem s u
      let va := laneOf 64 (val s u a) 0
      let x := (val s u b).toNat
      let lk := LaneWidth.bytes lw
      let sm : MemOp := match sop with | .st => .store | .add => .add lw | .fadd => .fadd lw
      let r : Fired := { acts := [.mem m], keepD := keep }
      let vis := (flightOf s u slot word i lat r).vis
      let coherent (h : Home) : Prop := ∃ n, h = .slice n ∨ h = .remote n
      (i, lat, m, keep) ∈
        [(Instr.ldq w rc d a b, 2, ask s u a d (Width.bytes w) .load false rc false 0 0, Dst.bits d),
         (.stq w na d a b, 2, ask s u a d (Width.bytes w) .store false .normal na x 0, Dst.bits d),
         (.stqp w na a b, 1, ask s u a .nul (Width.bytes w) .store true .normal na x 0, 0),
         (.ldqx lw rc d a b, 2, { op := .load, reuse := rc, words := lanesOf lw va (val s u b) 0, lanes := 16 / lk, laneBits := 8 * lk,
                                  sink := replySink e.tickets d (tagOf e s.cycle a) }, Dst.bits d),
         (.stqx lw sop k a b, 2, { op := sm, posted := true, words := lanesOf lw va (e.dreg k) (val s u b), lanes := 16 / lk,
                                   laneBits := 8 * lk, sink := .nul }, 0),
         (.monarm w32 d a b, 2, ask s u a d (if w32 then 4 else 8) .monitor false .normal false 0 x, Dst.bits d),
         (.pref rc a, 1, { op := .prefetch, reuse := rc, words := [(0, va, 128, 0, 0)], sink := .nul }, 0),
         (.atom op d a b, 2, ask s u a d (AtomOp.bytes op) (.atom op) (d = .nul) .normal false x 0, Dst.bits d),
         (.cas cw k a b, 2, ask s u a (.d k) (CasWidth.bytes cw) .cas false .normal false x (e.dreg k).toNat, dbit k)] →
      CanFire s u slot word i → (∀ g ∈ m.words, AddressFits g.2.1 g.2.2.1) → Unhindered s u m rts →
      ((m.op = .monitor ∨ m.op = .prefetch → ∀ rt ∈ rts, coherent rt.home) → (m.posted = true → m.words ≠ []) →
        Shows s u slot word i lat r fun v => UnderWay s v u slot word m rts vis keep) ∧
      (m.posted = true → m.words = [] → Shows s u slot word i lat r fun v => NothingAsked s v u) ∧
      (m.op = .prefetch → (∃ rt ∈ rts, ¬ coherent rt.home) → Shows s u slot word i lat r fun v => NothingAsked s v u))

/-- R150: an address beyond 2^56 traps 0x085, and a misaligned one 0x084, with the address; the first check comes first. -/
def Obligations.BadAddressesTrapAtFiring : Prop :=
  ∀ (s : State) (u : UnitId) (slot : Nat) (word : Word) (w : Width) (cw : CasWidth) (rc : Reuse) (na : Bool) (op : AtomOp)
    (d : Dst) (r : Fin 16) (a b : Src) (i : Instr) (n : Nat),
    (i, n) ∈ [(Instr.ldq w rc d a b, Width.bytes w), (.stq w na d a b, Width.bytes w), (.stqp w na a b, Width.bytes w),
      (.monarm true d a b, 4), (.monarm false d a b, 8), (.atom op d a b, AtomOp.bytes op), (.cas cw r a b, CasWidth.bytes cw)] →
    CanFire s u slot word i →
    let va := laneOf 64 (val s u a) 0
    (2 ^ 56 ≤ va → Traps s u slot word i 0x085 (.ofNat 64 va)) ∧
    (va < 2 ^ 56 → va % n ≠ 0 → Traps s u slot word i 0x084 (.ofNat 64 va))

/-- R162 to R166: what each release and wait begins at its V, where its operands are in range. -/
def Obligations.SynchronisationInstructionsAsk : Prop :=
  ∀ (s : State) (u : UnitId) (slot : Nat) (word : Word) (d : Dst) (a b : Src) (p : Fin 8) (k : Fin 16) (n : BitVec 8) (sc : Scope),
    let e := Machine.getElem s u
    let bar := laneOf 64 (val s u a) 0
    let x := laneOf 64 (val s u b) 0
    let ph : BitVec 16 := (val s u b).setWidth 16
    let sink := replySink e.tickets d (tagOf e s.cycle a)
    let plain := replySink e.tickets d 0
    let phase := ((getCore s u.core).bar bar).phase
    let behind := (phase - ph).toNat
    let late : Bool := 2 ≤ behind && behind ≤ 0x7FFF
    let fires (i : Instr) (acts : List Act) : Prop := Fires s u slot word i 1 { acts := acts, keepD := Dst.bits d }
    (CanFire s u slot word (.barArr d a) → bar < 2048 → fires (.barArr d a) [.wait (.arrive bar 1 []) sink]) ∧
    (CanFire s u slot word (.barArrN d a b) → bar < 2048 → 1 ≤ x → x ≤ 4095 →
      fires (.barArrN d a b) [.wait (.arrive bar x []) sink]) ∧
    (CanFire s u slot word (.barArrInit d a b) → bar < 2048 → (val s u b).toNat % 4096 ≠ 0 →
      fires (.barArrInit d a b) [.initBar bar ((val s u b).toNat % 4096) sink]) ∧
    (CanFire s u slot word (.barWaitFull d a b p) → bar < 2048 →
      fires (.barWaitFull d a b p)
        ((if p = 0 then [] else [.p (predBit p) (if late then predBit p else 0)]) ++ [.wait (.barFull bar ph late) sink])) ∧
    (CanFire s u slot word (.barWaitPar d a b) → bar < 2048 →
      fires (.barWaitPar d a b) [.wait (.barPar bar ph phase) sink]) ∧
    (CanFire s u slot word (.tlWait k d a) → fires (.tlWait k d a) [.wait (.timeline k ((val s u a).setWidth 64)) sink]) ∧
    (CanFire s u slot word (.tlSig k d a) → 8 ≤ k.val →
      fires (.tlSig k d a) [.wait (.signal k ((val s u a).setWidth 64) []) sink]) ∧
    (CanFire s u slot word (.tlSig k d a) → k.val < 8 → Traps s u slot word (.tlSig k d a) 0x142 0) ∧
    (CanFire s u slot word (.barArr d a) → 2048 ≤ bar → Traps s u slot word (.barArr d a) 0x141 0) ∧
    (CanFire s u slot word (.cwait d n) → fires (.cwait d n) [.wait (.count n.toNat) plain]) ∧
    (CanFire s u slot word (.fence sc d) → fires (.fence sc d) [.wait (.fence sc [] 0 0 false) plain])

/-- R44, R167, R185 to R188: a command that passes its checks, and for which its queue has room, takes an entry at its firing and
joins the queue at its V; its completion register stays pending. A walk's command notes the lines that its firing found. -/
def Obligations.CommandsTakeEntries : Prop :=
  ∀ (s : State) (u : UnitId) (slot : Nat) (word : Word) (port : Fin 20) (ep : Fin 16) (se : Fin 8) (a : Fin 16) (len : Fin 8)
    (sig nb : Bool) (np : Option (Fin 8)) (c : Fin 16),
    let ws := packet s u a len
    let w0 := ws.headD 0
    let room (p : Nat) (sg : Bool) : Prop := ((getCore s u.core).queue p).hasRoom sg = true
    let wins (p : Nat) : Prop := arbiter s u.core p u.ix = true
    let passes (creg : Bool) : Prop :=
      staticFault s u.core port (.send (isCe u) creg) sig ws = none ∧ noEntry port w0 = false
    (CanFire s u slot word (.send port a len sig np) → passes false → room port sig → (np.isSome = true → wins port) →
      Sends s u slot word (.send port a len sig np) port
        { acts := [.command port { command s u slot ws sig none false with pas := walkPlaces s u.core port ws }] ++
            (match np with | some p => [.p (predBit p) (predBit p)] | none => []) }) ∧
    (CanFire s u slot word (.sendw port a len sig nb c) → passes true → room port sig → (nb = true → wins port) →
      Sends s u slot word (.sendw port a len sig nb c) port
        { acts := [.command port { command s u slot ws sig (some c) false with pas := walkPlaces s u.core port ws }], keepD := dbit c }) ∧
    (CanFire s u slot word (.cfgEng ep a len c) → staticFault s u.core ep .cfg false ws = none → room ep false →
      Sends s u slot word (.cfgEng ep a len c) ep
        { acts := [.command ep (command s u slot ws false (some c) true)], keepD := dbit c }) ∧
    (CanFire s u slot word (.cfgFab a len c) → fabricBad ws = false →
      Sends s u slot word (.cfgFab a len c) configPort
        { acts := [.command configPort (command s u slot ws false (some c) true)], keepD := dbit c }) ∧
    (CanFire s u slot word (.cfgPhase a len c) → phaseBad ws = false →
      Sends s u slot word (.cfgPhase a len c) configPort
        { acts := [.command configPort (command s u slot ws false (some c) true)], keepD := dbit c }) ∧
    (CanFire s u slot word (.sbind se a len c) → sbindFault s u.core se ws = none → room se false →
      Sends s u slot word (.sbind se a len c) se
        { acts := [.command se (command s u slot ws false (some c) true)], keepD := dbit c })

/-- R44, R167, R189, R195: what else comes of send and sendw. A packet with a static fault traps with it. RESUME and ABORT are
accepted at the firing and take no entry. A non-blocking form that finds no room, or loses the arbitration, fires all the same and
says so; a blocking one of a control element that would wait for itself traps 0x305. -/
def Obligations.CommandsTurnedAwayAndAccepted : Prop :=
  ∀ (s : State) (u : UnitId) (slot : Nat) (word : Word) (port : Fin 20) (a : Fin 16) (len : Fin 8) (sig : Bool) (p : Fin 8)
    (c : Fin 16) (x : Cause),
    let ws := packet s u a len
    let w0 := ws.headD 0
    let e := Machine.getElem s u
    let fault (creg : Bool) : Option Cause := staticFault s u.core port (.send (isCe u) creg) sig ws
    let room : Bool := ((getCore s u.core).queue port).hasRoom sig
    let accepted (i : Instr) (acts : List Act) : Prop :=
      ∃ t, exec i s = .next t ∧ t.agenda = .event (readCommand u.core port ws) :: s.agenda ∧
        (getCore t u.core).queues = (getCore s u.core).queues ∧
        (Machine.getElem t u).flights = e.flights ++ [flightOf s u slot word i 1 { acts := acts }]
    (CanFire s u slot word (.sendw port a len sig false c) → fault true = some x →
      Traps s u slot word (.sendw port a len sig false c) x 0) ∧
    (CanFire s u slot word (.send port a len sig none) → fault false = some x →
      Traps s u slot word (.send port a len sig none) x 0) ∧
    (CanFire s u slot word (.sendw port a len sig false c) → fault true = none → noEntry port w0 = true →
      accepted (.sendw port a len sig false c) [.d c 0]) ∧
    (CanFire s u slot word (.send port a len sig (some p)) → fault false = none → noEntry port w0 = true →
      accepted (.send port a len sig (some p)) [.p (predBit p) (predBit p)]) ∧
    (CanFire s u slot word (.sendw port a len sig true c) → fault true = none → noEntry port w0 = false →
      (room && arbiter s u.core port u.ix) = false →
      Fires s u slot word (.sendw port a len sig true c) 1 { acts := [.d c (completionWord 0 0 0 0x306)] }) ∧
    (CanFire s u slot word (.send port a len sig (some p)) → fault false = none → noEntry port w0 = false →
      (room && arbiter s u.core port u.ix) = false →
      Fires s u slot word (.send port a len sig (some p)) 1 { acts := [.p (predBit p) 0] }) ∧
    (CanFire s u slot word (.send port a len sig none) → fault false = none → noEntry port w0 = false → room = false →
      Traps s u slot word (.send port a len sig none) 0x305 0)

/-- R25, R171, R172, R174: branches, loops, calls and returns go to a word address modulo 2^32, bits 1:0 of an operand dropped; a loop
whose count is 0 goes on.
R21, R174, R175: sys.trap k is the software trap of cause 0x330 + k, taken at once. -/
def Obligations.BranchesCallsAndSoftwareTraps : Prop :=
  (
    ∀ (s : State) (u : UnitId) (slot : Nat) (word : Word) (off : BitVec 19) (d : Fin 16) (imm : BitVec 9) (a : Src),
      let e := Machine.getElem s u
      let to_ (k : Int) : Nat := (((slot : Int) + 4 * k) % 2 ^ 32).toNat
      let c := laneOf 64 (e.dreg d) 0
      let x := (val s u a).toNat % 2 ^ 32 / 4 * 4
      (CanFire s u slot word (.br off) → Fires s u slot word (.br off) 1 { acts := [.jump (to_ off.toInt)] }) ∧
      (CanFire s u slot word (.loop d imm) → c = 0 → Fires s u slot word (.loop d imm) 1 { acts := [] }) ∧
      (CanFire s u slot word (.loop d imm) → c ≠ 0 →
        Fires s u slot word (.loop d imm) 1
          { acts := [.d d (.ofNat 128 ((e.dreg d).toNat - 1)), .jump (if c = 1 then slot + 4 else to_ imm.toInt)] }) ∧
      (CanFire s u slot word (.sysCall d a) →
        Fires s u slot word (.sysCall d a) 1 { acts := [.d d (.ofNat 128 (slot + 4)), .jump x] }) ∧
      (CanFire s u slot word (.sysRet a) → Fires s u slot word (.sysRet a) 1 { acts := [.jump x] })) ∧
  (
    ∀ (s : State) (u : UnitId) (slot : Nat) (word : Word) (k : Fin 16),
      CanFire s u slot word (.sysTrap k) → Traps s u slot word (.sysTrap k) (0x330 + k.val) 0)

/-- R173, R177, R179, R180: system registers are read and written at V, an element's state is read at the firing; an unknown number
traps 0x301 and a register without a writable field 0x302; sys.eret outside a handler traps 0x300.
R181 to R184: a sleep begins at its firing with its mask and limit; scnext takes the schedule entry that follows those of the scnext
forms in flight, or says by its predicate that there is none and leaves its registers alone; rewire and layoutv ask at their V. -/
def Obligations.SystemScheduleAndLayoutInstructions : Prop :=
  (
    ∀ (s : State) (u : UnitId) (slot : Nat) (word : Word) (d : Dst) (a b : Src),
      let e := Machine.getElem s u
      let n := (val s u a).toNat % 2 ^ 16
      let sink := sinkOf e e.tickets d (tagOf e s.cycle a)
      (CanFire s u slot word .sysEret → (getCtl s u.core).hnd = true → Fires s u slot word .sysEret 1 { acts := [.sys .eret] }) ∧
      (CanFire s u slot word .sysEret → (getCtl s u.core).hnd = false → Traps s u slot word .sysEret 0x300 0) ∧
      (CanFire s u slot word (.sysSysrd d a) → sysRegKnown n = true → elementReg n = none →
        Fires s u slot word (.sysSysrd d a) 2 { acts := [.sysread (.ofNat 16 n) sink] }) ∧
      (CanFire s u slot word (.sysSysrd d a) → (elementReg n).isSome = true →
        Fires s u slot word (.sysSysrd d a) 2
          { acts := dstActs e e.tickets d (tagOf e s.cycle a) ((readSysReg s u.core n).setWidth 128) }) ∧
      (CanFire s u slot word (.sysSysrd d a) → sysRegKnown n = false → Traps s u slot word (.sysSysrd d a) 0x301 0) ∧
      (CanFire s u slot word (.sysSyswr a b) → sysRegKnown n = true → sysRegReadOnly n = false →
        Fires s u slot word (.sysSyswr a b) 2 { acts := [.sys (.write (.ofNat 16 n) ((val s u b).setWidth 64))] }) ∧
      (CanFire s u slot word (.sysSyswr a b) → sysRegKnown n = true → sysRegReadOnly n = true →
        Traps s u slot word (.sysSyswr a b) 0x302 0) ∧
      (CanFire s u slot word (.sysSyswr a b) → sysRegKnown n = false → Traps s u slot word (.sysSyswr a b) 0x301 0)) ∧
  (
    ∀ (s : State) (core slot : Nat) (word : Word) (d : Dst) (r : Fin 16) (q : Fin 15) (p : Fin 8) (a b : Src),
      let u : UnitId := ⟨core, ceIx⟩
      let e := Machine.getElem s u
      let x := getCtl s core
      let n := laneOf 64 (val s u b) 0
      let cur := (x.sccur.toNat + x.scstr.toNat * (e.flights.filter fun f => f.acts.contains .cursorStep).length) % 2 ^ 32
      let entry := (x.scbase.toNat + 32 * cur) % 2 ^ 64
      let both := dbit q ||| dbit (q.val + 1)
      let va := laneOf 64 (val s u a) 0
      (CanFire s u slot word (.sysSleep d a b) →
        ∃ t, exec (.sysSleep d a b) s = .next t ∧
          getCtl t core = { x with
            pc := slot + 4,
            sleep := some { mask := (val s u a).setWidth 4, limit := if n = 0 then none else some (s.cycle + n), seen := 0,
                            sink := sinkOf e e.tickets d (tagOf e s.cycle a), since := s.cycle } } ∧
          (Machine.getElem t u).flights =
            e.flights ++ [flightOf s u slot word (.sysSleep d a b) 1 { acts := [], keepD := Dst.bits d }] ∧
          t = { s with cores := t.cores } ∧ ∀ k, k ≠ core → getCore t k = getCore s k) ∧
      (CanFire s u slot word (.sysScnext q p) → x.sccnt.toNat ≤ cur →
        Fires s u slot word (.sysScnext q p) 1 { acts := [.p (predBit p) 0], spare := both }) ∧
      (CanFire s u slot word (.sysScnext q p) → cur < x.sccnt.toNat → AddressFits entry 16 →
        Fires s u slot word (.sysScnext q p) 1
          { acts := [.mem { op := .load, words := [(0, entry, 16, 0, 0), (1, entry + 16, 16, 0, 0)], lanes := 2, sink := .pair q,
                            cursor := true }, .cursorStep, .p (predBit p) (predBit p)],
            keepD := both }) ∧
      (CanFire s u slot word (.sysRewire r a) → AddressFits va 64 →
        Fires s u slot word (.sysRewire r a) 1 { acts := [.rewire (.ofNat 64 va) (.d r)], keepD := dbit r }) ∧
      (∀ l, CanFire s u slot word (.sysLayoutv d a) → findInstance s core ((val s u a).toNat % 2 ^ 32) = some l →
        Fires s u slot word (.sysLayoutv d a) 2 { acts := [.layoutv l (sinkOf e e.tickets d (tagOf e s.cycle a))] }) ∧
      (CanFire s u slot word (.sysLayoutv d a) → findInstance s core ((val s u a).toNat % 2 ^ 32) = none →
        Traps s u slot word (.sysLayoutv d a) 0x309 0)) ∧
  (
    ∀ (s : State) (u : UnitId) (slot : Nat) (word : Word) (d : Dst) (r : Fin 16) (q : Fin 15) (p : Fin 8) (a b : Src) (rt : Route) (l : Nat),
      let e := Machine.getElem s u
      let x := getCtl s u.core
      let n := (val s u a).toNat % 2 ^ 16
      let y : Dword := (val s u b).setWidth 64
      let y32 : Word := y.setWidth 32
      let va := laneOf 64 (val s u a) 0
      let cur := x.sccur.toNat % 2 ^ 32
      let entry := (x.scbase.toNat + 32 * cur) % 2 ^ 64
      let both := dbit q ||| dbit (q.val + 1)
      let others (v : State) (c : Fin 16) : Prop := ∀ k : Fin 16, k ≠ c → (Machine.getElem v u).dreg k = e.dreg k
      let written (v : State) : Prop := v.mem = s.mem ∧ (Machine.getElem v u).d = e.d
      let reads (c : Fin 16) : Fired := { acts := [.sysread (.ofNat 16 n) (.d c)] }
      let stores : Fired := { acts := [.sys (.write (.ofNat 16 n) y)] }
      let pair : MemSpec := { op := .load, words := [(0, entry, 16, 0, 0), (1, entry + 16, 16, 0, 0)], lanes := 2, sink := .pair q, cursor := true }
      let taken : Fired := { acts := [.mem pair, .cursorStep, .p (predBit p) (predBit p)], keepD := both }
      let ctl (v : State) : Ctl := getCtl v u.core
      let base : Ctl := if isCe u then { x with pc := slot + 4 } else x
      let lane : Ctl → State → Prop := fun z v => ctl v = z ∧ written v
      e.flights = [] →
      (CanFire s u slot word .sysEret → x.hnd = true →
        Shows s u slot word .sysEret 1 { acts := [.sys .eret] } fun v =>
          ctl v = { x with pc := x.epc.toNat, hnd := false, trapSrc := none } ∧ written v) ∧
      (CanFire s u slot word (.sysSysrd (.d r) a) → sysRegKnown n = true → elementReg n = none →
        Shows s u slot word (.sysSysrd (.d r) a) 2 (reads r) fun v => others v r ∧ v.mem = s.mem ∧
          (Machine.getElem v u).dreg r =
            (readSysReg { s with cycle := (flightOf s u slot word (.sysSysrd (.d r) a) 2 (reads r)).vis } u.core n).setWidth 128) ∧
      (CanFire s u slot word (.sysSysrd (.d r) a) → (elementReg n).isSome = true →
        Shows s u slot word (.sysSysrd (.d r) a) 2 { acts := [.d r ((readSysReg s u.core n).setWidth 128)] } fun v =>
          others v r ∧ v.mem = s.mem ∧ (Machine.getElem v u).dreg r = (readSysReg s u.core n).setWidth 128) ∧
      (CanFire s u slot word (.sysSyswr a b) →
        (n = 0 → Shows s u slot word (.sysSyswr a b) 2 stores (lane { base with msk := y.getLsbD 1 })) ∧
        (n = 1 → Shows s u slot word (.sysSyswr a b) 2 stores (lane { base with tvec := y32 &&& 0xFFFFFFFC })) ∧
        (n = 2 → Shows s u slot word (.sysSyswr a b) 2 stores (lane { base with epc := y32 &&& 0xFFFFFFFC })) ∧
        (n = 4 → Shows s u slot word (.sysSyswr a b) 2 stores (lane { base with trbase := y32 &&& 0xFFFFFFC0 })) ∧
        (n = 5 → Shows s u slot word (.sysSyswr a b) 2 stores (lane { base with eres := y.getLsbD 0 })) ∧
        (n = 9 → Shows s u slot word (.sysSyswr a b) 2 stores (lane { base with sccur := y32.setWidth 64 })) ∧
        (n = 0x10 → Shows s u slot word (.sysSyswr a b) 2 stores fun v => lane base v ∧
          (getPart v (partOf s u.core)).clctl = writeClctl (feature s 6) (getPart s (partOf s u.core)).clctl y) ∧
        (n = 0x11 → Shows s u slot word (.sysSyswr a b) 2 stores fun v => lane base v ∧
          (getPart v (partOf s u.core)).fdctl = writeFdctl (feature s 6) (getPart s (partOf s u.core)).fdctl y) ∧
        (∀ el, el < 64 → el ≠ u.ix → n = 0x1000 + 64 * el →
          Shows s u slot word (.sysSyswr a b) 2 stores fun v => lane base v ∧
            Machine.getElem v ⟨u.core, el⟩ = writeFpctl (Machine.getElem s ⟨u.core, el⟩) y32) ∧
        (∀ el, el < 64 → el ≠ u.ix → n = 0x1001 + 64 * el →
          Shows s u slot word (.sysSyswr a b) 2 stores fun v => lane base v ∧
            Machine.getElem v ⟨u.core, el⟩ = writeFpflg (Machine.getElem s ⟨u.core, el⟩) y32) ∧
        (∀ el, el < 64 → el ≠ u.ix → n = 0x1002 + 64 * el →
          Shows s u slot word (.sysSyswr a b) 2 stores fun v => lane base v ∧
            Machine.getElem v ⟨u.core, el⟩ = writeSrstate (Machine.getElem s ⟨u.core, el⟩) y32)) ∧
      (CanFire s u slot word (.sysScnext q p) → x.sccnt.toNat ≤ cur →
        Shows s u slot word (.sysScnext q p) 1 { acts := [.p (predBit p) 0], spare := both } fun v =>
          (Machine.getElem v u).p.getLsbD p = false ∧ (Machine.getElem v u).pendD = e.pendD ∧ ctl v = base ∧ NothingAsked s v u) ∧
      (CanFire s u slot word (.sysScnext q p) → cur < x.sccnt.toNat → AddressFits entry 16 → ∀ rts, Unhindered s u pair rts →
        Shows s u slot word (.sysScnext q p) 1 taken fun v =>
          UnderWay s v u slot word pair rts (flightOf s u slot word (.sysScnext q p) 1 taken).vis both ∧
          (Machine.getElem v u).p.getLsbD p = true ∧ ctl v = { base with sccur := .ofNat 64 ((x.sccur.toNat + x.scstr.toNat) % 2 ^ 32) }) ∧
      (CanFire s u slot word (.sysRewire r a) → AddressFits va 64 → walkCycles s u.core va .read = 0 →
        lookUp s u.core va 64 .read = .ok rt →
        let asks : Fired := { acts := [.rewire (.ofNat 64 va) (.d r)], keepD := dbit r }
        Shows s u slot word (.sysRewire r a) 1 asks fun v =>
          v.nextReq = s.nextReq + 1 ∧ (Machine.getElem v u).pendD = e.pendD ||| dbit r ∧ written v ∧
          ∃ rq y, tfind v.reqs s.nextReq = some rq ∧ rq.op = .load ∧ rq.sink = .request r ∧ rq.core = u.core ∧ rq.parts = [y] ∧
            y.va = va ∧ y.n = 64 ∧ y.pa = rt.pa ∧ y.home = rt.home ∧
            y.phase = .travelling ((flightOf s u slot word (.sysRewire r a) 1 asks).vis + travel u.core rt.home)) ∧
      (CanFire s u slot word (.sysLayoutv (.d r) a) → findInstance s u.core ((val s u a).toNat % 2 ^ 32) = some l →
        Shows s u slot word (.sysLayoutv (.d r) a) 2 { acts := [.layoutv l (.d r)] } fun v =>
          (Machine.getElem v u).dreg r = layoutWord s l ∧ others v r ∧ v.mem = s.mem))


/-! ## The step, the encodings and the memory -/

/-- An element takes the lowest slot of its scan that is ready: every enabled slot before it holds an instruction that is not ready, or
a word that is none and whose trigger does not hold. A control element takes the word at its PC, unless its guard holds it back. An
engine takes the command at its queue's head, once it has settled what it has waited for; the configuration queue takes a phase
command whose bits are clear, or the first LOAD or UNLOAD; a walk takes its next rule; an event is what the agenda says. In each case
the step is exec of that instruction, with its actor named and its entry taken from the agenda. -/
def Obligations.StepRunsTheDecodedInstruction : Prop :=
  ∀ (s : State) (rest : List Action),
    let s0 : State := { s with agenda := rest }
    (∀ (u : UnitId) (slot : Nat) (word : Word) (v : Option Nat) (i : Instr) (above below : List (Nat × Word × Option Nat)),
      s.agenda = .turn u :: rest → isCe u = false → unitReady s0 u = true →
      scanSlots (Machine.getElem s0 u) 32 = above ++ (slot, word, v) :: below →
      (∀ p ∈ above, (Machine.getElem s0 u).sloten.getLsbD p.1 = true →
        (∃ j, decodeWord false p.2.1.toNat p.2.2 = .ok j ∧ ready s0 u p.2.1 j = false) ∨
        (∃ c, decodeWord false p.2.1.toNat p.2.2 = .error c ∧
          triggered (Machine.getElem s0 u) s0.cycle (gate (Machine.getElem s0 u) false p.2.1) = false)) →
      (Machine.getElem s0 u).sloten.getLsbD slot = true → decodeWord false word.toNat v = .ok i → ready s0 u word i = true →
      (∀ p, offerPort (Machine.getElem s0 u) i = some p → arbiter s0 u.core p u.ix = true) →
      step s = exec i { s0 with actor := .unit u slot word }) ∧
    (∀ (core : Nat) (i : Instr),
      let u : UnitId := ⟨core, ceIx⟩
      let pc := (getCtl s0 core).pc / 4 * 4
      let word := fetchWord s0 core pc
      let guard : Fin 8 := Fin.ofNat 8 (word.toNat / 2 ^ 26)
      s.agenda = .turn u :: rest → unitReady s0 u = true → pc + 4 < 0x60000 → word.getLsbD 29 = false →
      (word.getLsbD 31 = true →
        (Machine.getElem s0 u).pendP.getLsbD guard = false ∧ (Machine.getElem s0 u).p.getLsbD guard = word.getLsbD 30) →
      decodeWord true word.toNat (some (fetchWord s0 core (pc + 4)).toNat) = .ok i → offerPort (Machine.getElem s0 u) i = none →
      step s = exec i { s0 with actor := .unit u pc word }) ∧
    (∀ (core port : Nat) (m : Cmd),
      let s1 := if 13 ≤ port ∧ port ≤ 15 ∧ (getCore s0 core).engSaved.contains port = false then settleEngine s0 core port else s0
      s.agenda = .engine core port :: rest → port ≠ configPort →
      (cutting s1 core = false ∨ (port = 12 ∧ mnGoesOn s1 core = true)) →
      headCmd s1 core port = some m → mayRun s1 core port = true → m.bad = none →
      step s = exec (readCommand core port m.packet) { s1 with actor := .engine core port }) ∧
    (∀ (core i : Nat) (m : Cmd),
      let q := (getCore s0 core).queue configPort
      s.agenda = .engine core configPort :: rest → cutting s0 core = false → fabricNext (getCore s0 core) = some i → q.q[i]? = some m →
      step s = exec (readFabric m.packet)
        { setCore s0 core ((getCore s0 core).setQueue configPort { q with q := m :: q.q.eraseIdx i }) with
          actor := .engine core configPort }) ∧
    (∀ (core slot : Nat) (i : Instr),
      let s1 := moveReply s0 core slot
      s.agenda = .walk core slot :: rest → cutting s1 core = false → walkRule s1 core slot = some (some i) →
      step s = exec i { s1 with actor := .walk core slot }) ∧
    (∀ i : Instr, s.agenda = .event i :: rest → step s = exec i { s0 with actor := .none }) ∧
    (s.agenda = [] → step s = .next (beginCycle s))

/-- Words of the manual, bit by bit: the worked words of R363, and one of each family written from R30 to R44, R173 and R218. -/
def Obligations.ManualWordsDecode : Prop :=
  decodeWord false 0x02062019 none = .ok (.fadd .f32x4 (.out 0) (.inp 0) (.d 1)) ∧
  decodeWord false 0x0E066239 none = .ok (.fadd .f32x4 (.out 1) (.inp 1) (.d 3)) ∧
  decodeWord false 0x03B9B805 none = .ok (.fence .system (.d 6)) ∧
  decodeWord false 0x0399C644 none = .ok (.barWaitFull (.d 7) (.d 3) (.d 4) 2) ∧
  decodeWord true 0xCFE7FFFF none = .ok (.br (-1)) ∧
  decodeWord false 0x014A8231 none = .ok (.cmpLt .i32x4 .any 2 (.d 1) (.d 3)) ∧
  decodeWord true 0x03CC10CC none = .ok (.sendw 16 8 3 false false 12) ∧
  decodeWord false 0x008081C1 none = .ok (.add .i32x4 (.d 2) (.d 0) .zero) ∧
  decodeWord true (0x7D * 2 ^ 19 + 0x1C * 2 ^ 14 + 0x1C * 2 ^ 9 + 5 * 2 ^ 4 + 2) none = .ok (.sysTrap 5) ∧
  decodeRule (0x1 * 2 ^ 28 + 2 * 2 ^ 25 + 24 * 2 ^ 18 + 1 * 2 ^ 16) = some (.ldf 1 24 .b4)

/-- R30 to R44, R173, R218: a well-formed instruction's words, under any value of its trigger or guard field, decode to it, and so does
a well-formed rule's word. -/
def Obligations.EncodeThenDecode : Prop :=
  (∀ (ce : Bool) (i : Instr) (trg w : Nat), wellFormed ce i = true → encodeOp i = some w → trg < 64 →
    (ce = true → trg / 8 % 2 = 0) →
    encode trg i = some (trg * 2 ^ 26 + w, encodeSecond i) ∧ trg * 2 ^ 26 + w < 2 ^ 32 ∧
      decodeWord ce (trg * 2 ^ 26 + w) (encodeSecond i) = .ok i) ∧
  (∀ (i : Instr) (trg w : Nat), wellFormed false i = true → encodeRule i = some w →
    encode trg i = some (w, none) ∧ w < 2 ^ 32 ∧ decodeRule w = some i)

/-- R45, R46, R218: whatever the decoder reads is a well-formed instruction. -/
def Obligations.DecodedIsWellFormed : Prop :=
  (∀ (ce : Bool) (w : Nat) (v : Option Nat) (i : Instr), decodeWord ce w v = .ok i → wellFormed ce i = true) ∧
  (∀ (w : Nat) (i : Instr), decodeRule w = some i → wellFormed false i = true)

/-- The banks and feed stores of every matrix node keep the canonical form. -/
def MatrixSafe (s : State) : Prop :=
  ∀ core, let n := getMn s core
    Memory.wf n.acc0 = true ∧ Memory.wf n.acc1 = true ∧ Memory.wf n.fbuf = true ∧ Memory.wf n.grm = true

/-- The values that the manual gives for reset: the control element's system registers (R179), the timelines and barriers, the
interleave entries (R291) and format windows (R300), the module's stage 1 (R432); memory lists nothing (what an unlisted byte reads
as is log entry 3), and it and the matrix nodes' stores are in canonical form. -/
def Obligations.ResetState : Prop :=
  let s := State.reset
  s.cycle = 0 ∧ s.mem = [] ∧ s.root.stage = 1 ∧ s.root.featack = 0 ∧ s.moduleId = none ∧ s.inc = 0 ∧ s.launches = [] ∧ s.reqs = [] ∧
  (∀ core, readSysReg s core 0x0000 = 0 ∧ readSysReg s core 0x0001 = 0 ∧ readSysReg s core 0x0002 = 0 ∧
    readSysReg s core 0x0003 = 0 ∧ readSysReg s core 0x0004 = 0 ∧ readSysReg s core 0x0005 = 0 ∧ readSysReg s core 0x0006 = 0 ∧
    readSysReg s core 0x0008 = 0) ∧
  (∀ u, (Machine.getElem s u).fpctl = 0 ∧ (Machine.getElem s u).fpflg = 0 ∧ (Machine.getElem s u).cause = 0 ∧
    (Machine.getElem s u).fslot = 0 ∧ (Machine.getElem s u).flights = []) ∧
  (∀ core k, (getCore s core).timeline k = 0 ∧ ((getCore s core).bar k).phase = 0 ∧ ((getCore s core).bar k).arrived = 0 ∧
    ((getCore s core).bar k).expected = 0) ∧
  (∀ n, n < 16 → ∃ e : Quad, tfind s.idt n = some e ∧ idtField e 127 87 = 2 ^ 41 - 1 ∧ idtField e 86 78 = 0 ∧ idtField e 77 74 = 9 ∧
    idtHold e = false ∧ idtValid e = (n == 0) ∧ idtField e 39 20 = (if n = 0 then 0x5FFFF else 0) ∧ idtField e 19 0 = 0) ∧
  (∀ w, (fwRegs s w).2 = false ∧ (fwRegs s w).1.seed = 1 ∧ readFwstat s w = 0) ∧ Safe s ∧ MatrixSafe s ∧ (∀ a, Memory.read s.mem a = unlisted)

/-- Every step keeps the canonical form of memory: addresses strictly rising, and no cell equal to what an unlisted address reads as. -/
def Obligations.StepKeepsMemoryCanonical : Prop :=
  ∀ s t : State, Safe s → step s = .next t → Safe t

/-! ## What becomes visible -/

/-- R13, R14, R15, R19, R104: an instruction that becomes visible writes the destinations its firing set down, the consumed tokens
leave, the predicates take the trigger's update and then its own, the flags join FPFLG, the generator takes its draws, and the
pending bits clear, but those that await a reply. A generator from which it draws nothing stays as it is (R97). Nothing else of the
unit changes, and nothing outside it. -/
def Obligations.InstructionVisible : Prop :=
  ∀ (s : State) (u : UnitId) (f : Flight) (rest : List Flight),
    let e := Machine.getElem s u
    e.flights = f :: rest → f.vis ≤ s.cycle → f.trap = none → f.acts.Nodup →
    (∀ a ∈ f.acts, IsLocal a) →
    ∃ t, exec (.instructionVisible u) s = .next t ∧
      let g := Machine.getElem t u
      t = { s with cores := t.cores } ∧ (∀ k, k ≠ u.core → getCore t k = getCore s k) ∧
      (getCore t u.core = { getCore s u.core with elems := (getCore t u.core).elems }) ∧
      (∀ j, j ≠ u.ix → Machine.getElem t ⟨u.core, j⟩ = Machine.getElem s ⟨u.core, j⟩) ∧
      g = { e with
        d := g.d, a := g.a, lane := g.lane, inq := g.inq, outq := g.outq,
        p := f.acts.foldl (fun p a => match a with | .p m v => (p &&& ~~~m) ||| (v &&& m) | _ => p) ((e.p &&& ~~~f.pclr) ||| f.pset),
        fpflg := e.fpflg ||| f.flags.setWidth 32, srstate := f.srAfter.getD e.srstate, flights := rest, lastV := s.cycle,
        pendD := e.pendD &&& ~~~(f.pendD &&& ~~~f.keepD), pendA := e.pendA &&& ~~~f.pendA, pendP := e.pendP &&& ~~~f.pendP,
        pendLane := e.pendLane && !f.pendLane } ∧
      (∀ (n : Fin 16) (v : Quad), .d n v ∈ f.acts → (∀ w, .d n w ∈ f.acts → w = v) → g.dreg n = v) ∧
      (∀ n : Fin 16, (∀ v, .d n v ∉ f.acts) → g.dreg n = e.dreg n) ∧
      (∀ (n : Fin 4) (v : Word), .a n v ∈ f.acts → (∀ w, .a n w ∈ f.acts → w = v) → g.areg n = v) ∧
      (∀ n : Fin 4, (∀ v, .a n v ∉ f.acts) → g.areg n = e.areg n) ∧
      (∀ x b, .lane x b ∈ f.acts → (∀ y c, .lane y c ∈ f.acts → y = x ∧ c = b) → g.lane = Memory.writeN e.lane x b) ∧
      ((∀ x b, .lane x b ∉ f.acts) → g.lane = e.lane) ∧
      (∀ n : Fin 4, (g.inCh n).q = if f.consume.getLsbD n then (e.inCh n).q.tail else (e.inCh n).q) ∧
      (∀ (c : Fin 4) (k : Nat) (w : Token), .out c k w ∈ f.acts → (∀ j x, .out c j x ∈ f.acts → j = k ∧ x = w) →
        g.outCh c = (e.outCh c).put k w s.cycle (getCore s u.core).clock) ∧
      (∀ c : Fin 4, (∀ k w, .out c k w ∉ f.acts) → g.outCh c = e.outCh c) ∧
      (∀ a, Memory.read t.mem a = Memory.read s.mem a)

/-- R21, R105, R175: a flag whose enable is set traps at V. The instruction and every one fired after it are cancelled: no register,
predicate, flag or token of the unit changes, and the tokens they had reserved are heads again. An element stops with the cause; a
control element takes its own trap.
R105: the cause of the trap names the highest of the raised flags whose enable in FPCTL is set; SAT has none. -/
def Obligations.EnabledFlagsTrapAtVisibility : Prop :=
  (
    ∀ (s : State) (u : UnitId) (f : Flight) (rest : List Flight) (c : Cause),
      let e := Machine.getElem s u
      e.flights = f :: rest → f.vis ≤ s.cycle → f.trap = some c →
      ∃ t, exec (.instructionVisible u) s = .next t ∧
        let g := Machine.getElem t u
        g.flights = [] ∧ g.d = e.d ∧ g.a = e.a ∧ g.p = e.p ∧ g.lane = e.lane ∧ g.fpflg = e.fpflg ∧ g.srstate = e.srstate ∧
        (∀ n : Fin 4, (g.inCh n).q = (e.inCh n).q ∧
          (g.inCh n).reserved = (e.inCh n).reserved - (e.flights.filter fun x => x.consume.getLsbD n).length) ∧
        t = { s with cores := t.cores, agenda := t.agenda } ∧ (∀ k, k ≠ u.core → getCore t k = getCore s k) ∧
        (∀ j, j ≠ u.ix → Machine.getElem t ⟨u.core, j⟩ = Machine.getElem s ⟨u.core, j⟩) ∧
        (isCe u = true → (getCtl t u.core).own = some ⟨c, f.slot, f.word, 0, 0, false⟩ ∧
          t.agenda = .event (.trapTaken u.core) :: s.agenda) ∧
        (isCe u = false → g.run = 2 ∧ g.cause = c % 1024 ∧ g.fslot = f.slot % 32 ∧ t.agenda = s.agenda ∧
          (getCore t u.core).trapq = raiseInto (getCore s u.core).trapq
            { kind := 1, src := u.ix, cause := c, since := s.cycle })) ∧
  (
    ∀ (fpctl : Word) (fl : Sys2Proof.Num.Flags),
      let on (n : Nat) : Bool := fl.getLsbD n && fpctl.getLsbD (12 - n)
      (∀ n, n ≤ 4 → on n = true → (∀ k, n < k → k ≤ 4 → on k = false) → flagTrap fpctl fl = some (0x040 + n)) ∧
      ((∀ n, n ≤ 4 → on n = false) → flagTrap fpctl fl = none))

/-- R171, R177, R179, R180, R184: what a control element's transfers and its system-register and layout instructions do at V. A jump
moves the PC; eret moves it to EPC, clears HND, and lets the element that trapped run, unless ERES.ACT is set; a deferred trap that
the element holds stops it at once (R24, R151). -/
def Obligations.ControlEffectsAtVisibility : Prop :=
  ∀ (s : State) (core : Nat) (f : Flight) (rest : List Flight) (pc l : Nat) (n : BitVec 16) (v : Dword) (r : Fin 16),
    let u : UnitId := ⟨core, ceIx⟩
    let e := Machine.getElem s u
    let x := getCtl s core
    e.flights = f :: rest → f.vis ≤ s.cycle → f.trap = none →
    (f.acts = [.jump pc] → ∃ t, exec (.instructionVisible u) s = .next t ∧ getCtl t core = { x with pc := pc } ∧
      (Machine.getElem t u).d = e.d ∧ t.mem = s.mem) ∧
    (f.acts = [.sys .eret] → ∃ t, exec (.instructionVisible u) s = .next t ∧
      getCtl t core = { x with pc := x.epc.toNat, hnd := false, trapSrc := none } ∧ t.mem = s.mem ∧
      (∀ el, el < 64 → let y := Machine.getElem s ⟨core, el⟩
        (x.trapSrc = some (1, el) ∧ x.eres = false ∧ y.run = 2 ∧ x.ecause.toNat % 1024 ≠ 0x104 → y.held = [] →
          (Machine.getElem t ⟨core, el⟩).run = 1) ∧
        (∀ h hs, x.trapSrc = some (1, el) ∧ x.eres = false ∧ y.run = 2 ∧ x.ecause.toNat % 1024 ≠ 0x104 → y.held = h :: hs →
          let z := Machine.getElem t ⟨core, el⟩
          z.run = 2 ∧ z.cause = h.cause % 1024 ∧ z.fslot = h.slot % 32 ∧ z.deferred = true ∧ z.held = hs) ∧
        ((x.trapSrc ≠ some (1, el) ∨ x.eres = true ∨ y.run ≠ 2 ∨ x.ecause.toNat % 1024 = 0x104) →
          Machine.getElem t ⟨core, el⟩ = y))) ∧
    (f.acts = [.sysread n (.d r)] → ∃ t, exec (.instructionVisible u) s = .next t ∧
      (Machine.getElem t u).dreg r = (readSysReg s core n.toNat).setWidth 128 ∧
      (∀ k : Fin 16, k ≠ r → (Machine.getElem t u).dreg k = e.dreg k) ∧ getCtl t core = x ∧ t.mem = s.mem) ∧
    (f.acts = [.layoutv l (.d r)] → ∃ t, exec (.instructionVisible u) s = .next t ∧
      (Machine.getElem t u).dreg r = layoutWord s l ∧ (∀ k : Fin 16, k ≠ r → (Machine.getElem t u).dreg k = e.dreg k) ∧
      getCtl t core = x ∧ t.mem = s.mem) ∧
    (f.acts = [.sys (.write 0x0000 v)] → ∃ t, exec (.instructionVisible u) s = .next t ∧
      getCtl t core = { x with msk := v.getLsbD 1 }) ∧
    (f.acts = [.sys (.write 0x0001 v)] → ∃ t, exec (.instructionVisible u) s = .next t ∧
      getCtl t core = { x with tvec := v.setWidth 32 &&& 0xFFFFFFFC }) ∧
    (f.acts = [.sys (.write 0x0002 v)] → ∃ t, exec (.instructionVisible u) s = .next t ∧
      getCtl t core = { x with epc := v.setWidth 32 &&& 0xFFFFFFFC }) ∧
    (f.acts = [.sys (.write 0x0004 v)] → ∃ t, exec (.instructionVisible u) s = .next t ∧
      getCtl t core = { x with trbase := v.setWidth 32 &&& 0xFFFFFFC0 }) ∧
    (f.acts = [.sys (.write 0x0005 v)] → ∃ t, exec (.instructionVisible u) s = .next t ∧
      getCtl t core = { x with eres := v.getLsbD 0 })

/-- R175, R176, R377, R378: taking a trap writes the 64 bytes of its record at TRBASE and nothing else of memory, sets ECAUSE and EPC,
clears ERES, sets HND and moves the PC to TVEC, eight cycles before the handler's first instruction. A control element's own trap is
taken whatever MSK holds; a queued one waits for HND and MSK, for the cycle's firing, and for a transfer of control in flight. -/
def Obligations.TrapTakenEntersTheHandler : Prop :=
  ∀ (s : State) (core : Nat),
    let u : UnitId := ⟨core, ceIx⟩
    let x := getCtl s core
    let base := cpadPa core x.trbase.toNat
    Safe s → x.stopped = false → (Machine.getElem s u).run = 1 → x.sleep = none → x.trbase.toNat ≤ 0x5FFC0 →
    let taken (t : State) (ecause : Nat) (epc word addr fslot row col flg : Nat) (detail : Quad) (src : BitVec 2 × Nat) : Prop :=
      let field (off n : Nat) : Nat := leNat (Memory.readN t.mem (base + off) n)
      getCtl t core = { x with ecause := .ofNat 64 ecause, epc := .ofNat 32 epc, eres := false, hnd := true, pc := x.tvec.toNat,
                               own := none, stall := s.cycle + 8, trapSrc := some src } ∧
      (getCore t core).tnum = (getCore s core).tnum + 1 ∧
      field 0 8 = ecause ∧ field 8 4 = epc % 2 ^ 32 ∧ field 12 4 = word ∧ field 16 8 = addr ∧ field 24 1 = fslot % 256 ∧
      field 25 1 = row % 256 ∧ field 26 1 = col ∧ field 27 1 = flg ∧ field 28 4 = 0 ∧ field 32 16 = detail.toNat ∧
      field 48 8 = s.cycle % 2 ^ 64 ∧ field 56 8 = ((getCore s core).tnum + 1).toNat ∧
      (∀ a, (a < base ∨ base + 64 ≤ a) → Memory.read t.mem a = Memory.read s.mem a) ∧
      (∀ j, Machine.getElem t ⟨core, j⟩ = Machine.getElem s ⟨core, j⟩) ∧ (∀ k, k ≠ core → getCore t k = getCore s k)
    (∀ o : OwnTrap, x.own = some o → x.hnd = false → ∃ t, exec (.trapTaken core) s = .next t ∧
      taken t (o.deferred.toNat * 2 ^ 24 + o.cause % 1024) o.pc o.word.toNat o.addr.toNat 0 0 0 o.deferred.toNat o.detail (0, 0) ∧
      (getCore t core).trapq = (getCore s core).trapq) ∧
    (∀ q : TrapEntry, x.own = none → (getCore s core).trapq = [q] → x.hnd = false → x.msk = false →
      (Machine.getElem s u).firedAt ≠ some s.cycle → jumpInFlight (Machine.getElem s u) = false → q.kind = 1 → q.src < 64 →
      q.cause ≠ 0x104 → q.cause ≠ 0x00C →
      let e := Machine.getElem s ⟨core, q.src⟩
      ∃ t, exec (.trapTaken core) s = .next t ∧ (getCore t core).trapq = [] ∧
        taken t (q.repeats % 256 * 2 ^ 32 + q.deferred.toNat * 2 ^ 24 + 2 ^ 22 + q.src * 2 ^ 16 + q.cause % 1024) x.pc
          (e.slot e.fslot).toNat q.addr.toNat e.fslot (q.src / 8) (q.src % 8) (q.deferred.toNat + 2 * q.krf.toNat) q.detail (1, q.src)) ∧
    (∀ o : OwnTrap, x.own = some o → x.hnd = true → (getPart s (partOf s core)).lead ≠ core → (getCore s core).launch = none →
      exec (.trapTaken core) s = .next (setCtl s core { x with stopped := true, own := none })) ∧
    (x.own = none → (x.hnd = true ∨ x.msk = true ∨ (Machine.getElem s u).firedAt = some s.cycle) →
      exec (.trapTaken core) s = .next s)

/-! ## Memory requests -/

/-- R20, R147, R150, R151: a load or update of one access whose address lies in a window, or whose radix walk has ended, is translated in
its V. Where the translation allows it, it becomes a request on its way to its home, and the instruction's other effects are visible;
where it does not, the instruction traps with the cause and the address, and nothing is asked. One that needs a radix walk waits for it. -/
def Obligations.RequestsAreAcceptedOrTrap : Prop :=
  ∀ (s : State) (u : UnitId) (f : Flight) (rest : List Flight) (m : MemSpec) (va n : Nat) (data cmp : Quad) (r : Route) (c p : Nat),
    let e := Machine.getElem s u
    e.flights = f :: rest → f.vis ≤ s.cycle → f.trap = none → f.acts = [.mem m] → m.posted = false → m.op ≠ .prefetch →
    m.op ≠ .monitor → m.words = [(0, va, n, data, cmp)] →
    let ends : Prop := (findWin (getCore s u.core) va).isSome = true ∨ f.walked = true
    (ends → lookUp s u.core va n (MemOp.use m.op) = .ok r →
      ∃ t rq q, exec (.instructionVisible u) s = .next t ∧ t.nextReq = s.nextReq + 1 ∧ tfind t.reqs s.nextReq = some rq ∧
        rq.parts = [q] ∧ rq.op = m.op ∧ rq.core = u.core ∧ rq.unit = u.ix ∧ rq.sink = m.sink ∧ rq.pts = (getCore s u.core).clock ∧ rq.link = none ∧
        q.pa = r.pa ∧ q.home = r.home ∧ q.n = n ∧ q.data = data ∧ q.compare = cmp ∧
        q.phase = .travelling (s.cycle + travel u.core r.home) ∧
        (Machine.getElem t u).flights = rest ∧ (Machine.getElem t u).d = e.d ∧
        (Machine.getElem t u).pendD = e.pendD &&& ~~~(f.pendD &&& ~~~f.keepD) ∧ t.mem = s.mem) ∧
    (ends → lookUp s u.core va n (MemOp.use m.op) = .fault p c →
      ∃ t, exec (.instructionVisible u) s = .next t ∧ t.reqs = s.reqs ∧ t.nextReq = s.nextReq ∧ t.mem = s.mem ∧
        (Machine.getElem t u).flights = [] ∧ (Machine.getElem t u).d = e.d ∧
        (isCe u = true → (getCtl t u.core).own = some ⟨c, f.slot, f.word, .ofNat 64 va, 0, false⟩) ∧
        (isCe u = false → (Machine.getElem t u).run = 2 ∧ (Machine.getElem t u).cause = c % 1024 ∧
          (Machine.getElem t u).fslot = f.slot % 32 ∧ (Machine.getElem t u).faultAddr = .ofNat 64 va)) ∧
    (f.walked = false → 0 < walkCycles s u.core va (MemOp.use m.op) →
      exec (.instructionVisible u) s = .next (setElem s u { e with
        flights := { f with walked := true, vis := s.cycle + walkCycles s u.core va (MemOp.use m.op) } :: rest }))

/-- R154, R159, R160, R313: an access of a scratchpad, a cluster bank or a module bank is performed when it arrives. The home's clock
rises past the request's, and the access takes it; a load answers the bytes there; a store or an update that writes puts its bytes
there, with the next sequence tag, and an update answers the old bytes. Every other byte of memory stays. The bytes belong to no
secure partition, or to the core's own. -/
def Obligations.ExplicitHomesPerform : Prop :=
  ∀ (s : State) (id : Nat) (r : Req) (p : Part),
    let hc : HomeClock := tget {} s.homes (homeKey p.home)
    let ts := tsMax hc.hclk r.pts + 1
    let old := Memory.readN s.mem p.pa p.n
    Arriving s id r p → r.link = none → IsExplicit p.home → foreignTo s (partOf s r.core) p.pa = none → p.bulk = [] →
    (r.op = .load → ∃ t, exec (.explicitHomeAccess id p.lane) s = .next t ∧
      Answered s t id r p old none ts ∧ t.mem = s.mem) ∧
    (r.op = .store → ∃ t, exec (.explicitHomeAccess id p.lane) s = .next t ∧
      Answered s t id r p [] (some hc.seq) ts ∧ t.mem = Memory.writeN s.mem p.pa (leBytes p.n p.data.toNat)) ∧
    (∀ (o : AtomOp), r.op = .atom o → ∃ t, exec (.homeRmw id p.lane) s = .next t ∧
      Answered s t id r p old (some hc.seq) ts ∧
      t.mem = Memory.writeN s.mem p.pa (leBytes p.n (atomValue o (leNat old) p.data.toNat))) ∧
    (r.op = .cas → leNat old = p.compare.toNat → ∃ t, exec (.homeRmw id p.lane) s = .next t ∧
      Answered s t id r p old (some hc.seq) ts ∧ t.mem = Memory.writeN s.mem p.pa (leBytes p.n p.data.toNat)) ∧
    (r.op = .cas → leNat old ≠ p.compare.toNat → ∃ t, exec (.homeRmw id p.lane) s = .next t ∧
      Answered s t id r p old none ts ∧ t.mem = s.mem)

/-- R293, R295, R312: an access that hits its partition's line at its slice is performed when it arrives. A load extends the line's
lease and answers its bytes; a store replaces its bytes, marks it dirty and takes the next timestamp past its lease, with the next
sequence tag. Memory behind the slice is as it was. A load that misses waits for the line's data, unless it must wait for a place
at the slice first. The slice keeps no stockpile, and the access is no matrix node's. -/
def Obligations.SlicesPerformHits : Prop :=
  ∀ (s : State) (id n k : Nat) (r : Req) (p : Part) (l : Line),
    let sl := getSlice s n
    let addr := p.pa / 128
    let own := partOf s r.core
    let reply (t : State) (f : Part → Prop) : Prop :=
      ∃ rq q, tfind t.reqs id = some rq ∧ rq.part p.lane = some q ∧ q.phase = .replied (s.cycle + travel r.core p.home) ∧
        q.cause = 0 ∧ f q
    Arriving s id r p → r.link = none → r.tile = false → p.home = .slice n → foreignTo s own p.pa = none → sl.closedTo p.pa = false →
    heldByDomain s p.pa = false → missPending s n addr = none →
    (sl.hit own addr = some (k, l) → sl.spways = 0 → sl.monitors = [] → r.reuse ≠ .pin →
      (r.op = .load → ∃ t m, exec (.homeRead id p.lane) s = .next t ∧ t.mem = s.mem ∧ tfind (getSlice t n).lines k = some m ∧
        m.data = l.data ∧ m.dirty = l.dirty ∧ m.wts = l.wts ∧
        m.rts = tsMax (tsMax l.rts (l.wts + sl.lease)) (r.pts + sl.lease) ∧
        reply t fun q => q.value = .ofNat 128 (leNat ((l.data.drop (p.pa % 128)).take p.n)) ∧ q.ts = tsMax r.pts l.wts) ∧
      (r.op = .store → p.bulk = [] → p.side = [] → ∃ t m, exec (.homeWrite id p.lane) s = .next t ∧ t.mem = s.mem ∧ tfind (getSlice t n).lines k = some m ∧
        m.data = splice l.data (p.pa % 128) (leBytes p.n p.data.toNat) ∧ m.dirty = true ∧ m.wts = tsMax r.pts (l.rts + 1) ∧
        m.rts = m.wts ∧ (getSlice t n).seq = sl.seq + 1 ∧ reply t fun q => q.seq = sl.seq ∧ q.ts = m.wts)) ∧
    (r.op = .load → present s n own addr = false → mustQueue s n own r p = true → ∃ t, exec (.homeRead id p.lane) s = .next t ∧
      ∃ rq q, tfind t.reqs id = some rq ∧ rq.part p.lane = some q ∧ q.phase = .queued s.stamps) ∧
    (r.op = .load → present s n own addr = false → mustQueue s n own r p = false → ∃ t, exec (.homeRead id p.lane) s = .next t ∧
      t = { s with reqs := t.reqs } ∧ ∃ rq q, tfind t.reqs id = some rq ∧ rq.part p.lane = some q ∧
        q.phase = .missed (s.cycle + dramCycles s.cycle n addr))

/-- R20, R148, R151, R153: a reply that has arrived writes its destination, whose pending bit clears, and raises the core's clock; one
with a cause writes nothing, and its unit, if it runs, traps with the cause and the request's slot, deferred; its destination stays
pending. A unit that is Stopped or Frozen holds the trap until it runs again (R24). -/
def Obligations.RepliesArrive : Prop :=
  ∀ (s : State) (id : Nat) (r : Req) (p : Part) (n : Fin 16) (due : Nat),
    let u : UnitId := ⟨r.core, r.unit⟩
    let e := Machine.getElem s u
    tfind s.reqs id = some r → r.parts = [p] → p.phase = .replied due → due ≤ s.cycle → r.op = .load → r.posted = false →
    r.update = false → r.link = none → p.lane = 0 → r.laneBits = 128 → r.sink = .d n →
    (p.cause = 0 → ∃ t, exec (.replyArrival id none) s = .next t ∧ tfind t.reqs id = none ∧ t.mem = s.mem ∧
      (Machine.getElem t u).dreg n = p.value ∧ (∀ k : Fin 16, k ≠ n → (Machine.getElem t u).dreg k = e.dreg k) ∧
      (Machine.getElem t u).pendD = e.pendD &&& ~~~(1#16 <<< n.val) ∧
      (getCore t r.core).clock = tsMax (getCore s r.core).clock p.ts) ∧
    (p.cause ≠ 0 → p.cause ≠ 0x3A3 → isCe u = false → e.run = 1 → e.flights = [] →
      ∃ t, exec (.replyArrival id none) s = .next t ∧ tfind t.reqs id = none ∧ t.mem = s.mem ∧
        (Machine.getElem t u).d = e.d ∧ (Machine.getElem t u).pendD = e.pendD ∧ (Machine.getElem t u).run = 2 ∧
        (Machine.getElem t u).cause = p.cause % 1024 ∧ (Machine.getElem t u).fslot = r.slot % 32 ∧
        (Machine.getElem t u).deferred = true) ∧
    (p.cause ≠ 0 → p.cause ≠ 0x3A3 → e.run = 2 ∨ e.run = 3 → ∃ t, exec (.replyArrival id none) s = .next t ∧ tfind t.reqs id = none ∧
      Machine.getElem t u = { e with held := e.held ++ [{ slot := r.slot, word := r.word, cause := p.cause, addr := .ofNat 64 p.va }] })

/-! ## The memory hierarchy -/

/-- R161, R292, R298, R302, R303, R305, R315, R319: what the slices do besides performing hits. The data of a line of global memory that a
no-allocate read waits for answers it with the bytes in DRAM, and a view line's with the line its window decodes; a dirty view line
is re-encoded whole and stays, clean; the oldest chute entry merges into its line in DRAM; a replayed access goes to the home it was
told; a monitor whose value stands waits, and one whose value differs completes at once with REASON 0; a router answers a newer read
from an older one's lease. -/
def Obligations.SlicesServeMissesAndMonitors : Prop :=
  ∀ (s : State) (id n k : Nat) (r : Req) (p : Part) (l : Line),
    let sl := getSlice s n
    let addr := p.pa / 128
    let part (t : State) (i lane : Nat) (f : Part → Prop) : Prop := ∃ rq q, tfind t.reqs i = some rq ∧ rq.part lane = some q ∧ f q
    let back := s.cycle + travel r.core p.home
    tfind s.reqs id = some r → r.part p.lane = some p → r.link = none → r.tile = false → foreignTo s (partOf s r.core) p.pa = none →
    (p.home = .slice n → missedOn s n addr = [(id, p.lane)] → r.op = .load → r.reuse ≠ .pin → r.passes p = true →
        sl.anyLine addr = none → sl.chute = [] → s.poison.contains addr = false →
      (spaceOf (addr * 128) = .global → p.pa % 128 + p.n ≤ 128 → ∃ t, exec (.dramDataReturn n addr) s = .next t ∧ t.mem = s.mem ∧
        part t id p.lane fun q => q.value = .ofNat 128 (leNat (Memory.readN s.mem p.pa p.n)) ∧ q.cause = 0 ∧ q.phase = .replied back) ∧
      (∀ w fw j, homeOf s (addr * 128) = .ok (.slice n) → spaceOf (addr * 128) = .view → findView s.fw addr = some (w, fw, j) →
        fw.trapen = false → ∃ t, exec (.viewLineFill addr) s = .next t ∧ t.mem = s.mem ∧
          part t id p.lane fun q => q.value = .ofNat 128 (leNat (((viewFill s.mem fw j).1.drop (p.pa % 128)).take p.n)) ∧
            q.cause = 0 ∧ q.phase = .replied back)) ∧
    (∀ w fw j, homeOf s (l.addr * 128) = .ok (.slice n) → sl.anyLine l.addr = some (k, l) → l.dirty = true →
        spaceOf (l.addr * 128) = .view → findView s.fw l.addr = some (w, fw, j) →
      ∃ t, exec (.viewLineWriteback l.addr) s = .next t ∧
        t.mem = (viewWriteback s.mem fw j l.data l.side (tget fw.seed sl.fwSeed w)).1 ∧
        tfind (getSlice t n).lines k = some { l with dirty := false }) ∧
    (∀ c rest, sl.chute = c :: rest → spaceOf (c.addr * 128) = .global →
      ∃ t, exec (.chuteDrain n) s = .next t ∧ (getSlice t n).chute = sl.chute.filter (·.addr ≠ c.addr) ∧
        t.mem = Memory.writeN s.mem (c.addr * 128) (overlay (Memory.readN s.mem (c.addr * 128) 128) c.bytes)) ∧
    (∀ due h, p.phase = .replay due h → due ≤ s.cycle → ∃ t, exec (.replay id p.lane) s = .next t ∧ t = { s with reqs := t.reqs } ∧
      part t id p.lane fun q => q = { p with home := h, phase := .travelling (s.cycle + travel r.core h) }) ∧
    (Arriving s id r p → p.lane = 0 → r.op = .monitor → p.home = .slice n → sl.closedTo p.pa = false → heldByDomain s p.pa = false →
        missPending s n addr = none → sl.hit (partOf s r.core) addr = some (k, l) → sl.spways = 0 → sl.monitors.length < 64 →
      let v := leNat ((l.data.drop (p.pa % 128)).take p.n)
      (v = p.compare.toNat → ∃ t, exec (.monitorArm id) s = .next t ∧
        (getSlice t n).monitors = sl.monitors ++ [{ req := id, line := addr, pa := p.pa, n := p.n, part := partOf s r.core }] ∧
        part t id 0 fun q => q.phase = .done) ∧
      (v ≠ p.compare.toNat → ∃ t, exec (.monitorArm id) s = .next t ∧ (getSlice t n).monitors = sl.monitors ∧
        part t id 0 fun q => q.phase = .replied back ∧ q.value.toNat % 2 ^ 64 = v % 2 ^ 64 ∧ q.value.toNat / 2 ^ 112 = 0)) ∧
    (∀ (older : Nat) (q : Req) (o : Part) (due : Nat), older ≠ id → tfind s.reqs older = some q → q.link = none → q.part o.lane = some o →
        r.op = .load → q.op = .load → p.home = .slice n → o.home = .slice n → o.pa / 128 = addr → o.phase = .replied due →
        s.cycle < due → (∃ d, p.phase = .travelling d) → o.cause = 0 → partOf s r.core = partOf s q.core →
        routerOfCore r.core = routerOfCore q.core → tsLt o.rts r.pts = false →
      ∃ t, exec (.routerReadMerge id p.lane older o.lane) s = .next t ∧ t = { s with reqs := t.reqs } ∧
        part t id p.lane fun x => x.value = .ofNat 128 (leNat ((o.line.drop (p.pa % 128)).take p.n)) ∧ x.ts = tsMax r.pts o.wts ∧
          x.phase = .replied due)

/-- R291, R294, R297, R300, R301, R304, R305, R314: the scheduler's writes. A slice register takes its writable fields, LCTL only 4 to 12;
an interleave entry that may stand among the others is written, and any other is refused with 0x098; a domain change holds its range
and waits for every old slice, a slice's WBINV leaves it no line or chute entry of the range, and the release clears HOLD; a format
window is installed in every controller with its seed, or refused; one that goes clears VALID alone; its flags clear in every controller,
of which a read gives the OR; the stockpile's counters halve.
R314: every 2^20 cycles a line's timestamps that lag their slice's MTS by more than 2^44 are raised to 2^44 below it, and so is every
home's, core's and port's clock below the module's largest MTS, which goes to every peer whose link is up. No value changes. -/
def Obligations.SchedulerWritesAndRenormalisation : Prop :=
  (
    ∀ (s : State) (n p w ix : Fin 16) (v : Dword) (value : Quad) (lo hi : Nat) (entries : List (Fin 16 × Quad)) (cfg : FormatWindow)
      (mask : BitVec 7) (c : Change) (x : Slice) (fl : BitVec 7),
      let sl := getSlice s n
      let at_ (hi lo : Nat) : Nat := v.toNat / 2 ^ lo % 2 ^ (hi + 1 - lo)
      let held := holdRange (entries.foldl (fun t e => tput t e.1 e.2) s.idt) lo hi true
      (∃ t, exec (.registerWrite (.lctl n) v) s = .next t ∧
        (getSlice t n).lctl.toNat = if 4 ≤ at_ 3 0 ∧ at_ 3 0 ≤ 12 then at_ 3 0 else sl.lctl.toNat) ∧
      (∃ t, exec (.registerWrite (.sctl n) v) s = .next t ∧
        (getSlice t n).spways = (if 4 < at_ 2 0 then sl.spways else at_ 2 0) ∧
        (getSlice t n).spthr = if at_ 7 4 = 0 then sl.spthr else at_ 7 4) ∧
      (∃ t, exec (.registerWrite (.tctl n p) v) s = .next t ∧ (getSlice t n).wmask p = at_ 15 0 ∧
        (getSlice t n).spq p = at_ 31 20 ∧ (getSlice t n).soft p = at_ 47 32) ∧
      (idtOk value ((s.idt.filter fun e => e.1 ≠ ix.val).map (·.2)) = true → ∃ t, exec (.idtWrite ix value) s = .next t ∧
        t = { s with idt := t.idt } ∧ tfind t.idt ix = some value ∧ ∀ j, j ≠ ix.val → tfind t.idt j = tfind s.idt j) ∧
      (idtOk value ((s.idt.filter fun e => e.1 ≠ ix.val).map (·.2)) = false → ∃ t, exec (.idtWrite ix value) s = .next t ∧
        t.idt = s.idt ∧ t.root.status = s.root.status ++ [{ code := 0x098 }]) ∧
      (s.change = none → idtTableOk held = true → exec (.domainChange lo hi entries) s =
        .next { s with idt := held, change := some { lo := lo, hi := hi, pending := rangeSlices s.idt lo hi, begun := s.cycle } }) ∧
      (s.change = some c → c.pending.contains n.val = true → ∃ t d, exec (.wbinv n) s = .next t ∧ t.change = some d ∧
        d.pending = c.pending.filter (· ≠ n.val) ∧ (getSlice t n).closed = (if sl.closed.contains (c.lo, c.hi) then sl.closed else sl.closed ++ [(c.lo, c.hi)]) ∧
        d.rts = tsMax c.rts ((sl.lines.filter fun l => lineIn c.lo c.hi l.2.addr).foldl (fun t l => tsMax t l.2.rts) sl.mts) ∧
        (∀ l ∈ (getSlice t n).lines, lineIn c.lo c.hi l.2.addr = false) ∧
        (∀ e ∈ (getSlice t n).chute, lineIn c.lo c.hi e.addr = false)) ∧
      (s.change = some c → c.pending = [] → ∃ t, exec .domainRelease s = .next t ∧ t.change = none ∧
        t.idt = holdRange s.idt c.lo c.hi false ∧ t.mem = s.mem ∧
        ∀ k ∈ rangeSlices s.idt c.lo c.hi, (getSlice t k).mts = tsMax (getSlice s k).mts c.rts) ∧
      (windowRefusal s w cfg = none → tfind s.fw w = none → ∃ t, exec (.formatWindowInstall w cfg) s = .next t ∧ t.mem = s.mem ∧
        tfind t.fw w = some { cfg with seed := if cfg.seed = 0 then 1 else cfg.seed }) ∧
      (∀ k, windowRefusal s w cfg = some k → ∃ t, exec (.formatWindowInstall w cfg) s = .next t ∧ t.fw = s.fw ∧
        t.root.status = s.root.status ++ [{ code := k }]) ∧
      (∃ t, exec (.formatWindowRemove w) s = .next t ∧ tfind t.fw w = none ∧ fwRegs t w = ((fwRegs s w).1, false) ∧ ∀ j, j ≠ w.val → tfind t.fw j = tfind s.fw j) ∧
      (∃ t, exec (.fwstatClear w mask) s = .next t ∧ readFwstat t w = readFwstat s w &&& ~~~mask) ∧
      (tfind s.slices n = some x → tfind x.fwStat w = some fl → ∃ t, exec (.fwstatClear w mask) s = .next t ∧
        tfind (getSlice t n).fwStat w = some (fl &&& ~~~mask) ∧ ∀ j, j ≠ w.val → tfind (getSlice t n).fwStat j = tfind x.fwStat j) ∧
      (∃ t, exec .stockpileDecay s = .next t ∧ ∀ j k, tget 0 (getSlice t j).counters k = tget 0 (getSlice s j).counters k / 2)) ∧
  (
    ∀ (s : State),
      let top := match s.slices with | [] => 0 | x :: xs => xs.foldl (fun t e => tsMax t e.2.mts) x.2.mts
      let up (m t : Stamp) : Stamp := if 2 ^ 44 < (m - t).toNat ∧ (m - t).toNat < 2 ^ 47 then m - 2 ^ 44 else t
      ∃ t, exec .timestampRenormalise s = .next t ∧ t.mem = s.mem ∧ t.reqs = s.reqs ∧
        t.hostClock = up top s.hostClock ∧ t.peerClock = s.peerClock.map (fun e => (e.1, up top e.2)) ∧
        t.sent = s.sent ++ (s.links.filter (·.2.up)).map (fun l => (l.1, { code := 0, ts := top })) ∧
        (∀ k c, tfind s.cores k = some c → (getCore t k).clock = up top c.clock ∧ (getCore t k).elems = c.elems) ∧
        (∀ h c, tfind s.homes h = some c → tfind t.homes h = some { c with hclk := up top c.hclk }) ∧
        (∀ n x k l, tfind s.slices n = some x → tfind x.lines k = some l →
          tfind (getSlice t n).lines k = some { l with wts := up x.mts l.wts, rts := up x.mts l.rts }))


/-! ## Tokens, waits and completions -/

/-- R7, R12, R169, R318, R426, R427: a token at the head of an output that may leave goes to the end of the receiving channel, to be
seen after the edge's latency; a doorbell's goes in from the host; one for the host goes into the next entry of the egress ring; one
held for 1,024 cycles on an edge between cores goes to the overflow ring, with its timestamp and over its edge's path, its 32 bytes in the
ring's space, and the edge spills from then on; from the ring it enters the channel. A token from another core, from the ring or from
the host raises the receiving core's clock (R312). A doorbell's token waits for the host's earlier writes (R318). -/
def Obligations.TokensMove : Prop :=
  ∀ (s : State) (e : Edge) (k x out core el part : Nat) (ch : Fin 4) (w : Token) (p : OutPos) (x0 : Spilled)
    (xs : List Spilled) (g : Rung),
    let u : UnitId := ⟨k, x⟩
    let v : UnitId := ⟨core, el⟩
    let o : Fin 4 := Fin.ofNat 4 out
    let q (t : State) : List Arrived := ((Machine.getElem t v).inCh ch).q
    let d : Doorbell := tget {} (getPart s part).doorbells out
    let pt := getPart s part
    (findEdge s (.elem k x out) = some e → e.src = .elem k x out → e.dst = .elem core el ch → e.gated = false →
        outHead s u o = some (w, p) →
      (e.spill = false → inputRoom s core el ch = true → ∃ t, exec (.tokenDelivered (.elem k x out)) s = .next t ∧
        q t = q s ++ [⟨w, s.cycle + e.latency⟩] ∧ ((Machine.getElem t u).outCh o).q = ((Machine.getElem s u).outCh o).q.tail ∧
        (e.crossCore = true → (getCore t core).clock = tsMax (getCore s core).clock p.ts) ∧
        t.mem = s.mem ∧ (Machine.getElem t v).d = (Machine.getElem s v).d) ∧
      (e.spill = true → ((Machine.getElem s v).inCh ch).ring = x0 :: xs → x0.at_ ≤ s.cycle → xs ≠ [] → xs.length < 64 → u ≠ v →
          inputRoom s core el ch = true → ∃ t, exec (.tokenDelivered (.elem k x out)) s = .next t ∧
        q t = q s ++ [⟨x0.tok, s.cycle + 1⟩] ∧ ((Machine.getElem t v).inCh ch).ring = xs ++ [⟨w, p.ts, s.cycle + e.latency⟩] ∧
        ((Machine.getElem t u).outCh o).q = ((Machine.getElem s u).outCh o).q.tail ∧
        (getCore t core).clock = tsMax (getCore s core).clock x0.ts) ∧
      (e.spill = false → e.crossCore = true → (∃ c, e.blocked = some c ∧ c + 1024 ≤ s.cycle) → (Machine.getElem s v).run ≠ 0 →
          ((Machine.getElem s v).inCh ch).ring.length < 64 →
        ∃ t f, exec (.spillTimeout (.elem k x out)) s = .next t ∧
          ((Machine.getElem t v).inCh ch).ring = ((Machine.getElem s v).inCh ch).ring ++ [⟨w, p.ts, s.cycle + e.latency⟩] ∧ q t = q s ∧
          t.mem = (if e.ringAt = 0 then s.mem else Memory.writeN s.mem (e.ringAt + 32 * (e.spilled % 64)) (spillBytes w)) ∧
          ((Machine.getElem t u).outCh o).q = ((Machine.getElem s u).outCh o).q.tail ∧
          findEdge t (.elem k x out) = some f ∧ f.spill = true)) ∧
    (∀ rest base n sink, Safe s → findEdge s (.elem k x out) = some e → e.dst = .egress part sink → e.gated = false → outHead s u o = some (w, p) →
        pt.ring = some (base, n) → pt.ringSeq - pt.ringFreed < 2 ^ n → writesDone s k p.since = true → rest = pt.ringSeq % 2 ^ n →
      ∃ t, exec (.tokenDelivered (.elem k x out)) s = .next t ∧ (getPart t part).ringSeq = pt.ringSeq + 1 ∧
        leNat (Memory.readN t.mem (base + 32 * rest) 16) = w.payload.toNat ∧
        Memory.read t.mem (base + 32 * rest + 16) = .ofNat 8 w.tag.toNat ∧ Memory.read t.mem (base + 32 * rest + 17) = .ofNat 8 sink ∧
        leNat (Memory.readN t.mem (base + 32 * rest + 24) 8) = (pt.ringSeq + 1) % 2 ^ 64 ∧
        (∀ a, (a < base + 32 * rest ∨ base + 32 * rest + 32 ≤ a) → Memory.read t.mem a = Memory.read s.mem a)) ∧
    (∀ rest, findEdge s (.ingress part out) = some e → e.src = .ingress part out → e.dst = .elem core el ch → e.gated = false →
        d.toks = g :: rest → hostDone s g.after = true → inputRoom s core el ch = true →
      ∃ t, exec (.tokenDelivered (.ingress part out)) s = .next t ∧ q t = q s ++ [⟨g.tok, s.cycle + 1⟩] ∧ t.mem = s.mem ∧
        (getCore t core).clock = tsMax (getCore s core).clock g.ts ∧
        (tget {} (getPart t part).doorbells out : Doorbell).toks = rest)

/-- R162 to R166, R181: a wait or release whose condition holds completes with its word in its register: the phase, the counter, the
arrival's phase, the acknowledgements counted; a sleep with the events it has seen, and TIMEOUT or TRAP. -/
def Obligations.WaitsComplete : Prop :=
  ∀ (s : State) (u : UnitId) (id bar : Nat) (w : Wait) (r : Fin 16) (k : Fin 16) (ph : BitVec 16) (v : Dword) (late : Bool) (z : Sleep),
    let c := getCore s u.core
    let b := c.bar bar
    let ce : UnitId := ⟨u.core, ceIx⟩
    let gets (t : State) (u : UnitId) (x : Nat) : Prop :=
      ((Machine.getElem t u).dreg r).toNat = x ∧ (∀ j : Fin 16, j ≠ r → (Machine.getElem t u).dreg j = (Machine.getElem s u).dreg j) ∧
      (Machine.getElem t u).pendD = (Machine.getElem s u).pendD &&& ~~~(1#16 <<< r.val) ∧ t.mem = s.mem
    (tfind c.waits id = some w → w.unit = u.ix → w.sink = .d r → w.remote = none → w.peer = none →
      (w.kind = .barFull bar ph late → 1 ≤ (b.phase - ph).toNat → (b.phase - ph).toNat ≤ 0x7FFF →
        ∃ t, exec (.waitComplete u id) s = .next t ∧ gets t u (b.phase.toNat + (if late then 2 ^ 16 else 0)) ∧
          tfind (getCore t u.core).waits id = none ∧ (getCore t u.core).clock = tsMax c.clock b.ts) ∧
      (∀ p0, w.kind = .barPar bar ph p0 → b.phase ≠ p0 →
        ∃ t, exec (.waitComplete u id) s = .next t ∧ gets t u b.phase.toNat) ∧
      (w.kind = .timeline k v → v.toNat ≤ (c.timeline k).toNat →
        ∃ t, exec (.waitComplete u id) s = .next t ∧ gets t u (c.timeline k).toNat) ∧
      (∀ n, w.kind = .count n → openUpdates c u.ix ≤ n → cwaitSum c u.ix = (0, 0, false) →
        ∃ t, exec (.waitComplete u id) s = .next t ∧ gets t u 0) ∧
      (∀ sc d last, w.kind = .fence sc [] d last false → d ≠ 0 →
        ∃ t, exec (.waitComplete u id) s = .next t ∧ gets t u (last ||| .ofNat 128 (min d 0xFFFF * 2 ^ 16)).toNat) ∧
      (∀ n, w.kind = .arrive bar n [] → b.arrived + n < b.expected →
        ∃ t, exec (.waitComplete u id) s = .next t ∧ gets t u b.phase.toNat ∧ ((getCore t u.core).bar bar).arrived = b.arrived + n ∧
          ((getCore t u.core).bar bar).phase = b.phase) ∧
      (∀ n, w.kind = .arrive bar n [] → b.arrived + n = b.expected → 0 < b.expected → 0 < n →
        ∃ t, exec (.waitComplete u id) s = .next t ∧ gets t u (b.phase.toNat + 2 ^ 16) ∧ ((getCore t u.core).bar bar).arrived = 0 ∧
          ((getCore t u.core).bar bar).phase = b.phase + 1) ∧
      (w.kind = .signal k v [] →
        ∃ t, exec (.waitComplete u id) s = .next t ∧ gets t u (min (2 ^ 64 - 1) ((c.timeline k).toNat + v.toNat)) ∧
          ((getCore t u.core).timeline k).toNat = min (2 ^ 64 - 1) ((c.timeline k).toNat + v.toNat))) ∧
    ((getCtl s u.core).sleep = some z → (Machine.getElem s ce).run = 1 → z.sink = .d r →
      (z.seen ≠ 0 → (∀ n, z.limit = some n → s.cycle < n) →
        ∃ t, exec (.sleepWake u.core) s = .next t ∧ gets t ce z.seen.toNat ∧ (getCtl t u.core).sleep = none) ∧
      (∀ n, z.limit = some n → n ≤ s.cycle →
        ∃ t, exec (.sleepTimeout u.core) s = .next t ∧ gets t ce (z.seen.toNat + 16) ∧ (getCtl t u.core).sleep = none) ∧
      (∀ o : OwnTrap, (getCtl s u.core).own = some o → (getCtl s u.core).stopped = false → (getCtl s u.core).hnd = false →
        (getCtl s u.core).trbase.toNat ≤ 0x5FFC0 → (∀ n, z.limit = some n → s.cycle < n) →
        ∃ t, exec (.trapTaken u.core) s = .next t ∧ ((Machine.getElem t ce).dreg r).toNat = z.seen.toNat + 32 ∧
          (getCtl t u.core).sleep = none ∧ (getCtl t u.core).hnd = true))

/-- R22, R23, R164, R187, R195: an engine's completion arrives: its word is written to its register, its timeline counts it, its
scoreboard bit is freed, and the core's clock rises. SIGNAL completes in its place among its engine's commands. A stopped engine's
command goes on after RESUME, and ends after ABORT with what it has done and its cause.
R186, R187: UNLOAD takes every selected element that is configured away and counts them; a LOAD configures an element Running as soon as
its record has arrived, completes 8 cycles after the last, and with any configured element among those selected loads nothing and says
0x307; a phase command completes when the scoreboard bits it names are clear. -/
def Obligations.CompletionsAndFabricCommands : Prop :=
  (
    ∀ (s : State) (core port : Nat) (k : Completion) (rest : List Completion) (r : Fin 16) (m : Cmd) (tl n b : Nat),
      let c := getCore s core
      let u := unitAt core k.unit
      let e := getEng s core port
      (tget [] c.comps port = k :: rest → k.due ≤ s.cycle → k.reg = some r → k.trapf = false → tl < 16 →
          k.tl = some tl → k.num = c.timeline tl + 1 → tget [] c.tlDone tl = [] → k.psb = some b → tget 0 c.psb b = n →
        ∃ t, exec (.engineCompletion core port) s = .next t ∧ (Machine.getElem t u).dreg r = k.word ∧
          (∀ j : Fin 16, j ≠ r → (Machine.getElem t u).dreg j = (Machine.getElem s u).dreg j) ∧
          (Machine.getElem t u).pendD = (Machine.getElem s u).pendD &&& ~~~(1#16 <<< r.val) ∧
          (getCore t core).timeline tl = c.timeline tl + 1 ∧ tget 0 (getCore t core).psb b = n - 1 ∧
          tget [] (getCore t core).comps port = rest ∧ (getCore t core).clock = tsMax c.clock k.ts ∧ t.mem = s.mem) ∧
      (Commanded s core port m → ∃ t, exec (.signal (Fin.ofNat 16 tl)) s = .next t ∧ Completes s t core port m 0 0 0 e.pts 1 ∧ UnitsKeep s t ∧
        t.mem = s.mem) ∧
      (headCmd s core port = some m → m.bad = none →
        (e.state = 2 → ∃ t, exec (.resume core port) s = .next t ∧ getEng t core port = { e with state := 1, cause := 0, addr := 0 } ∧ UnitsKeep s t ∧
          ((getCore t core).queue port).q = (c.queue port).q) ∧
        (e.state = 2 → ∃ t, exec (.abort core port) s = .next t ∧ Completes s t core port m e.espf.toNat e.count e.cause e.pts 1 ∧ UnitsKeep s t ∧
          (getEng t core port).state = 0) ∧
        (e.state = 1 → port ≤ 7 → ∃ t, exec (.abort core port) s = .next t ∧
          Completes s t core port m e.espf.toNat e.count 0x205 e.pts 1 ∧ UnitsKeep s t ∧ (getEng t core port).state = 0))) ∧
  (
    ∀ (s : State) (core el va : Nat) (els : List Nat) (m : Cmd) (mask img : Dword) (pmask : BitVec 17) (b : List Byte),
      let e := getEng s core 20
      let fs := fetchesOf s core 20
      Commanded s core 20 m →
      (m.unit = ceIx → ∃ t l, exec (.fabricUnload mask) s = .next t ∧
        tget [] (getCore t core).comps 20 = l ++ [completionOf s 20 m 0
          ((List.range 64).filter fun i => mask.getLsbD i && (Machine.getElem s ⟨core, i⟩).run != 0).length 0 m.pts 8] ∧
        (∀ i, i < 64 → mask.getLsbD i = true → (Machine.getElem s ⟨core, i⟩).run ≠ 0 → (Machine.getElem t ⟨core, i⟩).run = 0) ∧ t.mem = s.mem) ∧
      (∀ i, i < 64 → e.state = 0 → mask.getLsbD i = true → (Machine.getElem s ⟨core, i⟩).run ≠ 0 →
        ∃ t, exec (.fabricLoad mask img) s = .next t ∧
        Completes s t core 20 m 0 0 0x307 m.pts 8 ∧ ∀ j, Machine.getElem t ⟨core, j⟩ = Machine.getElem s ⟨core, j⟩) ∧
      (el < 64 → e.state = 1 → e.pos = va :: el :: els → wholeRecord (arrivedFrom va fs) = some b →
        rd b 2 1 = el / 8 → rd b 3 1 = el % 8 → badTriggerOf b = none →
        (els = [] → ∃ t, exec (.fabricLoad mask img) s = .next t ∧
          Completes s t core 20 m 0 (e.count + 1) e.cause (fetchesTs e.pts fs) 8 ∧ Machine.getElem t ⟨core, el⟩ = elemOfRecord b ∧
          (Machine.getElem t ⟨core, el⟩).run = 1 ∧ t.mem = s.mem ∧
          ∀ j, j ≠ el → Machine.getElem t ⟨core, j⟩ = Machine.getElem s ⟨core, j⟩) ∧
        (els ≠ [] → wholeRecord (arrivedFrom (va + b.length) fs) = none → (∃ f, firstOpen fs = some f ∧ f.ans = .waiting) →
          ∃ t, exec (.fabricLoad mask img) s = .next t ∧ (getEng t core 20).state = 1 ∧ (getEng t core 20).pos = (va + b.length) :: els ∧
          (getEng t core 20).count = e.count + 1 ∧ Machine.getElem t ⟨core, el⟩ = elemOfRecord b ∧
          ((getCore t core).queue 20).q = ((getCore s core).queue 20).q ∧ t.mem = s.mem)) ∧
      ((∀ i, i < 17 → pmask.getLsbD i = true → tget 0 (getCore s core).psb i = 0) → ∃ t, exec (.phaseCommand pmask) s = .next t ∧
        Completes s t core 20 m 0 0 0 m.pts 0 ∧ UnitsKeep s t ∧ t.mem = s.mem) ∧
      (∀ i, i < 17 → pmask.getLsbD i = true → tget 0 (getCore s core).psb i ≠ 0 → exec (.phaseCommand pmask) s = .next s))

/-- R188, R195, R198, R199, R205, R228: a bound stream starts its walk at its base, or ends with 0x204 where that is no multiple of the
element width; each element of 16 bytes, once its read has been answered, enters the attached input with the number of dimensions it ends,
the walk going on or, with its last element, completing; the edge ports take a token's word, and its whole command joins the queue. -/
def Obligations.StreamsAndEdgePorts : Prop :=
  ∀ (s : State) (core k el : Nat) (se : Fin 8) (ch o : Fin 4) (m : Cmd) (base : Dword) (pat : BitVec 16) (p : Pattern) (u : UnitId)
    (q : OutPos) (w : Token) (bs : List Byte) (ts : Stamp) (fs : List Fetch),
    let e := getEng s core se
    let b := if base = 0 then p.base else base.toNat
    let dims := p.counts.take p.ndim
    let a := walkAddr e.base (p.strides.take p.ndim) e.pos
    let ends := endsDims dims e.pos
    let queued (t : State) (port : Nat) (ws : List Quad) : Prop := ∃ c : Cmd,
      ((getCore t core).queue port).q = ((getCore s core).queue port).q ++ [c] ∧ c.packet = ws ∧ c.edge = true ∧ c.creg = none ∧
      c.unit = 65 ∧ ((Machine.getElem t u).outCh o).q = ((Machine.getElem s u).outCh o).q.tail
    (Commanded s core se m → boundPattern s core se pat.toNat = some p → p.addrMode = false →
        (∀ x ∈ p.strides.take p.ndim, x % (p.ew : Int) = 0) →
      (b % p.ew = 0 → ∃ t, exec (.bind base pat) s = .next t ∧ (getEng t core se).state = 1 ∧ (getEng t core se).base = b ∧ UnitsKeep s t ∧ t.mem = s.mem ∧
        (getEng t core se).pat = pat.toNat ∧ (getEng t core se).pos = [0, 0, 0, 0, 0, 0] ∧
        ((getCore t core).queue se).q = ((getCore s core).queue se).q) ∧
      (b % p.ew ≠ 0 → ∃ t, exec (.bind base pat) s = .next t ∧ Completes s t core se m 0 0 0x204 m.pts 1 ∧ UnitsKeep s t ∧ t.mem = s.mem)) ∧
    (e.state = 1 → boundPattern s core se e.pat = some p → p.addrMode = false → p.ew = 16 → 0 < p.ndim →
      headCmd s core se = some m →
      attachRoom s core se = some (k, el, ch) → (Machine.getElem s ⟨k, el⟩).run ≠ 0 →
      takeFetch (fetchesOf s core se) a 16 = some (.got bs ts, fs) →
      (∃ t, exec (.streamTokenDeliver core se) s = .next t ∧
        ((Machine.getElem t ⟨k, el⟩).inCh ch).q =
          ((Machine.getElem s ⟨k, el⟩).inCh ch).q ++ [⟨⟨.ofNat 128 (leNat (bs.take 16)), .ofNat 3 ends⟩, s.cycle + 1⟩] ∧
        (ends ≠ p.ndim → (getEng t core se).state = 1 ∧ (getEng t core se).pos = nextIx dims (e.pos.take p.ndim) ∧
          (getEng t core se).count = e.count + 1) ∧
        (ends = p.ndim → (getEng t core se).state = 0 ∧ Completes s t core se m 0 (e.count + 1) 0 (tsMax e.pts ts) 1))) ∧
    (edgeToken s core (.cp core) = some (u, o, q) → q.tok = some w → u.core = core →
      ((getCore s core).cpEdge.length + 1 < cpWords (((getCore s core).cpEdge ++ [w.payload]).headD 0) →
        ∃ t, exec (.cpEdgeWord core) s = .next t ∧ (getCore t core).cpEdge = (getCore s core).cpEdge ++ [w.payload] ∧
          ((Machine.getElem t u).outCh o).q = ((Machine.getElem s u).outCh o).q.tail) ∧
      ((getCore s core).cpEdge = [] → cpWords w.payload = 1 →
        ((getCore s core).queue 13).hasRoom (signalClass 13 (w.payload.toNat % 256)) = true → arbiter s core 13 65 = true →
        ∃ t, exec (.cpEdgeWord core) s = .next t ∧ queued t 13 [w.payload] ∧ (getCore t core).cpEdge = [])) ∧
    (edgeToken s core (.mn core) = some (u, o, q) → q.tok = some w → u.core = core →
      ((getCore s core).queue 12).hasRoom (signalClass 12 (w.payload.toNat % 256)) = true → arbiter s core 12 65 = true →
      ∃ t, exec (.mnEdgeToken core) s = .next t ∧ queued t 12 [w.payload])

/-! ## The copy engine, the partition network and the intersection unit -/

/-- R195, R200 to R204: COPY of one element without conversion asks for it at the source base; once the read is answered it writes the
bytes at the destination base, and holds its end, with COUNT 1, until the write is acknowledged; then it completes. A read that faults
in translation stops the engine with 0x214 or 0x215 and the address. -/
def Obligations.CopyMovesAnElement : Prop :=
  ∀ (s : State) (core va : Nat) (m : Cmd) (c : CopyCmd) (bs : List Byte) (ts : Stamp) (x : Cause) (r : Route) (rest : List Action)
    (j : Nat),
    let e := getEng s core 13
    let n := (copySrc c).ew
    let from_ := walkAddr (copySrc c).base (copySrc c).strides [0]
    let to_ := walkAddr (copyDst c).base (copyDst c).strides [0]
    let bytes := leBytes (copyDst c).ew (leNat (bs.take n))
    let fs := fetchesOf s core 13
    (Commanded s core 13 m → copyDims c = [1] → c.conv = false → c.dmx = false → (copySrc c).mx = false → e.count = 0 → e.espf = 0 →
        (tget {} (getCore s core).engOut 13 : EngOut).toks = [] → engLost s core 13 = false →
      (e.pos = [] → fs = [] → lookUp s core from_ n .read = .ok r → ∃ t rq q, exec (.copy c) s = .next t ∧ tfind t.reqs s.nextReq = some rq ∧
        rq.op = .load ∧ rq.sink = .engine ∧ rq.parts = [q] ∧ q.pa = r.pa ∧ q.home = r.home ∧ q.n = n ∧ (getEng t core 13).state = 1 ∧
        (getEng t core 13).pos = [0] ∧ UnitsKeep s t ∧ t.mem = s.mem) ∧
      (e.pos = [0] → takeFetch fs from_ n = some (.got bs ts, []) → lookUp s core to_ (copyDst c).ew .write = .ok r →
        ∃ t rq q, exec (.copy c) s = .next t ∧ tfind t.reqs s.nextReq = some rq ∧ rq.op = .store ∧ rq.posted = true ∧ rq.parts = [q] ∧
          q.pa = r.pa ∧ q.home = r.home ∧ q.n = bytes.length ∧ q.operand = bytes ∧ (getEng t core 13).count = 1 ∧
          (getEng t core 13).final = some (1, 0) ∧ UnitsKeep s t ∧ t.mem = s.mem) ∧
      (e.pos = [0] → takeFetch fs from_ n = some (.fault (.stop x va), []) → engBusy s core 13 = false →
        ∃ t, exec (.copy c) s = .next t ∧ t.mem = s.mem ∧ UnitsKeep s t ∧ (getEng t core 13).state = 2 ∧
          (getEng t core 13).addr = .ofNat 64 va ∧ (getEng t core 13).cause = (if x = 0x091 ∨ x = 0x094 ∨ x = 0x096 then 0x215 else 0x214) ∧
          ((getCore t core).queue 13).q = ((getCore s core).queue 13).q)) ∧
    (s.agenda = .engine core 13 :: rest → cutting s core = false → (getCore s core).engSaved.contains 13 = false → headCmd s core 13 = some m →
        e.state = 1 → e.final = some (j, 0) → (tget {} (getCore s core).engOut 13 : EngOut).toks = [] → engLost s core 13 = false →
        engBusy s core 13 = false → ((getCore s core).queue 13).q.tail = [] →
      ∃ t, step s = .next t ∧ Completes s t core 13 m e.espf.toNat j 0 e.pts 1 ∧ (getEng t core 13).state = 0 ∧ t.mem = s.mem)

/-- R206 to R211: CONF sets the lane rule once the network is clear. A GATHER, SCATTER, MASK or LIST asks for what it reads first; with its
reads answered, GATHER of one position makes one token of its data, tagged 1, and zero where the index makes no request; SCATTER of one
position posts its update and counts it; MASK over at most eight positions of one flat mask, and LIST of two elements, make one token of
what they find, tagged 1. Each then waits until its tokens are delivered and its updates acknowledged. -/
def Obligations.NetworkAndIntersectionCommands : Prop :=
  ∀ (s : State) (core : Nat) (m : Cmd) (lsel : Bool) (shift : BitVec 5) (g : GatherCmd) (sc : ScatterCmd) (k : MaskCmd) (l : ListCmd)
    (bi bs : List Byte) (b : Byte) (ti tb : Stamp) (f1 f2 : List Fetch) (rt : Route) (x : Nat),
    let idle (port : Nat) : Prop := Commanded s core port m ∧ (getEng s core port).count = 0 ∧ (getEng s core port).cause = 0 ∧
      (getEng s core port).final = none ∧ engLost s core port = false
    let fresh (port : Nat) : Prop := (getEng s core port).pos = [] ∧ (getEng s core port).tail = [] ∧ fetchesOf s core port = [] ∧
      (tget {} (getCore s core).engOut port : EngOut).toks = []
    let asks (i : Instr) (port va n : Nat) : Prop := ∃ t rq q, exec i s = .next t ∧ tfind t.reqs s.nextReq = some rq ∧ rq.op = .load ∧
      rq.core = core ∧ rq.sink = .engine ∧ rq.parts = [q] ∧ q.va = va ∧ q.n = n ∧ q.pa = rt.pa ∧ (getEng t core port).state = 1 ∧
      UnitsKeep s t ∧ t.mem = s.mem
    let made (t : State) (port : Nat) (w : Token) (n : Nat) : Prop :=
      UnitsKeep s t ∧ (getEng t core port).state = 1 ∧ (getEng t core port).final = some (n, 0) ∧
      ((getCore t core).queue port).q = ((getCore s core).queue port).q ∧
      ∃ o, (tget {} (getCore t core).engOut port : EngOut).toks = (tget {} (getCore s core).engOut port : EngOut).toks ++ [o] ∧ o.tok = w
    let ibytes (w : Fin 2) : Nat := if w = 0 then 4 else 8
    (Commanded s core 14 m → inNetwork s core = false → ∃ t, exec (.conf lsel shift) s = .next t ∧ (getCore t core).laneSel = lsel ∧
      (getCore t core).laneShift = shift.toNat ∧ UnitsKeep s t ∧ Completes s t core 14 m 0 0 0 m.pts 1 ∧ t.mem = s.mem) ∧
    (Commanded s core 14 m → inNetwork s core = true → exec (.conf lsel shift) s = .next s) ∧
    (idle 14 → fresh 14 → 0 < g.nidx.toNat → lookUp s core (g.ibase.toNat % 2 ^ 64) (ibytes g.iwl) .read = .ok rt →
      asks (.gather g) 14 (g.ibase.toNat % 2 ^ 64) (ibytes g.iwl)) ∧
    (idle 14 → fresh 14 → 0 < sc.nidx.toNat → lookUp s core (sc.ibase.toNat % 2 ^ 64) (ibytes sc.iwl) .read = .ok rt →
      asks (.scatter sc) 14 (sc.ibase.toNat % 2 ^ 64) (ibytes sc.iwl)) ∧
    (idle 15 → fresh 15 → k.nm = 0 → k.tree = 0 → 0 < k.len.toNat → lookUp s core (k.m0.toNat % 2 ^ 64) 1 .read = .ok rt →
      asks (.mask k) 15 (k.m0.toNat % 2 ^ 64) 1) ∧
    (idle 15 → fresh 15 → 0 < l.na.toNat → 0 < l.nb.toNat → lookUp s core (l.abase.toNat % 2 ^ 64) 4 .read = .ok rt →
      asks (.list l) 15 (l.abase.toNat % 2 ^ 64) 4) ∧
    (idle 14 → (getEng s core 14).pos = [0] → (getEng s core 14).tail = [0, 0] → g.nidx = 1 → g.ewl = 4 → bi.length = ibytes g.iwl →
        takeFetch (fetchesOf s core 14) (g.ibase.toNat % 2 ^ 64) (ibytes g.iwl) = some (.got bi ti, f1) →
      (leNat bi = 2 ^ (8 * ibytes g.iwl) - 1 → ∃ t, exec (.gather g) s = .next t ∧ made t 14 ⟨0, 1⟩ 1) ∧
      (leNat bi ≠ 2 ^ (8 * ibytes g.iwl) - 1 →
        takeFetch f1 ((g.dbase.toNat + leNat bi * 16) % 2 ^ 64) 16 = some (.got bs tb, f2) →
        ∃ t, exec (.gather g) s = .next t ∧ made t 14 ⟨.ofNat 128 (leNat (bs.take 16)), 1⟩ 1)) ∧
    (idle 14 → (getEng s core 14).pos = [0] → (tget {} (getCore s core).engOut 14 : EngOut).toks = [] → sc.nidx = 1 →
        bi.length = ibytes sc.iwl → takeFetch (fetchesOf s core 14) (sc.ibase.toNat % 2 ^ 64) (ibytes sc.iwl) = some (.got bi ti, f1) →
        takeFetch f1 (sc.vbase.toNat % 2 ^ 64) (2 ^ sc.ewl.val) = some (.got bs tb, f2) →
        leNat bi ≠ 2 ^ (8 * ibytes sc.iwl) - 1 →
        mustHold s core [lookUp s core ((sc.dbase.toNat + leNat bi * 2 ^ sc.ewl.val) % 2 ^ 64) (2 ^ sc.ewl.val)
          (MemOp.use (scatterOp sc.op (2 ^ sc.ewl.val)))] = false →
      ∃ t rq q, exec (.scatter sc) s = .next t ∧ UnitsKeep s t ∧ tfind t.reqs s.nextReq = some rq ∧ rq.posted = true ∧
        rq.op = scatterOp sc.op (2 ^ sc.ewl.val) ∧ rq.parts = [q] ∧ q.va = (sc.dbase.toNat + leNat bi * 2 ^ sc.ewl.val) % 2 ^ 64 ∧
        q.n = 2 ^ sc.ewl.val ∧ q.data = .ofNat 128 (leNat (bs.take (2 ^ sc.ewl.val))) ∧ (getEng t core 14).count = 1 ∧
        (getEng t core 14).final = some (1, 0)) ∧
    (idle 15 → (getEng s core 15).pos = [0] → (getEng s core 15).tail = [0] → k.nm = 0 → k.tree = 0 → 0 < k.len.toNat → k.len.toNat ≤ 8 →
        takeFetch (fetchesOf s core 15) (k.m0.toNat % 2 ^ 64) 1 = some (.got [b] ti, f1) →
      let found := (List.range 8).filter fun i => b.getLsbD i && decide (i < k.len.toNat)
      found.length ≤ 4 → ∃ t, exec (.mask k) s = .next t ∧
        made t 15 (onesToken (found.map fun i => (k.ibase.toNat + i) % 2 ^ 32) true) found.length) ∧
    (idle 15 → (getEng s core 15).pos = [0, 0] → (getEng s core 15).tail = Merge.nats { p := 0, q := 0, a := some x } → l.na = 1 → l.nb = 1 →
        takeFetch (fetchesOf s core 15) (l.bbase.toNat % 2 ^ 64) 4 = some (.got bs tb, f2) →
      (x = leNat (bs.take 4) → ∃ t, exec (.list l) s = .next t ∧ made t 15 (onesToken [0, 0] true) 1) ∧
      (x ≠ leNat (bs.take 4) → ∃ t, exec (.list l) s = .next t ∧ made t 15 (onesToken [] true) 0))

/-! ## Adit walks -/

/-- R216 to R219: the rules that compute. A field is the unsigned number of its bytes in REC, within RLOAD; the comparisons set EQ and
LT; ldf, setc, wadd and hash write a register modulo 2^64, the two that write CUR empty REC; a branch whose condition holds goes to its
target, and any other rule to the next. The rule takes one cycle; nothing but the walk changes. -/
def Obligations.WalkRulesCompute : Prop :=
  ∀ (s : State) (core slot : Nat) (w : Walk) (k : Fin 4) (off : Fin 128) (sz : RuleSize) (r : RuleReg) (imm : BitVec 11) (cc : RuleCond)
    (tgt : Fin 32) (b : Fin 25) (sh : Fin 8) (mul : Bool),
    let n := match sz with | .b8 => 8 | .b4 => 4 | .b2 => 2 | .b16 => 16
    let f := leNat ((w.record.drop off.val).take n)
    let reg : Dword := match r with
      | .cur => w.cur | .w0 => w.w.getD 0 0 | .w1 => w.w.getD 1 0 | .w2 => w.w.getD 2 0 | .w3 => w.w.getD 3 0 | .step => .ofNat 64 w.step
    let ruled (i : Instr) (v : Walk) : Prop := ∃ t, exec i s = .next t ∧ WalkNow s t core slot { v with due := s.cycle + 1 }
    let next (v : Walk) : Walk := { v with rp := w.rp + 1 }
    let holds : Bool := match cc with
      | .al => true | .eq => w.eq | .ne => !w.eq | .lt => w.lt | .ge => !w.lt | .gt => !w.eq && !w.lt | .le => w.eq || w.lt
    let x := w.key.toNat % 2 ^ 64 ^^^ w.key.toNat / 2 ^ 64
    let y := x ^^^ x / 2 ^ 32
    let z := y ^^^ y / 2 ^ 16
    let bucket := if mul then (if b = 0 then 0 else x * 0x9E3779B97F4A7C15 % 2 ^ 64 / 2 ^ (64 - b.val)) else (z ^^^ z / 2 ^ 8) % 2 ^ b.val
    s.actor = .walk core slot → tfind (getCore s core).walks slot = some w →
    (off.val % n = 0 → off.val + n ≤ w.rload →
      ruled (.ldf k off sz) (next { w with w := w.w.set k.val (.ofNat 64 f) }) ∧
      ruled (.cmpk off sz) (next { w with eq := decide (w.key.toNat % 2 ^ (8 * n) = f), lt := decide (w.key.toNat % 2 ^ (8 * n) < f) }) ∧
      (let v := (w.w.getD k.val 0).toNat % 2 ^ (8 * n)
       ruled (.cmpw k off sz) (next { w with eq := decide (v = f), lt := decide (v < f) }))) ∧
    ruled (.cmpi r imm) (next { w with eq := decide (reg.toNat = imm.toNat), lt := decide (reg.toNat < imm.toNat) }) ∧
    ruled (.setc r imm) (next { w with cur := reg + imm.signExtend 64, rload := 0 }) ∧
    ruled (.wadd k imm) (next { w with w := w.w.set k.val (w.w.getD k.val 0 + imm.signExtend 64) }) ∧
    ruled (.hash k b sh mul)
      (next { w with cur := .ofNat 64 ((w.w.getD k.val 0).toNat + bucket * 2 ^ (sh.val + 3)), rload := 0 }) ∧
    ruled .idle (next w) ∧
    (w.rp < tgt.val → tgt.val ≤ w.nrule → ruled (.ruleBr cc tgt) (if holds then { w with rp := tgt.val } else next w))

/-- R218 to R223: the rules that load, move and end. ldr reads its record where the walk stands, or moves to the line's home first; its
faults follow the walk's policy; a move counts a step, and a null pointer or the step limit ends the walk; an end sets the reply out
for the core with its status, its steps and its record. A field beyond RLOAD is a rule fault. -/
def Obligations.WalkRulesMoveAndEnd : Prop :=
  ∀ (s : State) (core slot : Nat) (w : Walk) (n : Fin 16) (off : Fin 128) (b : Fin 8) (code : Byte) (k : Fin 4) (pa : Nat) (c : Cause),
    let bytes := 8 * (n.val + 1)
    let p := leNat ((w.record.drop off.val).take 8)
    let q := leNat ((w.record.drop (off.val + 8)).take 8)
    let len := 16 * (b.val + 1)
    let diag := leBytes 8 w.cur.toNat ++ leBytes 8 (w.w.headD 0).toNat
    let ended (i : Instr) (status cause ucode : Nat) (record : List Byte) : Prop := ∃ t, exec i s = .next t ∧
      WalkNow s t core slot { w with
        cause := cause, parked := false, tried := false, waiting := 3, due := s.cycle + walkTrip core w.slice,
        incoming := leBytes 16 (completionWord w.cmd.tlNum (ucode * 2 ^ 24 + w.skipped.toNat * 2 ^ 16 + status * 2 ^ 13 + w.step)
          record.length cause).toNat ++ record }
    let moved (i : Instr) (p : Nat) : Prop :=
      (p ≠ 0 → w.step ≠ w.slim → ∃ t, exec i s = .next t ∧ WalkNow s t core slot { w with
        step := w.step + 1, cur := .ofNat 64 p, eq := false, lt := false, rload := 0, rp := w.loopix, due := s.cycle + 1 }) ∧
      (p = 0 → ended i 1 0 0 []) ∧ (p ≠ 0 → w.step = w.slim → ended i 4 0x284 0 diag)
    s.actor = .walk core slot → tfind (getCore s core).walks slot = some w → w.rmode = false → w.tried = false →
    (off.val % 8 = 0 → off.val + 8 ≤ w.rload → moved (.follow off) p) ∧
    (off.val % 8 = 0 → off.val + 16 ≤ w.rload → moved (.choose off) (if w.lt then p else q)) ∧
    (off.val % 16 = 0 → off.val + len ≤ w.rload → w.record.length = 128 → ended (.ret off b) 0 0 0 ((w.record.drop off.val).take len)) ∧
    ended .retw 0 0 0 (w.w.flatMap fun x => leBytes 8 x.toNat) ∧
    ended .miss 1 0 0 [] ∧
    ended (.fail code) 2 0 code.toNat [] ∧
    (w.rload < off.val + 8 → ended (.ldf k off .b8) 5 0x288 0 diag ∧ ended (.follow off) 5 0x288 0 diag) ∧
    (aditTranslate s core w.slice w.cur.toNat bytes = .ok (pa, none) → sliceOf s pa ≠ w.slice → ∃ t, exec (.ldr n) s = .next t ∧
      WalkNow s t core slot { w with waiting := 2, target := sliceOf s pa, load := some (pa, bytes),
                                     due := s.cycle + 8 + 12 * hops (routerOfSlice w.slice) (routerOfSlice (sliceOf s pa)) }) ∧
    (∀ key line, aditTranslate s core w.slice w.cur.toNat bytes = .ok (pa, none) → sliceOf s pa = w.slice →
        (getSlice s w.slice).hit (partOf s core) (pa / 128) = some (key, line) → (getSlice s w.slice).spways = 0 →
        foreignTo s (partOf s core) pa = none →
      ∃ t, exec (.ldr n) s = .next t ∧ t.mem = s.mem ∧
        tfind (getCore t core).walks slot = some { w with
          waiting := 1, load := some (pa, bytes), incoming := (line.data.drop (pa % 128)).take bytes,
          pts := tsMax w.pts (tsMax w.pts line.wts), due := s.cycle + 8 }) ∧
    (aditTranslate s core w.slice w.cur.toNat bytes = .error c → aditCycles s core w.slice w.cur.toNat bytes = 0 →
      (w.pol = 0 → ended (.ldr n) 3 c 0 diag) ∧
      (w.pol = 1 → w.step ≠ w.slim → ∃ t, exec (.ldr n) s = .next t ∧ WalkNow s t core slot { w with
        step := w.step + 1, skipped := true, eq := false, lt := false, rload := 0, rp := w.skipix, due := s.cycle + 1 }) ∧
      (w.pol = 2 → ∃ t, exec (.ldr n) s = .next t ∧ tfind (getCore t core).walks slot = some { w with parked := true, cause := c } ∧
        (getCore t core).trapq = raiseInto (getCore s core).trapq
          { kind := 2, src := 16, cause := c, addr := w.cur, detail := w.cmd.tlNum.setWidth 128, since := s.cycle }))

/-- R213 to R215, R220 to R223: a walk takes the lowest free slot with the registers its packet gives and the rules its line holds, and
travels to its first slice; where its line lies at another module, it first asks for it; it goes on where it arrives, and with its record once that has been read; SIGNAL completes when no walk is
left; RESUME lets the oldest parked walk try again, and ABORT ends it with its cause. -/
def Obligations.WalksBeginArriveAndResume : Prop :=
  ∀ (s s1 : State) (core slot : Nat) (m : Cmd) (c : WalkCmd) (w : Walk) (line : Answer),
    let k := getCore s core
    let first := routerOfCore core * 4
    let place : Place := m.pas.headD {}
    let to_ : Nat × Nat := match aditTranslate s1 core first c.cur0.toNat 8 with
      | .ok (pa, none) => (sliceOf s1 pa, 0)
      | .ok (pa, some _) => (sliceOf s1 pa, aditCycles s1 core first c.cur0.toNat 8)
      | .error _ => (first, 0)
    (Commanded s core 16 m → (∀ i, i < slot → (tfind k.walks i).isSome = true) → slot < 16 → tfind k.walks slot = none →
        (∀ n, place.home ≠ .remote n) →
        performRead (dropHead s core 16) place.home (partOf s core) place.pa 128 .normal false (tsMax k.clock m.pts) = (s1, line) →
        line.cause = 0 →
      ∃ t v, exec (.walk c) s = .next t ∧ tfind (getCore t core).walks slot = some v ∧ v.cur = c.cur0 ∧ v.key = c.key ∧
        v.w = [c.w0, c.w1, 0, 0] ∧ v.rbase = c.rbase ∧ v.slim = c.slim.toNat ∧ v.nrule = c.nrule.val ∧ v.skipix = c.skipix.val ∧
        v.loopix = c.loopix.val ∧ v.rp = c.entry.val ∧ v.rmode = c.rmode ∧ v.trapf = c.trapf ∧ v.step = 0 ∧ v.rload = 0 ∧
        v.eq = false ∧ v.lt = false ∧ v.waiting = 2 ∧ v.target = to_.1 ∧ v.due = s.cycle + walkTrip core to_.1 + to_.2 ∧
        (∀ i, i < 32 → (v.rules.getD i 0).toNat = leNat ((line.value.drop (4 * i)).take 4) % 2 ^ 32) ∧
        ((getCore t core).queue 16).q = (k.queue 16).q.tail) ∧
    (∀ n, Commanded s core 16 m → (∀ i, i < slot → (tfind k.walks i).isSome = true) → slot < 16 → tfind k.walks slot = none →
        place.home = .remote n →
      ∃ t v rq q, exec (.walk c) s = .next t ∧ tfind (getCore t core).walks slot = some v ∧ v.waiting = 6 ∧ v.cur = c.cur0 ∧
        tfind t.reqs s.nextReq = some rq ∧ rq.op = .load ∧ rq.parts = [q] ∧ q.home = .remote n ∧ q.pa = place.pa ∧ q.n = 128 ∧
        ((getCore t core).queue 16).q = (k.queue 16).q.tail) ∧
    (∀ j : Fin 16, tfind k.walks j = some w → w.due ≤ s.cycle →
      (w.waiting = 2 → w.load = none → ∃ t, exec (.walkMigrationArrival core j) s = .next t ∧
        WalkNow s t core j { w with slice := w.target, waiting := 0 }) ∧
      (w.waiting = 1 → ∃ t, exec (.recordLoadComplete core j) s = .next t ∧ WalkNow s t core j { w with
        record := w.incoming ++ w.record.drop w.incoming.length, rload := w.incoming.length, rp := w.rp + 1, waiting := 0,
        incoming := [], load := none })) ∧
    (Commanded s core 16 m → k.walks = [] → ∃ t, exec .aditSignal s = .next t ∧ Completes s t core 16 m 0 0 0 m.pts 1) ∧
    (parkedWalk k = some (slot, w) →
      (∃ t, exec (.aditResume core) s = .next t ∧ WalkNow s t core slot { w with parked := false, cause := 0, due := s.cycle }) ∧
      (w.rmode = false → ∃ t v, exec (.aditAbort core) s = .next t ∧ tfind (getCore t core).walks slot = some v ∧ v.parked = false ∧
        v.cause = w.cause ∧ v.waiting = 3 ∧ v.incoming = leBytes 16 (completionWord w.cmd.tlNum
          (w.skipped.toNat * 2 ^ 16 + 3 * 2 ^ 13 + w.step) 16 w.cause).toNat ++ leBytes 8 w.cur.toNat ++ leBytes 8 (w.w.headD 0).toNat))

/-! ## The matrix node -/

/-- A control token begins at its node: it stands at the queue's head, and nothing of it has been done. -/
def Begins (s : State) (core : Nat) (m : Cmd) : Prop := Commanded s core 12 m ∧ (getMn s core).active = false

/-- The state in which the head token has begun: as it is where it had, else with the timestamp of its issue taken in and the banks
kept (R234, R261). -/
def entered (s : State) (core : Nat) (m : Cmd) : State :=
  let n := getMn s core
  if n.active then s
  else setEng (setMn s core { n with active := true, next := 0, count := 0, opFlags := 0, opBytes := 0, tolerance := false, part := false,
                                     base := 0, work := 0, col := 0, undo := some (n.acc0, n.acc1) }) core 12
    { getEng s core 12 with pts := tsMax (getEng s core 12).pts m.pts }

/-- R230, R233 to R235: a token ends with flags, a count, a cause and bytes: it leaves its queue, FLG, LAST and TOKENS take it in, and
its completion sets out, with what its issuer's CHAIN tokens before it left; a CHAIN token leaves its flags and cause for the next. -/
structure TokenEnds (s t : State) (core : Nat) (m : Cmd) (fl : BitVec 7) (count cause bytes after : Nat) (ts : Stamp) : Prop where
  left : ((getCore t core).queue 12).q = ((getCore s core).queue 12).q.tail
  counted : (getMn t core).tokens = (getMn s core).tokens + 1 ∧ (getMn t core).flg = (getMn s core).flg ||| fl ∧
    (getMn t core).last = (if cause ≠ 0 then cause else (getMn s core).last) ∧ (getMn t core).active = false ∧
    (getMn t core).busy = s.cycle + after ∧ fetchesOf t core 12 = []
  sent :
    let c : Cause × BitVec 7 := tget (0, 0) (getMn s core).chains m.unit
    let all := if c.1 ≠ 0 then c.1 else cause
    if tokBit m 45 then
      tget [] (getCore t core).comps 12 = tget [] (getCore s core).comps 12 ∧
        tget (0, 0) (getMn t core).chains m.unit = (all, fl ||| c.2)
    else
      tget [] (getCore t core).comps 12 = tget [] (getCore s core).comps 12 ++
        [completionOf s 12 m ((fl ||| c.2).toNat + bytes % 2 ^ 16 * 2 ^ 16) count all ts after] ∧
        tget (0, 0) (getMn t core).chains m.unit = (0, 0)
  units : UnitsKeep s t

/-- Of a node's banks only the elements of a region of bank b change, and each holds what a rule gives (R239). -/
structure BankSet (n n' : Node) (b r0 c0 rows cols : Nat) (f : Nat → Nat → Nat) : Prop where
  modes : n'.mode0 = n.mode0 ∧ n'.mode1 = n.mode1
  inside : ∀ i j, i < rows → j < cols → n'.cell b (r0 + i) (c0 + j) = f i j % 2 ^ (8 * cellBytes (n.mode b))
  outside : ∀ i j, i < 96 → j < bankWidth (n.mode b) → ¬(r0 ≤ i ∧ i < r0 + rows ∧ c0 ≤ j ∧ j < c0 + cols) →
    n'.cell b i j = n.cell b i j
  other : ∀ i j, n'.cell (1 - b) i j = n.cell (1 - b) i j

/-- The banks and their modes are as they were. -/
def BanksKept (n n' : Node) : Prop := n'.acc0 = n.acc0 ∧ n'.acc1 = n.acc1 ∧ n'.mode0 = n.mode0 ∧ n'.mode1 = n.mode1

/-- The registers beside the banks are as they were. -/
def RegsKept (n n' : Node) : Prop := n'.md = n.md ∧ n'.mc = n.mc ∧ n'.gen = n.gen ∧ n'.rmx = n.rmx ∧ n'.rsm = n.rsm

/-- An operation goes on: its token stays at the head of its queue, and banks and memory are as they were. -/
structure GoesOn (s t : State) (core : Nat) : Prop where
  queue : ((getCore t core).queue 12).q = ((getCore s core).queue 12).q
  banks : BanksKept (getMn s core) (getMn t core)
  memory : t.mem = s.mem
  active : (getMn t core).active = true

/-- Data that an operation reads has not come: its line is on its way, or is yet to be asked for (R242). -/
def Waits : EngFault → Prop
  | .wait => True
  | .ask _ _ _ => True
  | _ => False

/-- The part that an operation is at has begun, and its time is over. -/
def PartOver (s : State) (core : Nat) : Prop := (getMn s core).part = true ∧ (getMn s core).busy ≤ s.cycle

/-- R259: a turn that meets a fault stops the node with its cause and address, once every store before it is acknowledged. -/
def Stops (i : Instr) (s r : State) (core : Nat) (f : EngFault) : Prop :=
  ∀ c va, f = .stop c va → engBusy r core 12 = false → ∃ t', exec i s = .next t' ∧ GoesOn r t' core ∧
    (getMn t' core).stopped = 1 ∧ (getMn t' core).cause = c ∧ (getMn t' core).addr = .ofNat 64 va

/-- R259, R274: an operation of one part, with all its reads before it, works `cycles` cycles from when they have come, and then is done. -/
def TurnsWhole {α : Type} (i : Instr) (s s0 : State) (core : Nat) (needs : List TileRead) (get : State → State × Except EngFault α)
    (cycles : Nat) (done : State → α → State → Prop) : Prop :=
  let asked := needLines s0 core needs
  (∀ v f, get asked = (v, .error f) → (Waits f → exec i s = .next asked ∧ GoesOn s0 asked core) ∧ Stops i s asked core f) ∧
  (∀ v x, get asked = (v, .ok x) →
    ((getMn s0 core).part = false → exec i s = .next (beginPart asked core cycles) ∧ GoesOn s0 (beginPart asked core cycles) core) ∧
    (PartOver s0 core → ∃ t', exec i s = .next t' ∧ t'.mem = s.mem ∧ done v x t'))

/-- A part that reads no memory works `cycles` cycles from its beginning, and then is done. -/
def TurnsPart (i : Instr) (s s0 : State) (core cycles : Nat) (done : State → Prop) : Prop :=
  ((getMn s0 core).part = false → exec i s = .next (beginPart s0 core cycles) ∧ GoesOn s0 (beginPart s0 core cycles) core) ∧
  (PartOver s0 core → ∃ t', exec i s = .next t' ∧ t'.mem = s.mem ∧ done t')

/-- R240 to R243, R260: a turn of a product at block `next`. It asks for lines and waits; works on the block once they have come; and
when that time is over adds the block's products to its region of the bank, each element in one step, and goes on with the next block
or ends, COUNT its blocks. -/
def TurnsProduct (i : Instr) (s s0 : State) (core : Nat) (m : Cmd) (p : Product) (r0 c0 : Nat) (flip : Bool) : Prop :=
  let n := getMn s0 core
  let blk := n.next
  let asked := needParts core p.needs (p.blocks - blk) blk s0
  (∀ v f, productBlock asked p blk = (v, .error f) → (Waits f → exec i s = .next asked ∧ GoesOn s0 asked core) ∧ Stops i s asked core f) ∧
  (∀ v as bs fl, productBlock asked p blk = (v, .ok (as, bs, fl)) →
    (n.part = false → n.base = 0 → n.work = 0 → 0 < p.m * p.n * p.width blk → ∃ t', exec i s = .next t' ∧ GoesOn s0 t' core ∧
      (getMn t' core).part = true ∧ (getMn t' core).busy = s.cycle + productCycles p.fmt (p.m * p.n * p.width blk)) ∧
    (PartOver s0 core →
      let x := addBlock p.bank p.mode p.split (blk = 0 && !p.acc) p.place (numbered as) (numbered bs) (getMn v core, { flags := fl })
      ∃ t', exec i s = .next t' ∧ t'.mem = s.mem ∧ RegsKept n (getMn t' core) ∧
        BankSet n (getMn t' core) p.bank r0 c0 (if flip then p.n else p.m) (if flip then p.m else p.n) (fun i j =>
          (productStep p.mode p.split (if blk = 0 ∧ p.acc = false then 0 else n.cell p.bank (r0 + i) (c0 + j))
            (as.getD (if flip then j else i) []) (bs.getD (if flip then i else j) []) {}).1) ∧
        if blk + 1 < p.blocks then
          ((getCore t' core).queue 12).q = ((getCore s core).queue 12).q ∧ (getMn t' core).active = true ∧ (getMn t' core).next = blk + 1 ∧
            (getMn t' core).part = false ∧ (getMn t' core).opFlags = n.opFlags ||| x.2.flags ∧ (∃ more, t'.agenda = .engine core 12 :: more)
        else TokenEnds s t' core m (n.opFlags ||| x.2.flags) (p.count (blk + 1)) 0 n.opBytes 16 (getEng v core 12).pts))

/-- What a product needs of its operands and its bank (R237 to R240): one format, accepted, that suits the bank's mode; layouts, blocks
and bank operands in order; and no operand in the destination's bank. -/
def DenseFits (n : Node) (a b : Operand) (bank m nn k : Nat) : Prop :=
  a.fmt = b.fmt ∧ productMode a.fmt = some (n.mode bank) ∧ a.lay < 2 ∧ b.lay < 2 ∧
    (blockFmt a.fmt = true → k % 32 = 0 ∧ a.lay = 0 ∧ b.lay = 1) ∧
    (a.sp = 2 → a.bankNo ≠ bank ∧ a.badBank n m k = false) ∧ (b.sp = 2 → b.bankNo ≠ bank ∧ b.badBank n k nn = false)

/-- A region that lies in its bank. -/
def Within (mode r0 c0 rows cols : Nat) : Prop := r0 + rows ≤ 96 ∧ c0 + cols ≤ bankWidth mode

/-- Every step keeps the canonical form of the matrix node's stores. -/
def Obligations.StepKeepsMatrixStoresCanonical : Prop :=
  ∀ s t : State, MatrixSafe s → step s = .next t → MatrixSafe t

/-- R240 to R243: MMA adds A·B, in K-blocks of 32 in rising order, to the bank's region at (DROW, DCOL), or puts it there where ACC is
0; MMAT its transpose. Each element takes one step a block; COUNT is the number of blocks. Nothing else of the banks changes, and of
memory nothing. A block begins once its lines have come; its multiply-adds take their cycles; a fault stops the node there. -/
def Obligations.DenseProductsAddTheirBlocks : Prop :=
  ∀ (s : State) (core : Nat) (m : Cmd) (t : MnTok),
    let s0 := entered s core m
    let n := getMn s0 core
    let a := n.operand t.mda
    let b := n.operand t.mdb
    let M := t.m.toNat
    let N := t.n.toNat
    let K := t.k.toNat
    let product (place : Nat → Nat → Nat × Nat) : Product :=
      { bank := t.bank.val, m := M, n := N, k := K, acc := t.acc, mode := n.mode t.bank.val, split := a.fmt = .fp .fp32, fmt := a.fmt, place := place,
        getA := fun s r c => fetchElem s core a r c, getB := fun s r c => fetchElem s core b r c,
        needs := fun blk => a.gridNeeds (32 * blk) (min 32 (K - 32 * blk)) 0 M ++ b.gridNeeds 0 N (32 * blk) (min 32 (K - 32 * blk)), count := id }
    MatrixSafe s → Commanded s core 12 m → DenseFits n a b t.bank.val M N K → 0 < K →
    (Within (n.mode t.bank.val) (dRow t) (dCol t) M N →
      TurnsProduct (.mma t) s s0 core m (product fun i j => (dRow t + i, dCol t + j)) (dRow t) (dCol t) false) ∧
    (Within (n.mode t.bank.val) (dRow t) (dCol t) N M →
      TurnsProduct (.mmat t) s s0 core m (product fun i j => (dRow t + j, dCol t + i)) (dRow t) (dCol t) true)

/-- R244 to R246, R257: a sparse product of one block row reads its structure, then the blocks it names and the rows of B they meet; a
block row without blocks is zero, or what it was under ACC. Structure that falls or that names a column beyond K ends it with 0x186,
nothing changed. A cooperative product waits until all sixteen partners are there; then each goes on with its rows and columns of the
whole, turn by turn as a product does, with COUNT its number of blocks; partners whose tokens do not match end with 0x1D1, and those
left waiting for 2^20 cycles with 0x1D0. (The clause in which the partners set out together takes their operands from banks.) -/
def Obligations.SparseAndCooperativeProducts : Prop :=
  ∀ (s s1 s2 : State) (core : Nat) (m : Cmd) (t : MnTok) (bsr : Bool) (lo hi : Nat) (cols : List Nat) (ms : Nat → Cmd) (id : BitVec 32) (turn : Nat),
    let s0 := entered s core m
    let n := getMn s0 core
    let a := n.operand t.mda
    let b := n.operand t.mdb
    let N := t.n.toNat
    let K := t.k.toNat
    let bk := t.bank.val
    let mode := n.mode bk
    let split : Bool := a.fmt = .fp .fp32
    let i0 : Instr := if bsr then .mmaBsr t else .mmaCsr t
    let size := if bsr then a.bsz else 1
    let old (i j : Nat) : Nat := if t.acc then n.cell bk (dRow t + i) (dCol t + j) else 0
    let u : SparseRun := { brow := 0, first := true, last := true,
                           terms := (List.range (hi - lo)).flatMap fun q => (List.range size).map fun k => (lo + q, cols.getD q 0 * size + k, k) }
    let cl := core / 16
    let asked1 := needLines s0 core ((List.range 2).flatMap fun i => needNat a.sp (a.aux1 + i * a.ix) a.ix)
    let asked2 := needLines s1 core ((List.range (hi - lo)).flatMap fun i => needNat a.sp (a.aux2 + (lo + i) * a.ix) a.ix)
    let asked3 := needParts core (fun i => if i = 0 then runNeeds a b size N u else []) 1 0 s2
    let refused (v : State) : Prop := ∃ t', exec i0 s = .next t' ∧ TokenEnds s t' core m n.opFlags 0 0x186 n.opBytes 16 (getEng v core 12).pts ∧ t'.mem = s.mem ∧
      BanksKept n (getMn t' core)
    MatrixSafe s →
    (Commanded s core 12 m → n.next = 0 → a.fmt = b.fmt → blockFmt a.fmt = false → productMode a.fmt = some mode → a.lay = (if bsr then 3 else 2) →
        b.lay < 2 → (b.sp = 2 → b.bankNo ≠ bk ∧ b.badBank n K N = false) → t.m.toNat = size → K % size = 0 → Within mode (dRow t) (dCol t) size N →
      (∀ v f, mnNats core a.sp a.ix 2 a.aux1 asked1 = (v, .error f) → (Waits f → exec i0 s = .next asked1 ∧ GoesOn s0 asked1 core) ∧ Stops i0 s asked1 core f) ∧
      (mnNats core a.sp a.ix 2 a.aux1 asked1 = (s1, .ok [lo, hi]) →
        (hi < lo ∨ 2 ^ 24 < hi - lo → refused s1) ∧
        (lo ≤ hi → hi - lo ≤ 2 ^ 24 →
          (∀ v f, mnNats core a.sp a.ix (hi - lo) (a.aux2 + lo * a.ix) asked2 = (v, .error f) → Waits f → exec i0 s = .next asked2 ∧ GoesOn s0 asked2 core) ∧
          (mnNats core a.sp a.ix (hi - lo) (a.aux2 + lo * a.ix) asked2 = (s2, .ok cols) →
            (∀ c ∈ cols, K / size ≤ c → refused s2) ∧
            ((∀ c ∈ cols, c < K / size) → u.terms.length ≤ 32 →
              (∀ v f, runValues asked3 core a b size N u = (v, .error f) → (Waits f → exec i0 s = .next asked3 ∧ GoesOn s0 asked3 core) ∧ Stops i0 s asked3 core f) ∧
              (∀ v rows cs fl, runValues asked3 core a b size N u = (v, .ok (rows, cs, fl)) →
                (n.part = false → n.base = 0 → n.work = 0 → 0 < runWork size N u → ∃ t', exec i0 s = .next t' ∧ GoesOn s0 t' core ∧
                  (getMn t' core).part = true ∧ (getMn t' core).busy = s.cycle + productCycles a.fmt (runWork size N u)) ∧
                (PartOver s0 core → ∃ t' fl, exec i0 s = .next t' ∧ TokenEnds s t' core m fl (n.count + 1) 0 n.opBytes 16 (getEng v core 12).pts ∧
                  t'.mem = s.mem ∧ RegsKept n (getMn t' core) ∧ BankSet n (getMn t' core) bk (dRow t) (dCol t) size N fun i j =>
                    if u.terms = [] then old i j
                    else (productStep mode split (old i j) ((rows.map (·.2)).getD i []) ((cs.map (·.2)).getD j []) {}).1))))))) ∧
    (Begins s core m → n.matched = false → coopId m = id.toNat → (pw m.packet 0).toNat % 256 = 5 → mnTok (pw m.packet 0) = t →
        tget 0 n.coop id.toNat = turn → core < 2048 →
      ((∃ k, k / 16 = cl ∧ k ≠ core ∧ coopWaiting s k = none) → ∃ t', exec (.mmaC t) s = .next t' ∧
        (getMn t' core).coopSince = some (n.coopSince.getD s.cycle) ∧ GoesOn s t' core) ∧
      ((∀ k, k / 16 = cl → headCmd s k 12 = some (ms k) ∧ coopId (ms k) = id.toNat ∧ tget 0 (getMn s k).coop id.toNat = turn ∧
          (k ≠ core → coopWaiting s k = some (ms k) ∧ (getMn s k).active = true ∧ (getMn s k).next = 0 ∧ (getMn s k).part = false ∧ (getMn s k).base = 0 ∧
            (getMn s k).work = 0 ∧ (getMn s k).opFlags = 0 ∧ (getMn s k).opBytes = 0)) →
        ((∃ k, k / 16 = cl ∧ coopShape s k (ms k) ≠ coopShape s core m) → ∃ t', exec (.mmaC t) s = .next t' ∧ ∀ k, k / 16 = cl → ∃ ts,
          TokenEnds s t' k (ms k) 0 0 0x1D1 0 16 ts) ∧
        ((∀ k, k / 16 = cl → coopShape s k (ms k) = coopShape s core m) → 0 < K → 0 < t.m.toNat / 4 → 0 < N / 4 →
          (∀ k, k / 16 = cl →
            let x := mnTok (pw (ms k).packet 0)
            let a := (getMn s k).operand x.mda
            let b := (getMn s k).operand x.mdb
            a.sp = 2 ∧ b.sp = 2 ∧ DenseFits (getMn s k) a b bk t.m.toNat N K ∧ Within ((getMn s k).mode bk) 0 0 (t.m.toNat / 4) (N / 4)) →
          ∃ t', exec (.mmaC t) s = .next t' ∧ ∀ k, k / 16 = cl → (getMn t' k).matched = true ∧ (getMn t' k).coopSince = none ∧
            tget 0 (getMn t' k).coop id.toNat = turn + 1 ∧ GoesOn s t' k ∧ (getMn t' k).part = true ∧
            (getMn t' k).busy = s.cycle + productCycles a.fmt (t.m.toNat / 4 * (N / 4) * min 32 K)))) ∧
    (Commanded s core 12 m → n.matched = true → mnTok (pw m.packet 0) = t → DenseFits n a b bk t.m.toNat N K → Within mode 0 0 (t.m.toNat / 4) (N / 4) → 0 < K →
      let mm := t.m.toNat / 4
      let nn := N / 4
      let r := core % 16 / 4 * mm
      let c := core % 16 % 4 * nn
      TurnsProduct (.mmaC t) s (if n.part = true ∧ n.next + 1 = (K + 31) / 32 ∧ n.busy ≤ s.cycle then leaveLines s0 core else s0) core m
        { bank := bk, m := mm, n := nn, k := K, acc := t.acc, mode := mode, split := split, fmt := a.fmt, place := fun i j => (i, j),
          getA := fun s i j => fetchElem s core a (r + i) j, getB := fun s i j => fetchElem s core b i (c + j),
          needs := fun blk => a.gridNeeds (32 * blk) (min 32 (K - 32 * blk)) r mm ++ b.gridNeeds c nn (32 * blk) (min 32 (K - 32 * blk)), count := fun k => k } 0 0 false) ∧
    (∀ k c, k / 16 = cl → coopWaiting s k = some (ms k) → coopId (ms k) = id.toNat → (getMn s k).coopSince = some c → c + 2 ^ 20 ≤ s.cycle →
      ∃ t', exec (.coopTimeout cl id) s = .next t' ∧ TokenEnds s t' k (ms k) (getMn s k).opFlags 0 0x1D0 (getMn s k).opBytes 16 (getEng s k 12).pts)

/-- R247 to R252: the operations on whole rows and columns. MSM.FIN divides each element by its row's sum and leaves RMX and RSM as new;
MEPI puts each element through the epilogue; MSCAN runs h ← a·h + b down each column, in chunks of eight rows; MSM.QK makes each row's
weights from its scores, and rescales the running row of the other bank; MSM.PV adds weights times V. COUNT is the number of rows. No
operation of these writes memory, and none changes an element outside its region. Each works its cycles, from when its operands are there. -/
def Obligations.SoftmaxScanAndEpilogue : Prop :=
  ∀ (s : State) (core : Nat) (m : Cmd) (t : MnTok),
    let s0 := entered s core m
    let n := getMn s0 core
    let a := n.operand t.mda
    let b := n.operand t.mdb
    let M := t.m.toNat
    let N := t.n.toNat
    let K := t.k.toNat
    let bk := t.bank.val
    let quiet (n' : Node) : Prop := n'.md = n.md ∧ n'.mc = n.mc ∧ n'.gen = n.gen
    let ends (t' v : State) : Prop := (∃ fl, TokenEnds s t' core m fl M 0 n.opBytes 16 (getEng v core 12).pts) ∧ quiet (getMn t' core)
    MatrixSafe s → Commanded s core 12 m → Within (n.mode bk) 0 0 M N →
    (n.mode bk = 0 → TurnsPart (.msmFin t) s s0 core (bankCycles M N) fun t' => ends t' s0 ∧
      BankSet n (getMn t' core) bk 0 0 M N (fun i j => bits32 (round32 (Sys2Proof.Num.div (n.val bk i j) (n.rsmVal i)) {}).1) ∧
      ∀ i, (getMn t' core).rmxVal i = (if i < M then Sys2Proof.Num.decode .fp32 0xff800000 else n.rmxVal i) ∧
        (getMn t' core).rsmVal i = (if i < M then Sys2Proof.Num.decode .fp32 0 else n.rsmVal i)) ∧
    (epiFault n bk (epiOf t) = false → TurnsPart (.mepi t) s s0 core (bankCycles M N) fun t' => ends t' s0 ∧
      BankSet n (getMn t' core) bk 0 0 M N (fun i j => if epiOf t = 0 then n.cell bk i j
        else bits32 (epilogue n (epiOf t) (n.val bk i j) (n.val (1 - bk) i j) {}).1)) ∧
    (n.mode bk = 0 → a.fmt = b.fmt → (a.fmt = .fp .fp32 ∨ a.fmt = .fp .bf16) → a.lay < 2 → b.lay < 2 → M % 8 = 0 →
        (a.sp = 2 → a.bankNo ≠ bk ∧ a.badBank n M N = false) → (b.sp = 2 → b.bankNo ≠ bk ∧ b.badBank n M N = false) →
      TurnsWhole (.mscan t) s s0 core (a.gridNeeds 0 N 0 M ++ b.gridNeeds 0 N 0 M)
        (fetchPair (fetchGrid (fun s r c => fetchElem s core a c r) 0 M N 0) (fetchGrid (fun s r c => fetchElem s core b c r) 0 M N 0))
        (bankCycles M N) fun v x t' => ends t' v ∧ BankSet n (getMn t' core) bk 0 0 M N (fun i j =>
          let h := if t.acc then n.val bk (t.opf.toNat % 128) j else posZero
          bits32 ((scanColumn (M / 8) (List.zip (x.1.getD j []) (x.2.1.getD j [])) h {}).1.getD i posZero))) ∧
    (n.mode 0 = 0 → n.mode 1 = 0 → DenseFits n a b bk M N K → t.opf.toNat % 256 ≤ 160 → (a.sp = 2 ∨ b.sp = 2 → t.opf.toNat % 256 = 0) →
      TurnsWhole (.msmQk t) s s0 core (a.gridNeeds 0 K 0 M ++ b.gridNeeds 0 N 0 K)
        (fetchPair (fetchGrid (fun s r c => fetchElem s core a r c) 0 K M 0) (fetchGrid (fun s r c => fetchElem s core b c r) 0 K N 0))
        (productCycles a.fmt (M * N * K)) fun v x t' => ends t' v ∧
        let on := t.opf.toNat % 256
        let masked (i j : Nat) : Prop := t.opf.getLsbD 15 = true ∧ (j : Int) - i > Sys2Proof.Num.toSigned (t.opf.toNat / 2 ^ 16) 16
        ∀ (i : Nat) (scores : List Sys2Proof.Num.Val), i < M → scores.length = N →
          (∀ j, j < N → (masked i j → scores.getD j posZero = negInf) ∧ (¬masked i j → scores.getD j posZero =
            (mul32 (val32 (t.opf.toNat / 2 ^ 32)) (chainDot (decide (a.fmt = .fp .fp32)) posZero (x.1.getD i []) (x.2.1.getD j []) {}).1 {}).1)) →
          let r := (softmaxRow n bk on i scores {}).1
          (getMn t' core).rmxVal i = r.rmxVal i ∧ (getMn t' core).rsmVal i = r.rsmVal i ∧
          (∀ j, j < 160 → (getMn t' core).cell bk i j = r.cell bk i j ∧ (getMn t' core).cell (1 - bk) i j = r.cell (1 - bk) i j)) ∧
    (n.mode 0 = 0 → n.mode 1 = 0 → (b.fmt = .fp .bf16 ∨ b.fmt = .fp .fp16 ∨ b.fmt = .fp .fp32) → b.lay < 2 →
        (b.sp = 2 → b.bankNo ≠ bk ∧ b.badBank n K N = false) → 0 < K →
      TurnsProduct (.msmPv t) s s0 core m
        { bank := bk, m := M, n := N, k := K, acc := t.acc, mode := 0, split := b.fmt = .fp .fp32, fmt := b.fmt, place := fun i j => (i, j),
          getA := fun s r c =>
            let p := (getMn s core).val (1 - bk) r c
            match b.fmt with
            | .fp .fp32 => (s, .ok (p, 0))
            | .fp f => (s, .ok (Sys2Proof.Num.decode f (Sys2Proof.Num.encode f .rne p 0).1, (Sys2Proof.Num.encode f .rne p 0).2))
            | _ => (s, .ok (p, 0)),
          getB := fun s r c => fetchElem s core b r c, needs := fun blk => b.gridNeeds 0 N (32 * blk) (min 32 (K - 32 * blk)),
          count := fun blocks => if 32 * blocks ≥ K then M else 0 } 0 0 false)

/-- R254: a store of w sets out: it is one posted request of the matrix node, of w's bytes at its address, with the exponents of a DX
block beside it. -/
def StoreSent (s t : State) (core : Nat) (w : MnWrite) : Prop :=
  ∃ r p, tfind t.reqs s.nextReq = some r ∧ r.core = core ∧ r.unit = engUnit 12 ∧ r.posted = true ∧ r.op = .store ∧ r.parts = [p] ∧
    p.va = w.va % 2 ^ 64 ∧ p.n = w.bytes.length ∧ p.data = .ofNat 128 (leNat w.bytes) ∧ (16 < w.bytes.length → p.bulk = w.bytes) ∧
    p.side = (match w.side with | some x => x.2 | none => [])

/-- A turn of a store (R254, R255, R259): after its last row, once every store is acknowledged, the token ends a cycle later; before, the
first of the writes that are left, with those that lie beside it in its line, sets out, and the position moves past them, or past the
row, with the generator and the flags as its conversions leave them; a fault stops the node at that element. -/
def TurnsStore (i : Instr) (s s0 : State) (core : Nat) (m : Cmd) (sp rows step bytes : Nat) (w : List MnWrite × Sys2Proof.Num.Env) : Prop :=
  let n := getMn s0 core
  (rows ≤ n.next → engBusy s core 12 = true → exec i s = .next s0 ∧ GoesOn s0 s0 core) ∧
  (rows ≤ n.next → engBusy s core 12 = false → ∃ t', exec i s = .next t' ∧ t'.mem = s.mem ∧
    TokenEnds s t' core m n.opFlags n.next 0 n.opBytes 1 (getEng s0 core 12).pts ∧ BanksKept n (getMn t' core) ∧ RegsKept n (getMn t' core)) ∧
  (n.next < rows → ∀ v k s1, firstStore (w.1.drop n.col) = some (v, k) → mnStore s0 core sp v = (s1, none) →
    ∃ t', exec i s = .next t' ∧ GoesOn s0 t' core ∧ StoreSent s t' core v ∧
      if n.col + k < w.1.length then (getMn t' core).col = n.col + k ∧ (getMn t' core).next = n.next ∧ RegsKept n (getMn t' core)
      else (getMn t' core).col = 0 ∧ (getMn t' core).next = n.next + step ∧ (getMn t' core).gen = w.2.sr ∧
        (getMn t' core).opFlags = n.opFlags ||| w.2.flags ∧ (getMn t' core).opBytes = n.opBytes + bytes) ∧
  (n.next < rows → ∀ v s1 f, firstStore (w.1.drop n.col) = some (v, 1) → mnStore s0 core sp v = (s1, some f) → Stops i s s0 core f)

/-- R253 to R256, R258: MLD converts each element into the bank's mode, or adds it there; MST stores the rows one after another, each
element through the epilogue and the conversion, and MST.C at the core's place in the whole; MST.Z stores a group of eight rows as its
bitmap and its nonzero pieces, or ends with 0x1C3 where it would pass the limit; MCOPY copies a region from the other bank; MZERO clears
a bank and sets its mode; MDSET, MCSET and MSTS set a descriptor, a scalar or the generator, and write the status block; MSIG completes. -/
def Obligations.LoadsStoresAndBankOperations : Prop :=
  ∀ (s s1 : State) (core : Nat) (m : Cmd) (t : MnTok) (w1 w2 : Quad),
    let s0 := entered s core m
    let n := getMn s0 core
    let a := n.operand t.mda
    let x := n.operand t.mdc
    let M := t.m.toNat
    let N := t.n.toNat
    let bk := t.bank.val
    let mode := n.mode bk
    let banks (n' : Node) : Prop := BanksKept n n'
    let at_once (i : Instr) (k : Nat) (f : Node → Prop) : Prop := ∃ t', exec i s = .next t' ∧
      TokenEnds s t' core m n.opFlags 0 0 n.opBytes k (getEng s0 core 12).pts ∧ t'.mem = s.mem ∧ f (getMn t' core)
    let stores (whole : Nat) : Prop := storeAllowed mode x.fmt = true ∧ epiFault n bk (epiOf t) = false ∧ x.sp ≠ 2 ∧ x.lay < 2 ∧
      (blockFmt x.fmt = true → x.lay = 0 ∧ whole % 32 = 0) ∧ (mode = 1 → sCol t + whole ≤ 80) ∧
      runLength x.fmt (if x.lay = 1 then M else N) ≤ x.pitch
    let row (i whole : Nat) : List Sys2Proof.Num.Val × Sys2Proof.Num.Env := epiRow n t i whole { sr := n.gen }
    let writes (r0 c0 whole : Nat) : List MnWrite × Sys2Proof.Num.Env :=
      rowWrites x mode (storeRm t) r0 c0 n.next (row n.next whole).1 (row n.next whole).2
    MatrixSafe s → Commanded s core 12 m →
    (loadMode a.fmt = some mode → a.lay < 2 → (a.sp = 2 → a.bankNo ≠ bk ∧ a.badBank n M N = false) → Within mode (dRow t) (dCol t) M N →
      TurnsWhole (.mld t) s s0 core (a.gridNeeds 0 N 0 M) (fetchGrid (fun s r c => fetchElem s core a r c) 0 N M 0) (bankCycles M N) fun v y t' =>
        (∃ g, TokenEnds s t' core m g M 0 n.opBytes 16 (getEng v core 12).pts) ∧ RegsKept n (getMn t' core) ∧
        BankSet n (getMn t' core) bk (dRow t) (dCol t) M N fun i j =>
          (putMode mode t.acc (n.cell bk (dRow t + i) (dCol t + j)) ((y.1.getD i []).getD j posZero) {}).1) ∧
    (stores N → dxStray s0 core x M N 0 0 = false → TurnsStore (.mst t) s s0 core m x.sp M 1 0 (writes 0 0 N)) ∧
    (let r0 := core % 16 / 4 * (M / 4)
     let c0 := core % 16 % 4 * (N / 4)
     stores (N / 4) → dxStray s0 core x (M / 4) (N / 4) r0 c0 = false → TurnsStore (.mstC t) s s0 core m x.sp (M / 4) 1 0 (writes r0 c0 (N / 4))) ∧
    (∀ r0 c0 whole j, j < whole → blockFmt x.fmt = false → storeRm t ≠ .sr → epiOf t = 0 →
      (writes r0 c0 whole).1[j]? = some
        { va := x.base + (if x.lay = 1 then c0 + j else r0 + n.next) * x.pitch + (if x.lay = 1 then r0 + n.next else c0 + j) * x.eb,
          bytes := leBytes x.eb (storeElem mode x.fmt (storeRm t) (n.val bk (sRow t + n.next) (sCol t + j)) {}).1 }) ∧
    (M % 8 = 0 → storeAllowed mode x.fmt = true →
        (x.fmt = .fp .fp32 ∨ x.fmt = .fp .bf16 ∨ x.fmt = .fp .fp16 ∨ x.fmt = .fp .e5m2 ∨ x.fmt = .fp .e4m3) →
        epiFault n bk (epiOf t) = false → (mode = 1 → sCol t + N ≤ 80) → x.sp ≠ 2 → x.lay = 0 → x.pitch = 0 → x.base % 32 = 0 → N * x.eb % 32 = 0 →
      let g := groupSegments n t x.fmt N 8 n.next { sr := n.gen }
      let img := groupImage g.1
      let limit := t.opf.toNat / 2 ^ 40 % 2 ^ 24 * 32
      (limit < n.opBytes + img.length → n.next < M → engBusy s core 12 = false → ∃ t', exec (.mstZ t) s = .next t' ∧ t'.mem = s.mem ∧
        TokenEnds s t' core m n.opFlags n.next 0x1C3 n.opBytes 1 (getEng s0 core 12).pts ∧ banks (getMn t' core)) ∧
      (n.opBytes + img.length ≤ limit ∨ M ≤ n.next → TurnsStore (.mstZ t) s s0 core m x.sp M 8 img.length
        ((numbered (segments (img.length / 32) img)).map (fun p => { va := x.base + n.opBytes + 32 * p.1, bytes := p.2 }), g.2))) ∧
    (let sr := dRow t
     let sc := dCol t
     let dr := t.opf.toNat / 2 ^ 16 % 128
     let dc := t.opf.toNat / 2 ^ 24 % 256
     n.mode 0 = n.mode 1 → Within mode sr sc M N → Within mode dr dc M N → TurnsPart (.mcopy t) s s0 core (bankCycles M N) fun t' =>
      (∃ g, TokenEnds s t' core m g M 0 n.opBytes 16 (getEng s0 core 12).pts) ∧ RegsKept n (getMn t' core) ∧
      BankSet n (getMn t' core) bk dr dc M N fun i j =>
        if t.acc then (putMode mode true (n.cell bk (dr + i) (dc + j)) (n.val (1 - bk) (sr + i) (sc + j)) {}).1
        else n.cell (1 - bk) (sr + i) (sc + j)) ∧
    at_once (.mzero t) 16 (fun n' => (∀ i j, n'.cell bk i j = 0) ∧ n'.mode bk = t.opf.toNat % 4 ∧ n'.mode (1 - bk) = n.mode (1 - bk) ∧
      (∀ i j, n'.cell (1 - bk) i j = n.cell (1 - bk) i j) ∧ n'.md = n.md ∧ n'.mc = n.mc ∧
      (if t.opf.getLsbD 2 then ∀ i, n'.rmxVal i = Sys2Proof.Num.decode .fp32 0xff800000 ∧ n'.rsmVal i = Sys2Proof.Num.decode .fp32 0 else n'.rmx = n.rmx ∧ n'.rsm = n.rsm)) ∧
    at_once (.mdset t w1 w2) 16 (fun n' => banks n' ∧ n'.mc = n.mc ∧ n'.gen = n.gen ∧
      ∀ k, tget 0 n'.md k = if k = t.opf.toNat % 16 then descOf w1 w2 else tget 0 n.md k) ∧
    (let v : Word := .ofNat 32 (t.opf.toNat / 2 ^ 32)
     at_once (.mcset t) 16 fun n' => banks n' ∧ n'.md = n.md ∧
      (t.opf.getLsbD 4 = true → n'.gen = (if v = 0 then 1 else v) ∧ n'.mc = n.mc) ∧
      (t.opf.getLsbD 4 = false → n'.gen = n.gen ∧ ∀ k, tget 0 n'.mc k = if k = t.opf.toNat % 16 then v else tget 0 n.mc k)) ∧
    at_once (.msig t) 1 (fun n' => banks n' ∧ RegsKept n n') ∧
    (x.sp < 2 → x.base % 64 = 0 →
      (n.next = 0 → mnStore s0 core x.sp { va := x.base, bytes := statusBlock n } = (s1, none) →
        ∃ t', exec (.msts t) s = .next t' ∧ GoesOn s0 t' core ∧ StoreSent s t' core { va := x.base, bytes := statusBlock n } ∧
          (getMn t' core).next = 1 ∧ (getMn t' core).flg = (if t.opf.getLsbD 0 then 0 else n.flg) ∧ RegsKept n (getMn t' core)) ∧
      (n.next ≠ 0 → engBusy s core 12 = false → at_once (.msts t) 1 fun n' => banks n' ∧ RegsKept n n'))

/-- R263 to R270, R274, R275: the operations on a resident tile. MFEED multiplies the bank's rows, copied first, by B into the bank;
MPOLY runs Horner's rule from c_D·I, each step the product by X plus the next coefficient on the diagonal; MRES leaves the residual in
ITRES, of the difference of the two banks, or of X·Xᵀ − I, which it leaves in GRM. ITSTAT says which form was begun last; ACT rises
with it and falls at its end. -/
def Obligations.ResidentTileOperations : Prop :=
  ∀ (s : State) (core : Nat) (m : Cmd) (t : MnTok),
    let s0 := entered s core m
    let n := getMn s0 core
    let b := n.operand t.mdb
    let M := t.m.toNat
    let N := t.n.toNat
    let K := t.k.toNat
    let bk := t.bank.val
    let mode := n.mode bk
    let o := t.opf.toNat
    let start := if n.next = 0 then 8 else 0
    let pos (prec : Bool) (v : Sys2Proof.Num.Val) : Sys2Proof.Num.Val := if prec then (Sys2Proof.Num.roundVal .bf16 v {}).1 else v
    let begins (n' : Node) (form : Nat) : Prop := n'.stat 31 24 = form ∧ n'.stat 8 8 = 1 ∧ n'.next = 1
    let ended (t' v : State) (count : Nat) : Prop := (∃ fl, TokenEnds s t' core m fl count 0 n.opBytes 8 (getEng v core 12).pts) ∧
      (getMn t' core).stat 31 24 = (getMn v core).stat 31 24 ∧ (getMn t' core).stat 8 8 = 0 ∧ RegsKept n (getMn t' core)
    MatrixSafe s → Commanded s core 12 m →
    (feedMode b.fmt = some mode → (mode = 1 → K ≤ 80) → K ≤ 160 → M ≤ 96 → Within mode 0 0 M N → b.lay < 2 →
        (b.sp = 2 → b.bankNo ≠ bk ∧ b.badBank n K N = false) →
      let s1 := if n.next ≠ 0 then s0 else setMn s0 core ((n.latch bk M (K * cellBytes mode)).begin 0x14)
      let held (i k : Nat) : Sys2Proof.Num.Val :=
        modeVal mode (leNat (Memory.readN (getMn s1 core).fbuf (640 * i + cellBytes mode * k) (cellBytes mode)))
      (n.next = 0 → begins (getMn s1 core) 0x14 ∧ ∀ i k, i < M → k < K → held i k = n.val bk i k) ∧
      TurnsWhole (.mfeed t) s s1 core (b.gridNeeds 0 N 0 K) (fetchGrid (transposed fun s r c => fetchElem s core b r c) 0 K N 0)
        (start + 16 + productCycles b.fmt (M * N * K)) fun v y t' => ended t' v M ∧ BankSet n (getMn t' core) bk 0 0 M N fun i j =>
          (List.zip (pieces32 ((List.range K).map fun k => pos (decide (b.fmt = .fp .bf16)) (held i k))) (pieces32 (y.1.getD j []))).foldl
            (fun y p => (productStep mode (decide (b.fmt = .fp .fp32)) y p.1 p.2 {}).1) (if t.acc then n.cell bk i j else 0)) ∧
    (mode = 0 → M ≤ 96 →
      let cb := o % 16
      let d := o / 2 ^ 4 % 16
      let prec := t.opf.getLsbD 8
      let diag (k : Nat) (i j : Nat) : Sys2Proof.Num.Val := if i = j then n.mcVal (cb + k) else posZero
      0 < d → n.next ≤ d + 1 →
      (n.next = 0 → n.part = false → ∃ t', exec (.mpoly t) s = .next t' ∧ begins (getMn t' core) 0x10 ∧ (getMn t' core).stat 23 16 = 0 ∧ t'.mem = s.mem ∧
        ((getCore t' core).queue 12).q = ((getCore s core).queue 12).q ∧ (∀ i j, i < M → j < M → (getMn t' core).feed i j = n.val bk i j) ∧
        BankSet n (getMn t' core) bk 0 0 M M (fun i j => bits32 (diag d i j)) ∧ (getMn t' core).part = true ∧
        (getMn t' core).busy = s.cycle + 16) ∧
      (n.next = 1 → PartOver s0 core → ∃ t' more, exec (.mpoly t) s = .next t' ∧ GoesOn s0 t' core ∧ (getMn t' core).next = 2 ∧
        (getMn t' core).part = false ∧ t'.agenda = .engine core 12 :: more) ∧
      (2 ≤ n.next →
        let st := n.next - 1
        TurnsPart (.mpoly t) s s0 core (precCycles prec (M ^ 3) + 8) fun t' => (getMn t' core).stat 23 16 = st ∧ RegsKept n (getMn t' core) ∧
          BankSet n (getMn t' core) bk 0 0 M M (fun i j =>
            bits32 (chainDot (!prec) (diag (d - st) i j) ((List.range M).map fun l => pos prec (n.val bk i l))
              ((List.range M).map fun l => pos prec (n.feed l j)) {}).1) ∧
          if st < d then ((getCore t' core).queue 12).q = ((getCore s core).queue 12).q ∧ (getMn t' core).next = st + 2 ∧
            (getMn t' core).count = st ∧ (∃ more, t'.agenda = .engine core 12 :: more)
          else ended t' s0 d)) ∧
    (mode = 0 → Within 0 0 0 M N →
      let frob := t.opf.getLsbD 1
      let prec := t.opf.getLsbD 2
      let x (i j : Nat) : Sys2Proof.Num.Val := n.val bk i j
      let g (i k : Nat) : Sys2Proof.Num.Val := (chainDot (!prec) posZero ((List.range N).map fun j => pos prec (x i j))
        ((List.range N).map fun j => pos prec (x k j)) {}).1
      let less (u v : Sys2Proof.Num.Val) : Sys2Proof.Num.Val := (add32 u v.negate {}).1
      let s1 := if n.next ≠ 0 then s0 else setMn s0 core (n.begin 0x13)
      (n.next = 0 → begins (getMn s1 core) 0x13) ∧
      (t.opf.getLsbD 0 = true → n.mode (1 - bk) = 0 → TurnsPart (.mres t) s s1 core (start + (bankCycles M N + 8)) fun t' =>
        ended t' s1 0 ∧ BanksKept n (getMn t' core) ∧ (getMn t' core).grm = n.grm ∧
        (getMn t' core).itres = .ofNat 32 (bits32 (residual frob
          ((List.range M).flatMap fun i => (List.range N).map fun j => less (x i j) (n.val (1 - bk) i j)) {}).1)) ∧
      (t.opf.getLsbD 0 = false → TurnsPart (.mres t) s s1 core (start + (precCycles prec (M * M * N) + 8)) fun t' =>
        ended t' s1 0 ∧ BanksKept n (getMn t' core) ∧
        (∀ i k, i < M → k < M → (getMn t' core).gram i k = val32 (bits32 (g i k) % 2 ^ 32)) ∧
        (getMn t' core).itres = .ofNat 32 (bits32 (residual frob
          ((List.range M).flatMap fun i => (List.range M).map fun k => less (g i k) (unitVal i k)) {}).1)))

/-- R259, R265, R270 to R275: an iteration tests its residual and goes on. MITER.NS forms the residual of X·Xᵀ − I in one part and its
update in the next: it ends where the residual is within TOL with X as it is, ends with 0x192 where the count has reached its cap, and
else makes X ← aX + b(XXᵀ)X; MITER.GEN makes its update first, X ← aX + b(X·B) + cC. A residual that is no number is a divergence, 0x190,
and so are DIVW growths in a row, 0x191; a divergence ends the token, or under DTRAP stops the node. RESUME lets a stopped node go on
from where it stood, with GROW 0 after growth; ABORT ends its token with its cause. -/
def Obligations.IterationsConvergeStopAndResume : Prop :=
  ∀ (s : State) (core : Nat) (m : Cmd) (t : MnTok),
    let e := entered s core m
    let n := getMn e core
    let b := n.operand t.mdb
    let c := n.operand t.mdc
    let M := t.m.toNat
    let N := t.n.toNat
    let bk := t.bank.val
    let x := iterTok t
    let o := t.opf.toNat
    let start := if n.next = 0 then 8 else 0
    let pos (v : Sys2Proof.Num.Val) : Sys2Proof.Num.Val := if x.prec then (Sys2Proof.Num.roundVal .bf16 v {}).1 else v
    let f (i j : Nat) : Sys2Proof.Num.Val := n.val bk i j
    let co (k : Nat) : Sys2Proof.Num.Val := n.mcVal (o / 2 ^ 12 % 16 + k)
    let dot (us vs : List Sys2Proof.Num.Val) : Sys2Proof.Num.Val := (chainDot (!x.prec) posZero (us.map pos) (vs.map pos) {}).1
    let entry (form : Nat) : State := if n.next ≠ 0 then e else setMn e core (iterBegin n t form)
    let ended (t' v : State) (count cause fin : Nat) : Prop :=
      (∃ fl, TokenEnds s t' core m fl count cause n.opBytes 8 (getEng v core 12).pts) ∧ t'.mem = s.mem ∧ (getMn t' core).stat 8 8 = 0 ∧
        (getMn t' core).stat 5 4 = fin
    let stays (t' : State) : Prop := ((getCore t' core).queue 12).q = ((getCore s core).queue 12).q ∧ t'.mem = s.mem ∧ (getMn t' core).active = true
    let diverges (t' v : State) (count cause : Nat) : Prop :=
      if x.dtrap then stays t' ∧ (getMn t' core).stopped = 2 ∧ (getMn t' core).cause = cause else ended t' v count cause 2
    let goesOn (t' : State) : Prop := stays t' ∧ ∃ more, t'.agenda = .engine core 12 :: more
    -- GROW after a residual that follows another, and whether it diverges
    let growth (k : Node) (last r : Sys2Proof.Num.Val) : Nat := if Sys2Proof.Num.lt last r then min 7 (k.stat 11 9 + 1) else 0
    let grows (k : Node) (last r : Sys2Proof.Num.Val) : Prop := x.divw ≠ 0 ∧ x.divw ≤ growth k last r
    let noNumber (r : Sys2Proof.Num.Val) : Prop := r.isNaN = true ∨ r = .inf false
    let cap (t' v : State) (k : Node) (count cnt : Nat) : Prop := if cnt = k.itcap then ended t' v count 0x192 1 else goesOn t'
    (MatrixSafe s → Commanded s core 12 m → n.mode bk = 0 → Within 0 0 0 M N → M ≤ 96 →
      let s1 := entry 0x11
      let k := getMn s1 core
      let g (i k : Nat) : Sys2Proof.Num.Val := dot ((List.range N).map (f i)) ((List.range N).map (f k))
      let r := (residual x.frob ((List.range M).flatMap fun i => (List.range M).map fun k => (add32 (g i k) (unitVal i k).negate {}).1) {}).1
      let part := precCycles x.prec (M * M * N) + 8
      (n.next = 0 → k.stat 31 24 = 0x11 ∧ k.stat 8 8 = 1 ∧ k.stat 1 0 = 0 ∧ k.itcap = x.cap ∧ (x.cont = false → k.itcnt = 0 ∧ k.itres = 0x7f800000)) ∧
      (k.tolerance = true → ∃ t', exec (.miterNs t) s = .next t' ∧ BanksKept n (getMn t' core) ∧ RegsKept n (getMn t' core) ∧
        if withinTol (val32 k.itres.toNat) x.tol then ended t' s1 k.count 0 0 else cap t' s1 k k.count k.itcnt.toNat) ∧
      (k.tolerance = false → k.stat 1 0 = 0 → TurnsPart (.miterNs t) s s1 core (start + 8 + part) fun t' =>
        BanksKept n (getMn t' core) ∧ RegsKept n (getMn t' core) ∧ (getMn t' core).itcnt = k.itcnt ∧
        (getMn t' core).itres = .ofNat 32 (bits32 r) ∧ (getMn t' core).itprv = k.itres ∧
        (∀ i j, i < M → j < N → (getMn t' core).feed i j = f i j) ∧ (∀ i j, i < M → j < M → (getMn t' core).gram i j = val32 (bits32 (g i j) % 2 ^ 32)) ∧
        (noNumber r → diverges t' s1 k.count 0x190) ∧
        (¬noNumber r → grows k (val32 k.itres.toNat) r → diverges t' s1 k.count 0x191) ∧
        (¬noNumber r → ¬grows k (val32 k.itres.toNat) r → (getMn t' core).stat 11 9 = growth k (val32 k.itres.toNat) r ∧
          if withinTol (val32 (bits32 r % 2 ^ 32)) x.tol then ended t' s1 k.count 0 0
          else cap t' s1 k k.count k.itcnt.toNat ∧ (getMn t' core).stat 1 0 = 1)) ∧
      (k.tolerance = false → k.stat 1 0 ≠ 0 → TurnsPart (.miterNs t) s s1 core part fun t' =>
        goesOn t' ∧ RegsKept n (getMn t' core) ∧ (getMn t' core).itcnt = k.itcnt + 1 ∧ (getMn t' core).count = k.count + 1 ∧
        (getMn t' core).stat 1 0 = 0 ∧ BankSet n (getMn t' core) bk 0 0 M N fun i j =>
          bits32 (sumTerms [(co 0, k.feed i j), (co 1, dot ((List.range M).map (k.gram i)) ((List.range M).map fun l => k.feed l j))] {}).1)) ∧
    (MatrixSafe s → Commanded s core 12 m → n.mode bk = 0 → Within 0 0 0 M N →
        (b.fmt = .fp .fp32 ∨ b.fmt = .fp .bf16) → (c.fmt = .fp .fp32 ∨ c.fmt = .fp .bf16) → b.lay < 2 → c.lay < 2 →
        (b.sp = 2 → b.bankNo ≠ bk ∧ b.badBank n N N = false) → (c.sp = 2 → c.bankNo ≠ bk ∧ c.badBank n M N = false) →
      let s1 := entry 0x12
      let k := getMn s1 core
      (k.tolerance = true → ∃ t', exec (.miterGen t) s = .next t' ∧ BanksKept n (getMn t' core) ∧
        if withinTol (val32 k.itres.toNat) x.tol then ended t' s1 k.count 0 0 else cap t' s1 k k.count k.itcnt.toNat) ∧
      (k.tolerance = false → TurnsWhole (.miterGen t) s s1 core (b.gridNeeds 0 N 0 N ++ c.gridNeeds 0 N 0 M)
        (fetchPair (fetchGrid (transposed fun s r c => fetchElem s core b r c) 0 N N 0) (fetchGrid (fun s r k => fetchElem s core c r k) 0 N M 0))
        (start + precCycles x.prec (M * N * N) + 16) fun v z t' =>
        let y (i j : Nat) : Sys2Proof.Num.Val :=
          (sumTerms [(co 0, f i j), (co 1, dot ((List.range N).map (f i)) (z.1.getD j [])), (co 2, (z.2.1.getD i []).getD j posZero)] {}).1
        let d := (residual x.frob ((List.range M).flatMap fun i => (List.range N).map fun j => (add32 (y i j) (f i j).negate {}).1) {}).1
        let made : Prop := BankSet n (getMn t' core) bk 0 0 M N (fun i j => bits32 (y i j)) ∧ (getMn t' core).itcnt = k.itcnt + 1 ∧
          (getMn t' core).itres = .ofNat 32 (bits32 d) ∧ (getMn t' core).itprv = k.itres
        RegsKept n (getMn t' core) ∧
        (noNumber d → diverges t' v k.count 0x190 ∧ BanksKept n (getMn t' core)) ∧
        (¬noNumber d → withinTol d x.tol = true → made ∧ ended t' v (k.count + 1) 0 0) ∧
        (¬noNumber d → withinTol d x.tol = false → grows k (val32 k.itres.toNat) d → made ∧ diverges t' v (k.count + 1) 0x191) ∧
        (¬noNumber d → withinTol d x.tol = false → ¬grows k (val32 k.itres.toNat) d → made ∧ cap t' v k (k.count + 1) (k.itcnt + 1).toNat))) ∧
    (let n := getMn s core
     (n.stopped = 1 → ∃ t', exec (.mnResume core) s = .next t' ∧ getMn t' core = { n with stopped := 0, cause := 0, addr := 0 } ∧
       t'.mem = s.mem ∧ getCore t' core = { getCore s core with mn := getMn t' core }) ∧
     (n.stopped = 2 → n.cause = 0x191 → ∃ t', exec (.mnResume core) s = .next t' ∧ (getMn t' core).stopped = 0 ∧
       (getMn t' core).tolerance = true ∧ (getMn t' core).stat 11 9 = 0 ∧ BanksKept n (getMn t' core) ∧ t'.mem = s.mem ∧
       ((getCore t' core).queue 12).q = ((getCore s core).queue 12).q) ∧
     (headCmd s core 12 = some m → n.stopped = 2 → n.cause ≠ 0x191 → iterToken m = true → ∃ t', exec (.mnResume core) s = .next t' ∧
       TokenEnds s t' core m n.opFlags n.count n.cause n.opBytes 8 (getEng s core 12).pts ∧ (getMn t' core).stat 5 4 = 2 ∧ BanksKept n (getMn t' core)) ∧
     (headCmd s core 12 = some m → n.stopped = 1 ∨ n.stopped = 2 → ∃ t', exec (.mnAbort core) s = .next t' ∧
       TokenEnds s t' core m n.opFlags n.count n.cause n.opBytes 8 (getEng s core 12).pts ∧ BanksKept n (getMn t' core) ∧ t'.mem = s.mem ∧
       (iterToken m = true → (getMn t' core).stat 5 4 = 3)) ∧
     (headCmd s core 12 = some m → n.stopped = 3 → ∃ t', (exec (.mnResume core) s = .next t' ∧ exec (.mnAbort core) s = .next t') ∧
       ((getCore t' core).queue 12).q = ((getCore s core).queue 12).q.tail ∧ (getMn t' core).stopped = 0 ∧
       tget [] (getCore t' core).comps 12 = tget [] (getCore s core).comps 12))

/-! ## Memory ports, barriers of other cores, the host and the peers -/

/-- R405, R407, R410: WSET clears the entry and installs the new one marked where R405 allows it, or leaves it clear with the cause, also
of one that is not valid; WCLR clears it, its dirty range going to the log; both wait for the writes that the entry translated. RELEASE
lets a repair entry's access go on, after its radix walk where it needs one; a second fault returns it; INVAL drops the partition's cached translations that meet its range; PSTAT reads the counts of corrected errors and resets. -/
def Obligations.MemoryPortCommands : Prop :=
  ∀ (s : State) (core port : Nat) (m : Cmd) (win : Fin 16) (entry : Fin 32) (f : Bool) (w1 w2 : Quad) (vb : BitVec 56) (size : Dword),
    let k := port - 8
    let w := winOf w1 w2
    let p (t : State) : Port := (getCore t core).port k
    let gone := clearWin s core k win
    let wins (t : State) (v : Option Win) : Prop := tfind (p t).wins win = v ∧ ∀ j, j ≠ win.val → tfind (p t).wins j = tfind (p s).wins j
    let done (t : State) (cause : Nat) : Prop := Completes s t core port m 0 0 cause m.pts 1 ∧ UnitsKeep s t ∧ t.mem = s.mem
    let pt := getPart s (partOf s core)
    Commanded s core port m → 8 ≤ port → port ≤ 11 →
    (winBusy s core k win = false → tget none (p s).dirty win = none →
      (winRefusal gone core k w = none → ∃ t, exec (.wset win f w1 w2) s = .next t ∧ done t 0 ∧
        wins t (if w.valid then some { w with mark := true } else none)) ∧
      (∀ c, winRefusal gone core k w = some c → ∃ t, exec (.wset win f w1 w2) s = .next t ∧ done t c ∧ wins t none) ∧
      ((w.size = 0 ∨ w.size % 16 ≠ 0 ∨ w.vbase % 16 ≠ 0 ∨ w.pbase % 16 ≠ 0 ∨ 2 ^ 56 < w.vbase + w.size) →
        ∃ t, exec (.wset win f w1 w2) s = .next t ∧ done t 0x0A2 ∧ wins t none) ∧
      (∃ t, exec (.wclr win f) s = .next t ∧ done t 0 ∧ wins t none)) ∧
    (winBusy s core k win = true → exec (.wclr win f) s = .next gone ∧ exec (.wset win f w1 w2) s = .next gone ∧ wins gone none ∧
      ((getCore gone core).queue port).q = ((getCore s core).queue port).q) ∧
    (∀ lo hi, Safe s → winBusy s core k win = false → tget none (p s).dirty win = some (lo, hi) → pt.logTail - pt.logHead < 2 ^ pt.logK →
      ∃ t, exec (.wclr win f) s = .next t ∧ Completes s t core port m 0 0 0 m.pts 1 ∧ wins t none ∧ tget none (p t).dirty win = none ∧
        (getPart t (partOf s core)).logTail = pt.logTail + 1 ∧
        let a := pt.logBase + 32 * (pt.logTail % 2 ^ pt.logK)
        leNat (Memory.readN t.mem a 8) = lo % 2 ^ 64 ∧ leNat (Memory.readN t.mem (a + 8) 8) = hi % 2 ^ 64 ∧
        leNat (Memory.readN t.mem (a + 16) 4) = pt.lseq.toNat ∧ leNat (Memory.readN t.mem (a + 20) 2) = core % 2 ^ 16 ∧
        Memory.read t.mem (a + 22) = .ofNat 8 (k + 4 * win.val) ∧
        ∀ b, (b < a ∨ a + 32 ≤ b) → Memory.read t.mem b = Memory.read s.mem b) ∧
    (let x : Repair := tget {} (p s).repairs entry
     (x.state ≠ 1 → ∃ t, exec (.release entry f) s = .next t ∧ done t 0 ∧ p t = p s) ∧
     (∀ r, x.state = 1 → tfind s.reqs x.req = some r →
      (walkCycles s core x.va (MemOp.use r.op) ≠ 0 → ∃ t, exec (.release entry f) s = .next t ∧ done t 0 ∧
        tfind (p t).repairs entry = some { x with state := 2 } ∧ ∀ r' q, tfind t.reqs x.req = some r' → r'.part x.part = some q →
          q.phase = .translating (s.cycle + walkCycles s core x.va (MemOp.use r.op))) ∧
      (walkCycles s core x.va (MemOp.use r.op) = 0 → ∀ pl c, lookUp s core x.va x.n (MemOp.use r.op) = .fault pl c →
        ∃ t, exec (.release entry f) s = .next t ∧ done t 0 ∧ tfind (p t).repairs entry = some { x with state := 1, cause := c } ∧
          (getCore t core).trapq = raiseInto (getCore s core).trapq
            { kind := 2, src := port, cause := 0x093, addr := .ofNat 64 x.va, detail := .ofNat 128 (entry.val + k * 2 ^ 8), since := s.cycle }))) ∧
    (∃ t, exec (.inval f vb size) s = .next t ∧ done t 0 ∧
      (∀ j l, (getCore s j).part = some (partOf s core) →
        (l ∈ ((getCore t j).port 0).tlb ↔ l ∈ ((getCore s j).port 0).tlb ∧ l.meets vb.toNat size.toNat = false)) ∧
      (∀ j, (getCore s j).part ≠ some (partOf s core) → ((getCore t j).port 0).tlb = ((getCore s j).port 0).tlb)) ∧
    (∃ t, exec .pstat s = .next t ∧ Completes s t core port m (min pt.soft (2 ^ 32 - 1)) pt.resets 0 m.pts 1 ∧ UnitsKeep s t ∧ t.mem = s.mem)

/-- R168, R310, R318, R428, R430: an arrival at another core's barrier is counted there once the sender's updates are acknowledged, with
what their acknowledgements carried, and wakes what waits; at a barrier that expects none it raises 0x140 there. A wait at another core's barrier leaves its queue and answers
when the phase has passed. A host token goes into the next entry of the egress ring; a peer store goes out as one request, and PSIG
completes with what the peers have lost, once none is left. -/
def Obligations.BarrierHostAndPeerCommands : Prop :=
  ∀ (s : State) (k port : Nat) (m : Cmd) (core bar : Fin 2048) (count : BitVec 12) (ph : BitVec 16) (mod : BitVec 14) (sink : Fin 64)
    (tag : BitVec 3) (w : Quad) (inc : BitVec 16) (pa : BitVec 48) (data : List Quad),
    let b := (getCore s core).bar bar
    let b' (t : State) := (getCore t core).bar bar
    let done (t : State) (esp n cause : Nat) : Prop := Completes s t k port m esp n cause m.pts 1
    let part := partOf s k
    let pt := getPart s part
    let u := unitAt k m.unit
    let late := 2 ≤ (b.phase - ph).toNat ∧ (b.phase - ph).toNat ≤ 0x7FFF
    let out (t : State) (op : MemOp) (q : Req → Prop) : Prop := ∃ r, tfind t.reqs s.nextReq = some r ∧ r.op = op ∧ q r ∧
      (∀ i, i ≠ s.nextReq → tfind t.reqs i = tfind s.reqs i) ∧ t.mem = s.mem
    Commanded s k port m →
    (m.updates = [] →
      (b.arrived + count.toNat < b.expected → ∃ t, exec (.barRemoteArrive none core bar count) s = .next t ∧ done t 0 0 0 ∧
        (b' t).arrived = b.arrived + count.toNat ∧ (b' t).phase = b.phase ∧ (b' t).ts = (b.arrive count.toNat (tsMax m.pts (getCore s k).clock)).ts ∧
        t.mem = s.mem) ∧
      (b.arrived + count.toNat = b.expected → 0 < b.expected → ∃ t, exec (.barRemoteArrive none core bar count) s = .next t ∧ done t 0 0 0 ∧
        (b' t).arrived = 0 ∧ (b' t).phase = b.phase + 1 ∧ t.mem = s.mem) ∧
      (b.expected = 0 → ∃ t, exec (.barRemoteArrive none core bar count) s = .next t ∧ done t 0 0 0 ∧ b' t = b ∧
        (getCore t core).trapq = raiseInto (getCore s core).trapq
          { kind := 2, src := 19, cause := 0x140, detail := .ofNat 128 (bar.val + k * 2 ^ 16), since := s.cycle }) ∧
      (∃ t, exec (.barRemoteArrive (some mod) core bar count) s = .next t ∧
        ((getCore t k).queue port).q = ((getCore s k).queue port).q.tail ∧
        out t .store fun r => r.core = u.core ∧ r.unit = u.ix ∧ r.sink = .word m.creg ∧ r.pts = tsMax m.pts (getCore s k).clock)) ∧
    (m.updates ≠ [] → exec (.barRemoteArrive none core bar count) s = .next s) ∧
    (b.expected = 0 → ∃ t, exec (.barRemoteWait none core bar ph) s = .next t ∧ done t 0 0 0x140 ∧ t.mem = s.mem) ∧
    (0 < b.expected → phasePassed b.phase ph = true → ∃ t, exec (.barRemoteWait none core bar ph) s = .next t ∧
      ((getCore t k).queue port).q = ((getCore s k).queue port).q.tail ∧ t.mem = s.mem ∧ ∀ r, m.creg = some r →
        (Machine.getElem t u).dreg r = completionWord 0 (b.phase.toNat + (if late then 2 ^ 16 else 0)) 0 0) ∧
    (0 < b.expected → phasePassed b.phase ph = false → ∃ t v, exec (.barRemoteWait none core bar ph) s = .next t ∧
      ((getCore t k).queue port).q = ((getCore s k).queue port).q.tail ∧ tfind (getCore t core).waits s.stamps = some v ∧
      v.kind = .barFull bar ph (decide late) ∧ v.remote = some (u.core, u.ix, m.creg) ∧ t.mem = s.mem) ∧
    (∃ t, exec (.barRemoteWait (some mod) core bar ph) s = .next t ∧ ((getCore t k).queue port).q = ((getCore s k).queue port).q.tail ∧
      out t .load fun r => r.core = u.core ∧ r.unit = u.ix ∧ r.sink = .word m.creg) ∧
    (∀ base n, Safe s → pt.ring = some (base, n) → pt.ringSeq - pt.ringFreed < 2 ^ n → writesDone s k m.joined = true →
      ∃ t, exec (.egress sink tag w) s = .next t ∧ done t 0 0 0 ∧ UnitsKeep s t ∧ (getPart t part).ringSeq = pt.ringSeq + 1 ∧
        let a := base + 32 * (pt.ringSeq % 2 ^ n)
        leNat (Memory.readN t.mem a 16) = w.toNat ∧ Memory.read t.mem (a + 16) = .ofNat 8 tag.toNat ∧
        Memory.read t.mem (a + 17) = .ofNat 8 sink.val ∧ leNat (Memory.readN t.mem (a + 24) 8) = (pt.ringSeq + 1) % 2 ^ 64 ∧
        ∀ b, (b < a ∨ a + 32 ≤ b) → Memory.read t.mem b = Memory.read s.mem b) ∧
    ((pt.ringRoom = false ∨ writesDone s k m.joined = false) → exec (.egress sink tag w) s = .next s) ∧
    (data ≠ [] → ∃ t, exec (.pstore mod inc pa data) s = .next t ∧ done t 0 (16 * data.length) 0 ∧ UnitsKeep s t ∧ out t .store fun r =>
      r.core = k ∧ r.posted = true ∧ r.parts.length = data.length ∧ ∀ i q, r.parts[i]? = some q →
        q.home = .remote mod.toNat ∧ q.pa = pa.toNat + 16 * i ∧ q.n = 16 ∧ q.inc = inc.toNat ∧ some q.data = data[i]?) ∧
    ((∀ r ∈ s.reqs, r.2.core = k → r.2.unit ≠ peerUnit) → ∃ t, exec .psig s = .next t ∧
      done t 0 (getCore s k).peerLost (if (getCore s k).peerLost ≠ 0 then lostCause else 0) ∧ (getCore t k).peerLost = 0 ∧ UnitsKeep s t ∧ t.mem = s.mem) ∧
    ((∃ r ∈ s.reqs, r.2.core = k ∧ r.2.unit = peerUnit) → exec .psig s = .next s)

/-! ## The scheduler, the kerf and rewires -/

/-- R339, R342, R344 to R349, R352: a waiting launch is Ready when its timelines stand; the choice places the head candidate and counts its
partition as served; a placed launch is released with every element Running; a drained launch completes on its timeline; a period repays
a quarter of Q and sets the budget; a partition whose budget and credit are gone, and a launch whose BUDGET is, are suspended by kerf; a
window's end begins every count afresh. What a launch has waited for, and all that it did, is before what observes its completion (R346). -/
def Obligations.SchedulerMovesLaunches : Prop :=
  ∀ (s : State) (l part : Nat) (cores : List Nat) (s1 : State),
    let x := getLaunch s l
    let o := x.object
    let p := getPart s part
    let wait (i : Nat) : Nat := launchOff o + 0x200 + 16 * i
    let stands : Prop := ∀ i, i < rd o (launchOff o + 0xA) 1 →
      rd o (wait i + 8) 8 ≤ ((getCore s (getPart s x.part).lead).timeline (rd o (wait i) 1)).toNat
    let kerfed (t : State) (k : Nat) (status : Nat) : Prop :=
      (getLaunch t k).kerf = some { begun := s.cycle, status := status } ∧ (getLaunch t k).stage = .running ∧
      ∀ e ∈ t.edges, e.launch = k → sourceEdge e = true → (∀ c, e.src ≠ .eng c 16) → e.gated = true
    (x.stage = .waiting → stands → ∃ t, exec (.launchWaitsHold l) s = .next t ∧
      getLaunch t l = { x with stage := .ready, readySince := some s.cycle, ts := waitsTs s x } ∧ t.agenda = .event .launchChoose :: s.agenda ∧
      t = { s with launches := t.launches, agenda := t.agenda }) ∧
    (x.stage ≠ .waiting ∨ ¬stands → exec (.launchWaitsHold l) s = .next s) ∧
    ((∀ q, candidates s q = []) → exec .launchChoose s = .next s) ∧
    (serviceOrder s = [part] → 0 < p.rem → candidates s part = [l] → x.part = part → x.stage = .ready →
        (fitCores o (launchCores s part)).isSome = true → fitCores o (freeCores s part) = some cores → placeLaunch s l cores = .ok s1 →
        0 < (getPart s1 part).rem → exec .launchChoose s = .next { s1 with served := part }) ∧
    (x.stage = .ready → x.placed = true → x.ran = false → x.cores.Nodup → ∃ t, exec (.launchRelease l) s = .next t ∧
      getLaunch t l = { x with stage := .running, ran := true, readySince := none } ∧ t.mem = s.mem ∧
      (∀ k ∈ x.cores, ∀ i v, tfind (getCore s k).elems i = some v → (Machine.getElem t ⟨k, i⟩).run = 1 ∧
        (Machine.getElem t ⟨k, i⟩).d = v.d ∧ (Machine.getElem t ⟨k, i⟩).slots = v.slots)) ∧
    (let tl := rd o (launchOff o + 0xB) 1
     let lead := (getPart s x.part).lead
     x.stage = .draining → drained s x = true → (∀ k ∈ x.cores, (getCore s k).elems = []) → 0 < tl → (getCtl s lead).sleep = none →
        (∀ k ∈ x.cores, k ≠ lead) →
      ∃ t, exec (.launchComplete l) s = .next t ∧ (getLaunch t l).stage = .complete ∧
        ((getCore t lead).timeline tl).toNat = min (2 ^ 64 - 1) (((getCore s lead).timeline tl).toNat + 1) ∧
        t.hostClock = tsMax s.hostClock (x.cores.foldl (fun t k => tsMax t (getCore s k).clock) x.ts) ∧
        t.root.status = s.root.status ++ [{ code := 0, handle := l, data := leBytes 8 x.lost }]) ∧
    (∃ t, exec .periodStart s = .next t ∧ t = { s with parts := t.parts, agenda := .event .launchChoose :: s.agenda } ∧
      ∀ q, getPart t q = { getPart s q with
        debt := (getPart s q).debt - min (getPart s q).debt ((getPart s q).q / 4),
        rem := (getPart s q).q - min (getPart s q).debt ((getPart s q).q / 4) }) ∧
    (x.part = part → x.stage = .running → x.kerf = none → x.rewire = none →
      (p.rem = 0 → p.canBorrow = false → ∃ t, exec (.remExhausted part) s = .next t ∧ kerfed t l 0) ∧
      (p.rem = 0 → 4 * p.q < p.debt + 1 → ∃ t, exec (.debtLimitReached part) s = .next t ∧ kerfed t l 0) ∧
      (x.broke = false → x.budget * 65536 ≤ x.charged → ∃ t, exec (.budgetExhausted l) s = .next t ∧ kerfed t l 0x31A ∧
        (getLaunch t l).broke = true) ∧
      (∃ t, exec (.kerfBegin l) s = .next t ∧ kerfed t l 0 ∧ t.mem = s.mem)) ∧
    (0 < p.rem → exec (.remExhausted part) s = .next s ∧ exec (.debtLimitReached part) s = .next s) ∧
    (x.charged < x.budget * 65536 → exec (.budgetExhausted l) s = .next s) ∧
    (∃ t, exec .measureWindowEnd s = .next t ∧
      (∀ e ∈ t.edges, e.tok = 0 ∧ e.full = 0 ∧ e.empty = 0 ∧ e.unsettled = false) ∧
      (∀ u, (Machine.getElem t u).fires = 0 ∧ (Machine.getElem t u).unsettled = false))

/-- R196, R225, R260, R274, R381 to R386, R395: a kerf's marker passes; an element whose work is done and whose inputs are marked freezes,
and its outputs are gated behind it; a control element freezes between instructions; an engine is saved at its save point, what it has
read ahead dropped: the matrix node between two parts of a product or an iteration, and after any other operation. When all of R385 holds
the launch is suspended, its cores are free, and a kerf of its own cause tells the supervisor; a restored launch has its new cores and runs. -/
def Obligations.KerfFreezesCutsAndRestores : Prop :=
  ∀ (s s1 : State) (l core port : Nat) (u : UnitId) (src : Endpoint) (e : Edge) (kf : Kerf) (cores : List Nat) (m : Cmd) (es : List Edge),
    let x := getLaunch s l
    let v := Machine.getElem s u
    let n := getMn s core
    let code := (pw m.packet 0).toNat % 256
    let parted : Prop := code = 1 ∨ code = 2 ∨ code = 3 ∨ code = 4 ∨ code = 9 ∨ code = 0x10 ∨ code = 0x11 ∨ code = 0x12
    let ce : UnitId := ⟨core, ceIx⟩
    let saved (t : State) (p : Nat) : Prop := (getCore t core).engSaved = (getCore s core).engSaved ++ [p] ∧ t.mem = s.mem ∧ UnitsKeep s t
    let marked (e : Edge) : Prop := e.gated = true ∧ e.marker = false
    (findEdge s src = some e → e.gated = true → e.marker = true → ∃ t, exec (.kerfMarkerArrival src) s = .next t ∧
      findEdge t src = some { e with marker := false } ∧ t = { s with edges := t.edges }) ∧
    ((getCore s u.core).launch = some l → x.kerf.isSome = true → u.ix < ceIx → (v.run = 1 ∨ v.run = 2) → v.flights = [] →
        (∀ e ∈ s.edges, (∃ ch, e.dst = .elem u.core u.ix ch) → e.back = false → marked e) → cloneSettled s x u = true →
      ∃ t, exec (.elementFreeze u) s = .next t ∧ (Machine.getElem t u).run = 3 ∧ (Machine.getElem t u).wasStopped = decide (v.run = 2) ∧
        (Machine.getElem t u).d = v.d ∧ t = { s with cores := t.cores, edges := t.edges } ∧
        ∀ e ∈ t.edges, (∃ ch, e.src = .elem u.core u.ix ch) → e.gated = true) ∧
    ((getCore s core).launch = some l → x.kerf.isSome = true → (Machine.getElem s ce).run = 1 → (Machine.getElem s ce).flights = [] →
        (getCtl s core).own = none →
      ∃ t, exec (.ceFreeze core) s = .next t ∧ (Machine.getElem t ce).run = 3 ∧ getCtl t core = getCtl s core ∧ t.mem = s.mem) ∧
    ((getCore s core).launch = some l → x.kerf.isSome = true → (port < 8 ∨ port = 13 ∨ port = 14 ∨ port = 15) → port ∉ (getCore s core).engSaved →
      ∃ t, exec (.engineSave core port) s = .next t ∧ saved t port ∧ fetchesOf t core port = [] ∧ tget {} (getCore t core).engOut port = {} ∧
        (getEng t core port).pos = (getEng s core port).pos ∧ (getEng t core port).count = (getEng s core port).count ∧
        (getEng t core port).state = (getEng s core port).state) ∧
    ((getCore s core).launch = some l → x.kerf.isSome = true → 12 ∉ (getCore s core).engSaved → headCmd s core 12 = some m → n.matched = false →
      (n.active = false ∨ n.stopped ≠ 0 ∨ (parted ∧ n.part = false ∧ n.tolerance = false) → ∃ t, exec (.engineSave core 12) s = .next t ∧ saved t 12 ∧
        fetchesOf t core 12 = [] ∧ getMn t core = { n with undo := none }) ∧
      (n.active = true → n.stopped = 0 → code ≠ 5 → (¬parted ∨ n.part = true ∨ n.tolerance = true) → exec (.engineSave core 12) s = .next s)) ∧
    ((getCore s core).launch = some l → x.kerf.isSome = true → 16 ∉ (getCore s core).engSaved → midReply s core = false →
        (∀ w ∈ (getCore s core).walks, w.2.waiting = 0 ∨ ((w.2.waiting = 3 ∨ w.2.waiting = 5) ∧ w.2.rmode = false)) →
      ∃ t, exec (.engineSave core 16) s = .next t ∧ saved t 16 ∧ tget {} (getCore t core).engOut 16 = {} ∧
        (getCore t core).walks = (getCore s core).walks.map fun w => (w.1, if w.2.waiting = 5 then { w.2 with waiting := 3 } else w.2)) ∧
    (x.kerf = some kf → x.cores.Nodup → saveLost s x = false →
        (∀ k ∈ x.cores, (∀ e ∈ (getCore s k).elems, e.2.run = 3) ∧ (∀ p ∈ savingPorts, p ∈ (getCore s k).engSaved) ∧
          (∀ c ∈ (getCore s k).comps, c.2 = []) ∧ (getEng s k fabricPort).state = 0) →
        (∀ e ∈ s.edges, e.launch = l → marked e) → asksElsewhere s l x = false → (∀ r ∈ s.reqs, r.2.core ∈ x.cores → mayStay r.2 = true) →
      ∃ t, exec (.cutComplete l) s = .next t ∧ (getLaunch t l).stage = .suspended ∧ (getLaunch t l).kerf = none ∧
        (getLaunch t l).imaged = true ∧ (getLaunch t l).cores = [] ∧ (∀ k ∈ x.cores, (getCore t k).launch = none ∧ (getCore t k).elems = []) ∧
        (∀ e ∈ t.edges, e.launch ≠ l) ∧ (∀ r ∈ t.reqs, r.2.core ∉ x.cores) ∧ (∃ more, t.agenda = .event .launchChoose :: more) ∧
        t.root.status = s.root.status ++ (if kf.status = 0 then [] else [{ code := kf.status, handle := l }])) ∧
    (x.stage = .suspended → x.held = false → x.broke = false → x.imaged = true → fitCores x.object (freeCores s x.part) = some cores →
        cores.Nodup → reserveAgain s l cores = some (s1, es) →
      ∃ t, exec (.launchRestore l) s = .next t ∧ (getLaunch t l).stage = .running ∧ (getLaunch t l).cores = cores ∧
        (getLaunch t l).imaged = false ∧ ∀ k, k < cores.length → (getCore t (cores.getD k 0)).launch = some l ∧
          (getCore t (cores.getD k 0)).image = k)

/-- R365 to R371: a rewire that the scheduler asks for is refused where R366 to R368 give a reason, waits while its launch does not
run, and else gates every edge that feeds its elements; a gated element freezes once nothing is in flight and every marker has come;
when all are Frozen the state moves, the layout's version rises, the edges open, and the asker has its word. -/
def Obligations.RewiresGateMoveAndRepoint : Prop :=
  ∀ (s s1 : State) (l a b repl drun n : Nat) (i : Instr) (r : Rewire) (u : UnitId),
    let x := getLaunch s l
    let v := Machine.getElem s u
    ((i = .clone l a repl drun ∧ r = { kind := 1, opa := a, repl := repl, drun := drun, asker := none }) ∨
      (i = .unclone l a ∧ r = { kind := 2, opa := a, asker := none }) ∨
      (i = .fold l a b ∧ r = { kind := 3, opa := a, opb := b, asker := none }) ∨
      (i = .unfold l a ∧ r = { kind := 4, opa := a, asker := none }) →
      (rewireMalformed x r = true ∨ x.stage = .draining ∨ x.stage = .complete ∨ x.stage = .failed → exec i s = .next s) ∧
      (rewireMalformed x r = false → (x.stage = .queued ∨ x.stage = .waiting ∨ x.stage = .ready ∨ x.stage = .suspended) →
        ∃ t, exec i s = .next t ∧ getLaunch t l = { x with waitingRewires := x.waitingRewires ++ [r] } ∧ t = { s with launches := t.launches }) ∧
      (x.stage = .running → x.kerf = none → x.rewire.isSome = true → exec i s = .next s) ∧
      (∀ c, x.stage = .running → x.kerf = none → rewireReason s x r = some c → exec i s = .next s) ∧
      (rewireMalformed x r = false → x.stage = .running → x.kerf = none → rewireReason s x r = none →
        ∃ t, exec i s = .next t ∧ t = { s with launches := t.launches, edges := t.edges } ∧
          getLaunch t l = { x with rewire := some { r with els := rewired x r, gated := true } } ∧
          (∀ e ∈ t.edges, e.launch = l → feeds x (rewired x r) e = true → e.gated = true))) ∧
    ((getCore s u.core).launch = some l → x.rewire = some r → (∃ c ∈ r.els, x.unit c = u) →
      (v.run = 1 → v.flights = [] → (r.kind ≠ 2 ∨ (x.op r.opa).between = []) →
          (∀ e ∈ s.edges, (∃ ch, e.dst = .elem u.core u.ix ch) → e.gated = true ∧ e.marker = false) →
        ∃ t, exec (.rewireDrainFreeze u) s = .next t ∧ Machine.getElem t u = v.setRun 3 ∧
          (∀ w, w ≠ u → Machine.getElem t w = Machine.getElem s w) ∧ t = { s with cores := t.cores }) ∧
      (v.flights ≠ [] → exec (.rewireDrainFreeze u) s = .next s)) ∧
    (x.rewire = some r → r.gated = true →
      ((∃ c ∈ r.els, (Machine.getElem s (x.unit c)).run ≠ 3) → exec (.rewireComplete l) s = .next s) ∧
      ((∀ c ∈ r.els, (Machine.getElem s (x.unit c)).run = 3) → moveRewire s l r = some (s1, n) →
        ∃ t, exec (.rewireComplete l) s = .next t ∧ (getLaunch t l).rewire = none ∧
          (getLaunch t l).version = (getLaunch s1 l).version + 1 ∧ (getLaunch t l).rwcyc = s1.cycle ∧
          (∀ e ∈ t.edges, e.launch = l → e.gated = false) ∧
          (∀ (k : Nat) (d : Fin 16), r.asker = some (k, .d d) →
            (Machine.getElem t ⟨k, ceIx⟩).dreg d = completionWord 0 ((getLaunch s1 l).version + 1).toNat n 0)))

/-! ## The root, the host and service -/

/-- R416: a command that passes the root's first checks: the module takes commands, the session is open and may give it, it is
authentic, and its number rises. -/
def Accepted (s : State) (c : RootCmd) (may : Prop) : Prop :=
  commandsOpen s = true ∧ c.auth = true ∧ may ∧ ∃ n, tfind s.root.sessions c.session = some n ∧ n < c.seq

/-- The state once its number is taken. -/
def numbered (s : State) (c : RootCmd) : State := { s with root := { s.root with sessions := tput s.root.sessions c.session c.seq } }

/-- The command is answered with a status, and nothing else happens but that its number is taken. -/
def AnswersOnly (s : State) (c : RootCmd) (i : Instr) (code : Cause) : Prop := exec i s = .next (tellCode (numbered s c) code)

/-- R82, R344, R349, R411, R413, R416 to R418, R440: what the root's commands do once accepted. A number that does not rise is answered
with 0x348, and one that is not authentic, or of no open session, or not of the session that may give it, with 0x347; a handle that names
nothing of the session's with 0x349, that of another session's policy too. -/
def Obligations.RootCommandsAnswer : Prop :=
  ∀ (s s1 : State) (c : RootCmd) (h : Nat) (o sig : List Byte) (args : List Dword) (v : Dword) (budget : BitVec 32) (peer : Bool)
    (part : Nat) (spec : CreateSpec) (pol : Policy),
    let z := numbered s c
    let x := getLaunch s h
    let p := getPart s part
    let given (i : Instr) : Prop := i = .rootLoad c o ∨ i = .launch c h args ∨ i = .resumeBudget c h budget ∨ i = .policyRegister c h sig ∨
      i = .create c spec ∨ i = .destroy c h ∨ i = .pause c h ∨ i = .launchResume c h ∨ i = .evict c h ∨ i = .qset c h v ∨ i = .harvest c h ∨
      i = .keyExport c h peer
    let tells (i : Instr) (st : Status) (f : State → Prop) : Prop := ∃ t, exec i s = .next t ∧ t.root.status = s.root.status ++ [st] ∧
      t.root.sessions = z.root.sessions ∧ f t
    (∀ i, given i →
      (commandsOpen s = false → exec i s = .next s) ∧
      (commandsOpen s = true → (tfind s.root.sessions c.session = none ∨ c.auth = false) → exec i s = .next (tellCode s 0x347)) ∧
      (∀ n, commandsOpen s = true → tfind s.root.sessions c.session = some n → c.auth = true → c.seq ≤ n →
        exec i s = .next (tellCode s 0x347) ∨ exec i s = .next (tellCode s 0x348))) ∧
    (∀ i, Accepted s c (c.session = 0) →
      (i = .rootLoad c o ∨ i = .launch c h args ∨ i = .resumeBudget c h budget ∨ i = .policyRegister c h sig) → exec i s = .next (tellCode s 0x347)) ∧
    (∀ i, Accepted s c (c.session ≠ 0) →
      ((i = .create c spec ∨ i = .destroy c h ∨ i = .qset c h v ∨ i = .harvest c h ∨ i = .keyExport c h peer) → exec i s = .next (tellCode s 0x347)) ∧
      ((i = .pause c h ∨ i = .launchResume c h ∨ i = .evict c h) → AnswersOnly s c i 0x349)) ∧
    (Accepted s c (c.session ≠ 0) →
      (∀ e, loadObject z c.session o = .error e → AnswersOnly s c (.rootLoad c o) e) ∧
      (loadObject z c.session o = .ok s1 → ∃ t, exec (.rootLoad c o) s = .next t ∧ t.mem = s.mem ∧
        t.root.status = s1.root.status ++ [{ code := 0, handle := s1.root.nextHandle }] ∧
        tfind t.root.objects s1.root.nextHandle = some { session := c.session, object := o } ∧ t.root.nextHandle = s1.root.nextHandle + 1) ∧
      (∀ q, tfind s.root.policies h = some q → q.session ≠ c.session → AnswersOnly s c (.policyRegister c h sig) 0x349) ∧
      (∀ q, tfind s.root.policies (policyHandle o) = some q → q.session ≠ c.session → objectCause o = none → AnswersOnly s c (.rootLoad c o) 0x349) ∧
      (∀ e, foreignPolicy s c.session h = false → sigCause sig = some e → AnswersOnly s c (.policyRegister c h sig) e) ∧
      (sigCause sig = none → tfind s.root.policies h = none → tells (.policyRegister c h sig) { code := 0, handle := h } fun t =>
        tfind t.root.policies h = some { session := c.session, block := sig } ∧ t.parts = s.parts ∧ t.mem = s.mem) ∧
      (∀ q, sigCause sig = none → tfind s.root.policies h = some q → q.session = c.session → q.block ≠ sig →
        AnswersOnly s c (.policyRegister c h sig) 0x344) ∧
      (tfind s.root.objects h = none → AnswersOnly s c (.launch c h args) 0x349) ∧
      (∀ held : Held, tfind s.root.objects h = some held → held.session = c.session →
        tfind s.root.policies (policyHandle held.object) = some pol → pol.session = c.session →
        (s.parts.find? fun e => e.2.used && e.2.policy = policyHandle held.object) = some (part, p) →
        let b := rd held.object (launchOff held.object + 0x10) 4
        ((graphDigest held.object ∉ polDigests pol.block ∨ polMaxB pol.block < b) → AnswersOnly s c (.launch c h args) 0x342) ∧
        (graphDigest held.object ∈ polDigests pol.block → b ≤ polMaxB pol.block → recordBroken held.object = true →
          AnswersOnly s c (.launch c h args) 0x318) ∧
        (graphDigest held.object ∈ polDigests pol.block → b ≤ polMaxB pol.block → recordBroken held.object = false →
          tells (.launch c h args) { code := 0, handle := s.root.nextHandle } fun t =>
            let y := getLaunch t s.root.nextHandle
            y.session = c.session ∧ y.part = part ∧ y.object = held.object ∧ y.args = args.take 8 ∧ y.budget = b ∧
            (y.stage = .queued ∨ y.stage = .waiting) ∧ y.place = s.submitted + 1 ∧ t.mem = s.mem)) ∧
      (tfind s.launches h = none → AnswersOnly s c (.resumeBudget c h budget) 0x349) ∧
      (tfind s.launches h = some x → x.session = c.session → tells (.resumeBudget c h budget) { code := 0 } fun t =>
        getLaunch t h = { x with budget := budget.toNat, broke := x.broke && decide (budget.toNat * 65536 ≤ x.charged) } ∧ t.mem = s.mem)) ∧
    (Accepted s c (c.session = 0) →
      (tfind s.launches h = none → AnswersOnly s c (.pause c h) 0x349 ∧ AnswersOnly s c (.launchResume c h) 0x349 ∧ AnswersOnly s c (.evict c h) 0x349) ∧
      (tfind s.launches h = some x →
        (polFlag (launchPolicy s x) 0 = false → AnswersOnly s c (.pause c h) 0x346) ∧
        (polFlag (launchPolicy s x) 0 = true → x.stage = .running → x.kerf = none → x.rewire = none → tells (.pause c h) { code := 0 } fun t =>
          (getLaunch t h).held = true ∧ (getLaunch t h).kerf = some { begun := s.cycle, status := 0 } ∧ t.mem = s.mem) ∧
        (polFlag (launchPolicy s x) 0 = true → x.stage = .suspended → tells (.pause c h) { code := 0 } fun t =>
          getLaunch t h = { x with held := true } ∧ t.mem = s.mem) ∧
        tells (.launchResume c h) { code := 0 } (fun t => getLaunch t h = { x with held := false } ∧ t.mem = s.mem) ∧
        ((x.stage = .complete ∨ x.stage = .failed ∨ x.stage = .draining) → AnswersOnly s c (.evict c h) 0) ∧
        (x.stage ≠ .complete → x.stage ≠ .failed → x.stage ≠ .draining → ∃ t, exec (.evict c h) s = .next t ∧
          (getLaunch t h).stage = .failed ∧ t.root.status = s.root.status ++ [{ code := 0 }, { code := 0x31D, handle := h }])) ∧
      (tfind s.root.policies spec.policy = none → AnswersOnly s c (.create c spec) 0x349) ∧
      (tfind s.root.policies spec.policy = some pol →
        ((polMaxC pol.block < spec.cores.length ∨ (spec.secure = false ∧ polFlag pol.block 2 = false) ∨ (spec.secure = true ∧ feature s 3 = false) ∨
            createOk s spec = false) → AnswersOnly s c (.create c spec) 0x346) ∧
        (spec.cores.length ≤ polMaxC pol.block → (spec.secure = true ∨ polFlag pol.block 2 = true) → (spec.secure = true → feature s 3 = true) →
            createOk s spec = true → freePart s = some part → tells (.create c spec) { code := 0, handle := s.root.nextHandle } fun t =>
          let n := getPart t part
          n.used = true ∧ n.cores = spec.cores ∧ n.lead = spec.lead ∧ n.secure = spec.secure ∧ n.channel = spec.channel ∧ n.reply = spec.reply ∧
          n.pool ∉ poolsOn s spec.channel ∧ n.replyPool ∉ poolsOn s spec.reply ∧ (spec.channel = spec.reply → n.pool ≠ n.replyPool) ∧ n.units = spec.units ∧
          n.ptroot = spec.ptroot ∧ n.logBase = spec.logBase ∧ n.logK = spec.logK ∧ n.policy = spec.policy ∧ n.handle = s.root.nextHandle ∧
          n.q = 0 ∧ n.debt = 0 ∧ (∀ k ∈ spec.cores, (getCore s k).launch = none → (getCore t k).part = some part ∧ (getCore t k).launch = none) ∧ t.root.created = true ∧
          (spec.secure = false → t.mem = s.mem)))) ∧
    (Accepted s c (c.session = 0) →
      (namedPart s c h = none → AnswersOnly s c (.destroy c h) 0x349 ∧ AnswersOnly s c (.qset c h v) 0x349 ∧ AnswersOnly s c (.harvest c h) 0x349 ∧
        AnswersOnly s c (.keyExport c h peer) 0x349) ∧
      (namedPart s c h = some part →
        (∃ t, exec (.destroy c h) s = .next t ∧ getPart t part = {} ∧ (∀ k ∈ p.cores, (getCore s k).part = some part → (getCore t k).part = none ∧ (getCore t k).launch = none)) ∧
        (let q := v.toNat % 2 ^ 28
         let others := s.parts.foldl (fun n e => if e.2.used ∧ e.1 ≠ part then n + e.2.q else n) 0
         let room := (2048 - (s.parts.filter fun e => e.2.used).length) * 65536
         (polMaxQ (policyOf s p.policy) < q → AnswersOnly s c (.qset c h v) 0x346) ∧
         (q ≤ polMaxQ (policyOf s p.policy) → room < others + q → AnswersOnly s c (.qset c h v) 0x31C) ∧
         (q ≤ polMaxQ (policyOf s p.policy) → others + q ≤ room → tells (.qset c h v) { code := 0 } fun t =>
            getPart t part = { p with q := q, ben := v.getLsbD 63 } ∧ t.mem = s.mem)) ∧
        (polFlag (policyOf s p.policy) 1 = false → AnswersOnly s c (.harvest c h) 0x346) ∧
        (polFlag (policyOf s p.policy) 1 = true → (∀ k ∈ p.cores, ∀ pt ∈ (getCore s k).ports, pt.2.dirty = [] ∧ pt.2.walkDirty = none) →
            s.root.harvests = [] → writesPending s { part := part, tail := p.logTail, limit := s.nextReq, cycle := s.cycle } = false →
          tells (.harvest c h) { code := 0, handle := p.handle, data := logBytes s p p.logHead p.logTail ++ [.ofNat 8 p.ovf.toNat] } fun t =>
            getPart t part = { p with logHead := max p.logHead p.logTail, ovf := false } ∧ t.mem = s.mem) ∧
        (peer = true → p.secure = true → tells (.keyExport c h peer) { code := 0, handle := h, data := Config.wrappedKey p.keyix } fun t =>
          t.parts = s.parts ∧ t.mem = s.mem) ∧
        ((peer = false ∨ p.secure = false) → AnswersOnly s c (.keyExport c h peer) 0x346)))

/-- R412, R425, R429, R432 to R435: bring-up and service. The stages follow the boot; features are accepted from stage 2 until the first
partition is made; service commands work on a quiesced stack and answer 0x3B8 where they cannot; a spare takes a part's place, or the
core is retired; a module reset leaves the machine as reset leaves it, but for memory, flash, what is retired, and an incarnation more. -/
def Obligations.BringUpAndService : Prop :=
  ∀ (s : State) (c : RootCmd) (stack : Fin 8) (fw : List Byte) (ok : Bool) (v : BitVec 256) (bad : Byte) (core el ch part n : Nat) (id : BitVec 14),
    let r := s.root
    let z := numbered s c
    let quieted : Bool := r.quiesced.contains stack.val
    let answered (i : Instr) (code : Cause) (t : State) : Prop := exec i s = .next t ∧ t.root.status = r.status ++ [{ code := code }]
    let calm (t : State) : Prop := t.root.quiesced = r.quiesced.filter (· ≠ stack.val)
    (exec (.powerOn ok) s = .next { s with root := { r with booted := r.booted || ok } }) ∧
    (r.booted = false → exec (.stageAdvance bad) s = .next s) ∧
    (r.booted = true → r.stage = 1 → exec (.stageAdvance bad) s = .next { s with root := { r with stage := 2 } }) ∧
    (r.booted = true → r.stage = 2 → ∃ t, exec (.stageAdvance bad) s = .next t ∧ t.root = { r with stage := 3, badstk := r.badstk ||| bad } ∧
      ∀ k, k < 2048 → (getCore t k).retired = ((getCore s k).retired || bad.getLsbD (k / 256))) ∧
    ((r.stage < 2 ∨ r.created = true) → exec (.featackWrite v) s = .next s) ∧
    (2 ≤ r.stage → r.created = false →
      (v &&& ~~~(Config.featdev &&& 0x1FF) = 0 → ∃ t, answered (.featackWrite v) 0 t ∧ t.root.featack = v) ∧
      (v &&& ~~~(Config.featdev &&& 0x1FF) ≠ 0 → ∃ t, answered (.featackWrite v) 0x3B2 t ∧ t.root.featack = r.featack)) ∧
    (r.stage = 1 → ∃ t, answered (.flashUpdate fw true) 0 t ∧ t.root.flash = fw ∧ t.mem = s.mem) ∧
    ((r.stage ≠ 1 ∨ ok = false) → exec (.flashUpdate fw ok) s = .next s) ∧
    (Accepted s c (c.session = 0) →
      (feature s 8 = false → AnswersOnly s c (.quiesce c stack) 0x3B8 ∧ AnswersOnly s c (.recal c stack) 0x3B8 ∧
        AnswersOnly s c (.update c stack fw ok) 0x3B8 ∧ AnswersOnly s c (.retire c stack) 0x3B8) ∧
      (feature s 8 = true →
        ((quieted = true ∨ r.badstk.getLsbD stack = true) → AnswersOnly s c (.quiesce c stack) 0x3B8) ∧
        (quieted = false → r.badstk.getLsbD stack = false → ∃ t, answered (.quiesce c stack) 0 t ∧ t.root.quiesced = r.quiesced ++ [stack.val] ∧
          ∀ l x, tfind s.launches l = some x → x.stage = .running → x.kerf = none → x.rewire = none → (∃ k ∈ x.cores, k / 256 = stack.val) →
            (getLaunch t l).kerf = some { begun := s.cycle, status := 0 }) ∧
        (quieted = false → AnswersOnly s c (.recal c stack) 0x3B8 ∧ AnswersOnly s c (.update c stack fw ok) 0x3B8) ∧
        (ok = false → AnswersOnly s c (.update c stack fw ok) 0x3B8) ∧
        (quieted = true → ∃ t, answered (.recal c stack) 0 t ∧ calm t ∧ t.mem = s.mem) ∧
        (quieted = true → ok = true → ∃ t, answered (.update c stack fw ok) 0 t ∧ calm t ∧ t.mem = s.mem) ∧
        ((∃ e ∈ s.parts, e.2.used = true ∧ ∃ k ∈ e.2.cores, k / 256 = stack.val) → AnswersOnly s c (.retire c stack) 0x3B8) ∧
        ((∀ e ∈ s.parts, e.2.used = true → ∀ k ∈ e.2.cores, k / 256 ≠ stack.val) →
          (∀ e ∈ s.idt, idtValid e.2 = true → ∀ n ∈ idtSlices e.2, stackOfRouter (routerOfSlice n) ≠ stack.val) →
          ∃ t, answered (.retire c stack) 0 t ∧ t.root.badstk = (r.badstk ||| 1#8 <<< stack.val) ∧
            ∀ k, k < 2048 → (getCore t k).retired = ((getCore s k).retired || decide (k / 256 = stack.val))))) ∧
    (∃ t, exec (.spareReplace (.element core el)) s = .next t ∧ t = { s with cores := t.cores } ∧
      getCore t core = (if (getCore s core).spares < 2 then { getCore s core with spares := (getCore s core).spares + 1 }
        else { getCore s core with retired := true })) ∧
    (let used : Nat := tget 0 r.spareChannels (ch / 128)
     ((r.quiesced.contains (ch / 128) = true ∨ r.stage < 3) → used < 8 →
        exec (.spareReplace (.channel ch)) s = .next { s with root := { r with spareChannels := tput r.spareChannels (ch / 128) (used + 1) } }) ∧
     (8 ≤ used → exec (.spareReplace (.channel ch)) s = .next s)) ∧
    (id.toNat < 9216 → exec (.domainJoin id) s = .next { s with moduleId := some id.toNat }) ∧
    (9216 ≤ id.toNat → exec (.domainJoin id) s = .next s) ∧
    ((getPart s part).used = true → feature s 3 = true →
      let step (q : TdispReq) (k : Nat) : Prop := ∃ t, exec (.tdispRequest part q) s = .next t ∧ getPart t part = { getPart s part with tdi := k }
      ((getPart s part).tdi = 0 → step .lock 1 ∧ step .start 0 ∧ step .error 0) ∧
      ((getPart s part).tdi = 1 → step .lock 1 ∧ step .start 2 ∧ step .error 3) ∧
      ((getPart s part).tdi = 2 → step .error 3 ∧ step .lock 2) ∧
      step .stop 0) ∧
    (exec (.spdmRequest .attest) s = .next { s with root := { r with attested := r.attested + 1 } } ∧
      (0 < n → exec (.spdmRequest (.openSession n)) s = .next { s with root := { r with sessions := tput r.sessions n 0 } }) ∧
      (core < 2 → el < 8 → (core, el) ∉ r.keyed →
        exec (.spdmRequest (.keyStream core el)) s = .next { s with root := { r with keyed := r.keyed ++ [(core, el)] } })) ∧
    (∃ t, exec .moduleReset s = .next t ∧ t.mem = s.mem ∧ t.inc = s.inc + 1 ∧ t.root.stage = 1 ∧ t.root.featack = 0 ∧ t.root.created = false ∧
      t.root.flash = r.flash ∧ t.root.badstk = r.badstk ∧ t.parts = State.reset.parts ∧ t.launches = [] ∧ t.reqs = [] ∧ t.idt = State.reset.idt ∧
      t.moduleId = none ∧ (∀ k, (getCore t k).elems = [] ∧ (getCore t k).part = none ∧ (getCore t k).launch = none))

/-- R6, R168, R305, R312, R318, R379, R412, R414, R415, R418, R425 to R427, R439: what comes in from outside. A host write or read travels
from its port to its home, 30 cycles and 12 a hop, is performed there after the link's earlier writes, and answered; one to a secure
partition's memory that does not come through its TDI changes nothing and is told as 0x34A; the write-only words of a doorbell read zero,
and its status word is not written; a doorbell's trigger makes a token of what was staged, or counts a drop; the egress ring is set where
R427 allows it and its head follows the host's releases; a peer's request with an old incarnation is answered with 0x3A2, and one the
policy does not list with 0x345, with the timestamp of its port; a lost link takes the marks of its module's entries; corrected errors are
counted, and an uncorrectable one resets the partitions it touches. -/
def Obligations.HostPeersAndErrors : Prop :=
  ∀ (s : State) (port : Fin 2) (tdi : Option Nat) (pa n k : Nat) (bs : List Byte) (part src base rel : Nat) (w : Quad) (tag : BitVec 3) (mod : BitVec 14)
    (inc : BitVec 16) (a : BitVec 48) (ts : Stamp) (op : PeerOp) (ps : List Nat) (h : Home) (id : Nat) (r : Req) (q : Part),
    let p := getPart s part
    let d : Doorbell := tget {} p.doorbells src
    let told (t : State) (st : Status) : Prop := t.root.status = s.root.status ++ [st]
    let bell (t : State) (e : Doorbell) : Prop := getPart t part = { p with doorbells := tput p.doorbells src e }
    let inLine (n : Nat) : Prop := 0 < n ∧ pa % 128 + n ≤ 128
    let trip (h : Home) : Nat := 30 + 12 * hops (if port = 0 then 0 else 64) (routerOfHome h)
    let way (t : State) (op : MemOp) (n : Nat) (data : List Byte) : Prop := t = { s with reqs := t.reqs, nextReq := s.nextReq + 1 } ∧
      ∃ r q, tfind t.reqs s.nextReq = some r ∧ r.link = some port.val ∧ r.op = op ∧ r.tag = (hostWorld s tdi).getD noPart ∧ r.posted = false ∧ r.parts = [q] ∧
        q.pa = pa ∧ q.n = n ∧ q.home = h ∧ q.phase = .travelling (s.cycle + trip h) ∧ (op = .store → q.operand = data)
    let port' := raisePeer s mod.toNat ts
    let now : Stamp := tget 0 port'.peerClock (mod.toNat % 48)
    let ask : PeerAsk := ⟨mod.toNat, inc, a.toNat, ts, op⟩
    let replied (t : State) (code : Cause) : Prop := t = { port' with sent := s.sent ++ [(mod.toNat, { code := code, ts := now })] }
    let marks (t : State) (f : Win → Bool) : Prop := ∀ c q i v, tfind ((getCore s c).port q).wins i = some v →
      tfind ((getCore t c).port q).wins i = some (if v.rem ∧ v.mod = mod.toNat then { v with mark := f v } else v)
    (homeOf s pa = .ok h → (IsExplicit h ∨ ∃ j, h = .slice j) → spaceOf pa ≠ .host →
      (inLine bs.length → ∃ t, exec (.hostWrite ⟨port, tdi⟩ (.memory pa bs)) s = .next t ∧ way t .store bs.length bs) ∧
      (inLine n → ∃ t, exec (.hostRead ⟨port, tdi⟩ (.memory pa n)) s = .next t ∧ way t .load n [])) ∧
    (spaceOf pa = .host → inLine bs.length → ∃ t, exec (.hostWrite ⟨port, tdi⟩ (.memory pa bs)) s = .next t ∧ t.mem = Memory.writeN s.mem pa bs) ∧
    (Arriving s id r q → r.link = some port.val → r.op = .store → IsExplicit q.home →
      (hostDone s id = true → q.bulk = [] → ∃ t r' q', exec (.explicitHomeAccess id q.lane) s = .next t ∧ tfind t.reqs id = some r' ∧
        r'.part q.lane = some q' ∧ q'.phase = .replied (s.cycle + trip q.home) ∧ t.hostClock = tsMax s.hostClock q'.ts ∧
        (foreignTo s r.tag q.pa = none → q'.cause = 0 ∧ t.mem = Memory.writeN s.mem q.pa (leBytes q.n q.data.toNat)) ∧
        (foreignTo s r.tag q.pa ≠ none → q'.cause = 0x34A ∧ t.mem = s.mem)) ∧
      (hostDone s id = false → ∃ t r' q', exec (.explicitHomeAccess id q.lane) s = .next t ∧ tfind t.reqs id = some r' ∧
        r'.part q.lane = some q' ∧ q'.phase = .queued s.stamps ∧ t.mem = s.mem)) ∧
    (tfind s.reqs id = some r → r.link = some port.val → r.posted = false → r.ready s.cycle = true →
      let gone (t : State) : Prop := tfind t.reqs id = none ∧ t.mem = s.mem ∧ t.cores = s.cores
      (∀ c va, r.replyCause = some (c, va) → ∃ t, exec (.replyArrival id none) s = .next t ∧ gone t ∧ told t { code := c }) ∧
      (r.replyCause = none → r.op = .store → ∃ t, exec (.replyArrival id none) s = .next t ∧ gone t ∧ t.root = s.root) ∧
      (r.replyCause = none → r.op = .load → r.parts = [q] → q.bulk = [] → ∃ t, exec (.replyArrival id none) s = .next t ∧ gone t ∧
        told t { code := 0, data := leBytes q.n q.value.toNat })) ∧
    (tdi = some part → p.used = true → (p.tdi = 1 ∨ p.tdi = 2) → src < 64 →
      (∃ t, exec (.hostWrite ⟨port, tdi⟩ (.staging src w)) s = .next t ∧ bell t { d with staging := w } ∧ t.mem = s.mem) ∧
      (∀ v, exec (.hostWrite ⟨port, tdi⟩ (.status src v)) s = .next s) ∧
      (∃ t, exec (.hostRead ⟨port, tdi⟩ (.doorbell src)) s = .next t ∧
        told t { code := 0, data := leBytes 4 (64 - d.toks.length) ++ leBytes 4 d.dropped } ∧ t.mem = s.mem) ∧
      (∃ t, exec (.hostRead ⟨port, tdi⟩ (.payload src)) s = .next t ∧ told t { code := 0, data := leBytes 16 0 } ∧ t.parts = s.parts) ∧
      (∃ t, exec (.hostRead ⟨port, tdi⟩ (.trigger src)) s = .next t ∧ told t { code := 0, data := leBytes 8 0 } ∧ t.parts = s.parts)) ∧
    (p.used = true → src < 64 →
      (d.toks.length < 64 → ingressUsed s part src = true → ∃ t, exec (.doorbellTrigger part src tag) s = .next t ∧ t.mem = s.mem ∧
        bell t { d with toks := d.toks ++ [⟨⟨d.staging, tag⟩, s.nextReq, s.hostClock⟩] }) ∧
      ((64 ≤ d.toks.length ∨ ingressUsed s part src = false) → ∃ t, exec (.doorbellTrigger part src tag) s = .next t ∧ t.mem = s.mem ∧
        bell t { d with dropped := min (2 ^ 32 - 1) (d.dropped + 1) })) ∧
    ((p.used = false ∨ 64 ≤ src) → exec (.doorbellTrigger part src tag) s = .next s) ∧
    (p.used = true → base % 4096 = 0 → 6 ≤ k → k ≤ 16 → spaceOf base = .host → spaceOf (base + 32 * 2 ^ k - 1) = .host →
      ∃ t, exec (.egressRingSetup part base k) s = .next t ∧ getPart t part = { p with ring := some (base, k), ringSeq := 0, ringFreed := 0 }) ∧
    ((k < 6 ∨ 16 < k ∨ base % 4096 ≠ 0) → exec (.egressRingSetup part base k) s = .next s) ∧
    (p.ringFreed ≤ rel → rel ≤ p.ringSeq → ∃ t, exec (.egressHeadWrite part rel) s = .next t ∧ getPart t part = { p with ringFreed := rel }) ∧
    ((rel < p.ringFreed ∨ p.ringSeq < rel) → exec (.egressHeadWrite part rel) s = .next s) ∧
    (op ≠ .largestMts → peerHeld port' ask = true → ∃ t, exec (.remoteRequest mod inc ⟨a, ts⟩ op) s = .next t ∧ t = { port' with peerAsks := s.peerAsks ++ [ask] }) ∧
    (op ≠ .largestMts → peerHeld port' ask = false →
      (inc ≠ s.inc → ∃ t, exec (.remoteRequest mod inc ⟨a, ts⟩ op) s = .next t ∧ replied t 0x3A2) ∧
      (inc = s.inc → peerTarget s a.toNat op = some part → peerAllowed s part mod.toNat = false →
        ∃ t, exec (.remoteRequest mod inc ⟨a, ts⟩ op) s = .next t ∧ replied t 0x345) ∧
      (inc = s.inc → peerTarget s a.toNat op = some part → peerAllowed s part mod.toNat = true →
        (homeOf s a.toNat = .ok h → IsExplicit h → foreignTo s part a.toNat = none →
          (op = .store bs → ∃ t x, exec (.remoteRequest mod inc ⟨a, ts⟩ op) s = .next t ∧ t.mem = Memory.writeN s.mem a.toNat bs ∧
            t.sent = s.sent ++ [(mod.toNat, x)] ∧ x.code = 0) ∧
          (op = .load n → ∃ t x, exec (.remoteRequest mod inc ⟨a, ts⟩ op) s = .next t ∧ t.mem = s.mem ∧ t.sent = s.sent ++ [(mod.toNat, x)] ∧
            x.code = 0 ∧ x.data = Memory.readN s.mem a.toNat n)) ∧
        (∀ core bar count sender, op = .barArrive core bar count sender →
          let b := (getCore s core).bar bar
          (b.expected = 0 → ∃ t, exec (.remoteRequest mod inc ⟨a, ts⟩ op) s = .next t ∧ t.sent = s.sent ++ [(mod.toNat, { code := 0, ts := now })] ∧
            (getCore t core).trapq = raiseInto (getCore s core).trapq
              { kind := 2, src := 19, cause := 0x140, detail := .ofNat 128 (bar + sender * 2 ^ 16), since := s.cycle }) ∧
          (b.arrived + count < b.expected → ∃ t, exec (.remoteRequest mod inc ⟨a, ts⟩ op) s = .next t ∧
            t.sent = s.sent ++ [(mod.toNat, { code := 0, ts := now })] ∧ ((getCore t core).bar bar).arrived = b.arrived + count)) ∧
        (∀ core bar ph, op = .barWait core bar ph → ((getCore s core).bar bar).expected = 0 →
          ∃ t, exec (.remoteRequest mod inc ⟨a, ts⟩ op) s = .next t ∧ replied t 0x140))) ∧
    (∃ t, exec (.linkLoss mod) s = .next t ∧ (tget {} t.links mod.toNat : Link).up = false ∧ t = { s with links := t.links, cores := t.cores } ∧
      marks t fun _ => false) ∧
    ((tget {} s.links mod.toNat : Link).up = true → exec (.linkTimeout mod) s = .next s) ∧
    ((tget {} s.links mod.toNat : Link).up = false → (∀ r ∈ s.reqs, r.2.awaits mod.toNat = 0) → ∃ t, exec (.linkTimeout mod) s = .next t ∧
      t = { s with cores := t.cores } ∧ marks t fun _ => false) ∧
    (∀ id r t, (tget {} s.links mod.toNat : Link).up = false → s.reqs = [(id, r)] → r.awaits mod.toNat = 1 →
      exec (.replyArrival id (some .lost)) (remark s mod.toNat fun _ => false) = .next t → exec (.linkTimeout mod) s = .next t) ∧
    (∃ t, exec (.linkRestored mod inc) s = .next t ∧ tget {} t.links mod.toNat = { up := true, inc := inc.toNat } ∧
      t = { s with links := t.links, cores := t.cores } ∧ marks t fun v => decide (v.inc = inc.toNat)) ∧
    (ps = [part] → p.used = true → ∃ t, exec (.softError ps) s = .next t ∧ getPart t part = { p with soft := p.soft + 1 } ∧
      t = { s with parts := t.parts }) ∧
    (p.used = true → ∃ t, exec (.uncorrectableError (.part part)) s = .next t ∧
      (getPart t part).resets = min 0xFFFF (p.resets + 1) ∧ (getPart t part).cores = p.cores ∧
      (∀ c ∈ p.cores, (getCore s c).part = some part → (getCore t c).launch = none ∧ ∀ i, i ≠ ceIx → (Machine.getElem t ⟨c, i⟩).run = 0) ∧
      (∀ l x, tfind s.launches l = some x → x.part = part → x.stage ≠ .complete → x.stage ≠ .failed → (getLaunch t l).stage = .failed)) ∧
    (p.used = false → exec (.uncorrectableError (.part part)) s = .next s) ∧
    (∃ t, exec (.uncorrectableError (.slice n)) s = .next t ∧ (getSlice t n).failed = true) ∧
    ((∀ e ∈ s.parts, e.2.used = true → n ∉ networkOf s e.2) → exec (.uncorrectableError (.router n)) s = .next s)
end

