-- ==== Sys2Proof/Laws/Dispatch.lean ====
section
/-! SUPPORT. Dispatch: each arm of exec is a call of its meaning. -/

namespace Sys2Proof.Machine

open Sys2Proof

@[simp] theorem exec_mov (d : Dst) (a : Src) (s : State) : exec (.mov d a) s = execMov d a s := rfl
@[simp] theorem exec_movi (d : Dst) (imm : BitVec 9) (s : State) : exec (.movi d imm) s = execMovi d imm s := rfl
@[simp] theorem exec_lit (lf : LitForm) (d : Dst) (v : Word) (s : State) : exec (.lit lf d v) s = execLit lf d v s := rfl
@[simp] theorem exec_fwd (base : Fin 4) (a b : Src) (s : State) : exec (.fwd base a b) s = execFwd base a b s := rfl
@[simp] theorem exec_tagset (d : Dst) (a : Src) (tag : BitVec 3) (s : State) : exec (.tagset d a tag) s = execTagset d a tag s := rfl
@[simp] theorem exec_dup (mask : BitVec 4) (a : Src) (s : State) : exec (.dup mask a) s = execDup mask a s := rfl
@[simp] theorem exec_drop (a : Src) (s : State) : exec (.drop a) s = execDrop a s := rfl
@[simp] theorem exec_pset (p : Fin 8) (v : Bool) (s : State) : exec (.pset p v) s = execPset p v s := rfl
@[simp] theorem exec_psetNz (p : Fin 8) (a : Src) (s : State) : exec (.psetNz p a) s = execPsetNz p a s := rfl
@[simp] theorem exec_psetZ (p : Fin 8) (a : Src) (s : State) : exec (.psetZ p a) s = execPsetZ p a s := rfl
@[simp] theorem exec_plog (p pa pb : Fin 8) (tt : BitVec 4) (s : State) : exec (.plog p pa pb tt) s = execPlog p pa pb tt s := rfl
@[simp] theorem exec_sel (d : Dst) (a b : Src) (p : Fin 8) (neg : Bool) (s : State) : exec (.sel d a b p neg) s = execSel d a b p neg s := rfl
@[simp] theorem exec_tagget (d : Dst) (a : Src) (s : State) : exec (.tagget d a) s = execTagget d a s := rfl
@[simp] theorem exec_done (d : Dst) (a : Src) (s : State) : exec (.done d a) s = execDone d a s := rfl
@[simp] theorem exec_add (lt : LaneType) (d : Dst) (a b : Src) (s : State) : exec (.add lt d a b) s = execAdd lt d a b s := rfl
@[simp] theorem exec_sub (lt : LaneType) (d : Dst) (a b : Src) (s : State) : exec (.sub lt d a b) s = execSub lt d a b s := rfl
@[simp] theorem exec_addi (d : Dst) (a : Src) (imm : BitVec 9) (s : State) : exec (.addi d a imm) s = execAddi d a imm s := rfl
@[simp] theorem exec_mul (lt : LaneType) (d : Dst) (a b : Src) (s : State) : exec (.mul lt d a b) s = execMul lt d a b s := rfl
@[simp] theorem exec_mulh (lt : LaneType) (d : Dst) (a b : Src) (s : State) : exec (.mulh lt d a b) s = execMulh lt d a b s := rfl
@[simp] theorem exec_mad (lt : LaneType) (d : Dst) (a b : Src) (s : State) : exec (.mad lt d a b) s = execMad lt d a b s := rfl
@[simp] theorem exec_div (lt : LaneType) (d : Dst) (a b : Src) (s : State) : exec (.div lt d a b) s = execDiv lt d a b s := rfl
@[simp] theorem exec_rem (lt : LaneType) (d : Dst) (a b : Src) (s : State) : exec (.rem lt d a b) s = execRem lt d a b s := rfl
@[simp] theorem exec_and (lt : LaneType) (d : Dst) (a b : Src) (s : State) : exec (.and lt d a b) s = execAnd lt d a b s := rfl
@[simp] theorem exec_or (lt : LaneType) (d : Dst) (a b : Src) (s : State) : exec (.or lt d a b) s = execOr lt d a b s := rfl
@[simp] theorem exec_xor (lt : LaneType) (d : Dst) (a b : Src) (s : State) : exec (.xor lt d a b) s = execXor lt d a b s := rfl
@[simp] theorem exec_andn (lt : LaneType) (d : Dst) (a b : Src) (s : State) : exec (.andn lt d a b) s = execAndn lt d a b s := rfl
@[simp] theorem exec_shl (lt : LaneType) (d : Dst) (a b : Src) (s : State) : exec (.shl lt d a b) s = execShl lt d a b s := rfl
@[simp] theorem exec_shr (lt : LaneType) (d : Dst) (a b : Src) (s : State) : exec (.shr lt d a b) s = execShr lt d a b s := rfl
@[simp] theorem exec_sha (lt : LaneType) (d : Dst) (a b : Src) (s : State) : exec (.sha lt d a b) s = execSha lt d a b s := rfl
@[simp] theorem exec_rot (lt : LaneType) (d : Dst) (a b : Src) (s : State) : exec (.rot lt d a b) s = execRot lt d a b s := rfl
@[simp] theorem exec_shli (d : Dst) (a : Src) (w : ShiftWidth) (c : BitVec 7) (s : State) : exec (.shli d a w c) s = execShli d a w c s := rfl
@[simp] theorem exec_shri (d : Dst) (a : Src) (w : ShiftWidth) (c : BitVec 7) (s : State) : exec (.shri d a w c) s = execShri d a w c s := rfl
@[simp] theorem exec_min (lt : LaneType) (d : Dst) (a b : Src) (s : State) : exec (.min lt d a b) s = execMin lt d a b s := rfl
@[simp] theorem exec_max (lt : LaneType) (d : Dst) (a b : Src) (s : State) : exec (.max lt d a b) s = execMax lt d a b s := rfl
@[simp] theorem exec_abs (lt : LaneType) (d : Dst) (a : Src) (s : State) : exec (.abs lt d a) s = execAbs lt d a s := rfl
@[simp] theorem exec_neg (lt : LaneType) (d : Dst) (a : Src) (s : State) : exec (.neg lt d a) s = execNeg lt d a s := rfl
@[simp] theorem exec_clz (lt : LaneType) (d : Dst) (a : Src) (s : State) : exec (.clz lt d a) s = execClz lt d a s := rfl
@[simp] theorem exec_popc (lt : LaneType) (d : Dst) (a : Src) (s : State) : exec (.popc lt d a) s = execPopc lt d a s := rfl
@[simp] theorem exec_cmpEq (lt : LaneType) (m : Reduce) (p : Fin 8) (a b : Src) (s : State) : exec (.cmpEq lt m p a b) s = execCmpEq lt m p a b s := rfl
@[simp] theorem exec_cmpLt (lt : LaneType) (m : Reduce) (p : Fin 8) (a b : Src) (s : State) : exec (.cmpLt lt m p a b) s = execCmpLt lt m p a b s := rfl
@[simp] theorem exec_cmpLe (lt : LaneType) (m : Reduce) (p : Fin 8) (a b : Src) (s : State) : exec (.cmpLe lt m p a b) s = execCmpLe lt m p a b s := rfl
@[simp] theorem exec_adds (lt : LaneType) (d : Dst) (a b : Src) (s : State) : exec (.adds lt d a b) s = execAdds lt d a b s := rfl
@[simp] theorem exec_subs (lt : LaneType) (d : Dst) (a b : Src) (s : State) : exec (.subs lt d a b) s = execSubs lt d a b s := rfl
@[simp] theorem exec_lea (sh : Fin 16) (d : Dst) (a b : Src) (s : State) : exec (.lea sh d a b) s = execLea sh d a b s := rfl
@[simp] theorem exec_dot4 (signed : Bool) (d : Dst) (a b : Src) (s : State) : exec (.dot4 signed d a b) s = execDot4 signed d a b s := rfl
@[simp] theorem exec_bfx (lt : LaneType) (d : Dst) (a b : Src) (s : State) : exec (.bfx lt d a b) s = execBfx lt d a b s := rfl
@[simp] theorem exec_shuf (lt : LaneType) (d : Dst) (a b : Src) (s : State) : exec (.shuf lt d a b) s = execShuf lt d a b s := rfl
@[simp] theorem exec_bcast (lt : LaneType) (d : Dst) (a b : Src) (s : State) : exec (.bcast lt d a b) s = execBcast lt d a b s := rfl
@[simp] theorem exec_ins (lt : LaneType) (d : Dst) (a b : Src) (s : State) : exec (.ins lt d a b) s = execIns lt d a b s := rfl
@[simp] theorem exec_ext (lt : LaneType) (d : Dst) (a b : Src) (s : State) : exec (.ext lt d a b) s = execExt lt d a b s := rfl
@[simp] theorem exec_rsum (lt : LaneType) (d : Dst) (a : Src) (s : State) : exec (.rsum lt d a) s = execRsum lt d a s := rfl
@[simp] theorem exec_rmax (lt : LaneType) (d : Dst) (a : Src) (s : State) : exec (.rmax lt d a) s = execRmax lt d a s := rfl
@[simp] theorem exec_rmin (lt : LaneType) (d : Dst) (a : Src) (s : State) : exec (.rmin lt d a) s = execRmin lt d a s := rfl
@[simp] theorem exec_pack (lt : LaneType) (d : Dst) (a b : Src) (s : State) : exec (.pack lt d a b) s = execPack lt d a b s := rfl
@[simp] theorem exec_unpkLo (lt : LaneType) (d : Dst) (a : Src) (s : State) : exec (.unpkLo lt d a) s = execUnpkLo lt d a s := rfl
@[simp] theorem exec_unpkHi (lt : LaneType) (d : Dst) (a : Src) (s : State) : exec (.unpkHi lt d a) s = execUnpkHi lt d a s := rfl
@[simp] theorem exec_vconf (lt : LaneType) (d : Dst) (a : Src) (s : State) : exec (.vconf lt d a) s = execVconf lt d a s := rfl
@[simp] theorem exec_vcomb (lt : LaneType) (d : Dst) (a b : Src) (s : State) : exec (.vcomb lt d a b) s = execVcomb lt d a b s := rfl
@[simp] theorem exec_pscan (lt : LaneType) (d : Dst) (a b : Src) (s : State) : exec (.pscan lt d a b) s = execPscan lt d a b s := rfl
@[simp] theorem exec_lscan (lt : LaneType) (d : Dst) (a b : Src) (s : State) : exec (.lscan lt d a b) s = execLscan lt d a b s := rfl
@[simp] theorem exec_mskidx (lt : LaneType) (d : Dst) (a b : Src) (s : State) : exec (.mskidx lt d a b) s = execMskidx lt d a b s := rfl
@[simp] theorem exec_fadd (lt : LaneType) (d : Dst) (a b : Src) (s : State) : exec (.fadd lt d a b) s = execFadd lt d a b s := rfl
@[simp] theorem exec_fsub (lt : LaneType) (d : Dst) (a b : Src) (s : State) : exec (.fsub lt d a b) s = execFsub lt d a b s := rfl
@[simp] theorem exec_fmul (lt : LaneType) (d : Dst) (a b : Src) (s : State) : exec (.fmul lt d a b) s = execFmul lt d a b s := rfl
@[simp] theorem exec_fma (lt : LaneType) (d : Dst) (a b : Src) (s : State) : exec (.fma lt d a b) s = execFma lt d a b s := rfl
@[simp] theorem exec_fms (lt : LaneType) (d : Dst) (a b : Src) (s : State) : exec (.fms lt d a b) s = execFms lt d a b s := rfl
@[simp] theorem exec_fnma (lt : LaneType) (d : Dst) (a b : Src) (s : State) : exec (.fnma lt d a b) s = execFnma lt d a b s := rfl
@[simp] theorem exec_fmin (lt : LaneType) (d : Dst) (a b : Src) (s : State) : exec (.fmin lt d a b) s = execFmin lt d a b s := rfl
@[simp] theorem exec_fmax (lt : LaneType) (d : Dst) (a b : Src) (s : State) : exec (.fmax lt d a b) s = execFmax lt d a b s := rfl
@[simp] theorem exec_fabs (lt : LaneType) (d : Dst) (a : Src) (s : State) : exec (.fabs lt d a) s = execFabs lt d a s := rfl
@[simp] theorem exec_fneg (lt : LaneType) (d : Dst) (a : Src) (s : State) : exec (.fneg lt d a) s = execFneg lt d a s := rfl
@[simp] theorem exec_fcmpEq (lt : LaneType) (m : Reduce) (p : Fin 8) (a b : Src) (s : State) : exec (.fcmpEq lt m p a b) s = execFcmpEq lt m p a b s := rfl
@[simp] theorem exec_fcmpLt (lt : LaneType) (m : Reduce) (p : Fin 8) (a b : Src) (s : State) : exec (.fcmpLt lt m p a b) s = execFcmpLt lt m p a b s := rfl
@[simp] theorem exec_fcmpLe (lt : LaneType) (m : Reduce) (p : Fin 8) (a b : Src) (s : State) : exec (.fcmpLe lt m p a b) s = execFcmpLe lt m p a b s := rfl
@[simp] theorem exec_fcmpUn (lt : LaneType) (m : Reduce) (p : Fin 8) (a b : Src) (s : State) : exec (.fcmpUn lt m p a b) s = execFcmpUn lt m p a b s := rfl
@[simp] theorem exec_fdiv (lt : LaneType) (d : Dst) (a b : Src) (s : State) : exec (.fdiv lt d a b) s = execFdiv lt d a b s := rfl
@[simp] theorem exec_fsqrt (lt : LaneType) (d : Dst) (a : Src) (s : State) : exec (.fsqrt lt d a) s = execFsqrt lt d a s := rfl
@[simp] theorem exec_cvt (row : Fin 16) (g : Fin 4) (rm : Option Rounding) (d : Dst) (a : Src) (s : State) : exec (.cvt row g rm d a) s = execCvt row g rm d a s := rfl
@[simp] theorem exec_cvti (row : Fin 11) (g : Fin 4) (rm : Option Rounding) (d : Dst) (a : Src) (s : State) : exec (.cvti row g rm d a) s = execCvti row g rm d a s := rfl
@[simp] theorem exec_cvtf (row : Fin 11) (g : Fin 4) (rm : Option Rounding) (d : Dst) (a : Src) (s : State) : exec (.cvtf row g rm d a) s = execCvtf row g rm d a s := rfl
@[simp] theorem exec_split3 (term : SplitTerm) (d : Dst) (a b : Src) (s : State) : exec (.split3 term d a b) s = execSplit3 term d a b s := rfl
@[simp] theorem exec_fdot2 (lt : LaneType) (d : Dst) (a b : Src) (s : State) : exec (.fdot2 lt d a b) s = execFdot2 lt d a b s := rfl
@[simp] theorem exec_qmxScale (f : MxFmt) (d : Dst) (a : Src) (s : State) : exec (.qmxScale f d a) s = execQmxScale f d a s := rfl
@[simp] theorem exec_qmxEnc (f : MxFmt) (d : Dst) (a b : Src) (s : State) : exec (.qmxEnc f d a b) s = execQmxEnc f d a b s := rfl
@[simp] theorem exec_dqmx (f : MxFmt) (d : Dst) (a b : Src) (s : State) : exec (.dqmx f d a b) s = execDqmx f d a b s := rfl
@[simp] theorem exec_fclass (lt : LaneType) (d : Dst) (a : Src) (s : State) : exec (.fclass lt d a) s = execFclass lt d a s := rfl
@[simp] theorem exec_frcp (lt : LaneType) (d : Dst) (a : Src) (s : State) : exec (.frcp lt d a) s = execFrcp lt d a s := rfl
@[simp] theorem exec_frsq (lt : LaneType) (d : Dst) (a : Src) (s : State) : exec (.frsq lt d a) s = execFrsq lt d a s := rfl
@[simp] theorem exec_fexp2 (lt : LaneType) (d : Dst) (a : Src) (s : State) : exec (.fexp2 lt d a) s = execFexp2 lt d a s := rfl
@[simp] theorem exec_flog2 (lt : LaneType) (d : Dst) (a : Src) (s : State) : exec (.flog2 lt d a) s = execFlog2 lt d a s := rfl
@[simp] theorem exec_fsig (lt : LaneType) (d : Dst) (a : Src) (s : State) : exec (.fsig lt d a) s = execFsig lt d a s := rfl
@[simp] theorem exec_ftanh (lt : LaneType) (d : Dst) (a : Src) (s : State) : exec (.ftanh lt d a) s = execFtanh lt d a s := rfl
@[simp] theorem exec_fsin (lt : LaneType) (d : Dst) (a : Src) (s : State) : exec (.fsin lt d a) s = execFsin lt d a s := rfl
@[simp] theorem exec_fcos (lt : LaneType) (d : Dst) (a : Src) (s : State) : exec (.fcos lt d a) s = execFcos lt d a s := rfl
@[simp] theorem exec_lsld (w : Width) (bump : Bump) (d : Dst) (an : Fin 4) (s : State) : exec (.lsld w bump d an) s = execLsld w bump d an s := rfl
@[simp] theorem exec_lsst (w : Width) (bump : Bump) (an : Fin 4) (b : Src) (s : State) : exec (.lsst w bump an b) s = execLsst w bump an b s := rfl
@[simp] theorem exec_lsldx (w : LaneWidth) (d : Dst) (an : Fin 4) (idx : Src) (s : State) : exec (.lsldx w d an idx) s = execLsldx w d an idx s := rfl
@[simp] theorem exec_lsstx (w : LaneWidth) (idx : Fin 16) (an : Fin 4) (b : Src) (s : State) : exec (.lsstx w idx an b) s = execLsstx w idx an b s := rfl
@[simp] theorem exec_aset (an : Fin 4) (a : Src) (imm : BitVec 9) (s : State) : exec (.aset an a imm) s = execAset an a imm s := rfl
@[simp] theorem exec_aadd (an : Fin 4) (a : Src) (imm : BitVec 9) (s : State) : exec (.aadd an a imm) s = execAadd an a imm s := rfl
@[simp] theorem exec_ldq (w : Width) (rc : Reuse) (d : Dst) (a ord : Src) (s : State) : exec (.ldq w rc d a ord) s = execLdq w rc d a ord s := rfl
@[simp] theorem exec_stq (w : Width) (noalloc : Bool) (d : Dst) (a b : Src) (s : State) : exec (.stq w noalloc d a b) s = execStq w noalloc d a b s := rfl
@[simp] theorem exec_stqp (w : Width) (noalloc : Bool) (a b : Src) (s : State) : exec (.stqp w noalloc a b) s = execStqp w noalloc a b s := rfl
@[simp] theorem exec_ldqx (w : LaneWidth) (rc : Reuse) (d : Dst) (a idx : Src) (s : State) : exec (.ldqx w rc d a idx) s = execLdqx w rc d a idx s := rfl
@[simp] theorem exec_stqx (w : LaneWidth) (op : ScatterOp) (idx : Fin 16) (a b : Src) (s : State) : exec (.stqx w op idx a b) s = execStqx w op idx a b s := rfl
@[simp] theorem exec_monarm (w32 : Bool) (d : Dst) (a b : Src) (s : State) : exec (.monarm w32 d a b) s = execMonarm w32 d a b s := rfl
@[simp] theorem exec_pref (rc : Reuse) (a : Src) (s : State) : exec (.pref rc a) s = execPref rc a s := rfl
@[simp] theorem exec_atom (op : AtomOp) (d : Dst) (a b : Src) (s : State) : exec (.atom op d a b) s = execAtom op d a b s := rfl
@[simp] theorem exec_cas (w : CasWidth) (d : Fin 16) (a b : Src) (s : State) : exec (.cas w d a b) s = execCas w d a b s := rfl
@[simp] theorem exec_barArr (d : Dst) (a : Src) (s : State) : exec (.barArr d a) s = execBarArr d a s := rfl
@[simp] theorem exec_barArrN (d : Dst) (a b : Src) (s : State) : exec (.barArrN d a b) s = execBarArrN d a b s := rfl
@[simp] theorem exec_barArrInit (d : Dst) (a b : Src) (s : State) : exec (.barArrInit d a b) s = execBarArrInit d a b s := rfl
@[simp] theorem exec_barWaitFull (d : Dst) (a b : Src) (late : Fin 8) (s : State) : exec (.barWaitFull d a b late) s = execBarWaitFull d a b late s := rfl
@[simp] theorem exec_barWaitPar (d : Dst) (a b : Src) (s : State) : exec (.barWaitPar d a b) s = execBarWaitPar d a b s := rfl
@[simp] theorem exec_tlWait (k : Fin 16) (d : Dst) (a : Src) (s : State) : exec (.tlWait k d a) s = execTlWait k d a s := rfl
@[simp] theorem exec_tlSig (k : Fin 16) (d : Dst) (a : Src) (s : State) : exec (.tlSig k d a) s = execTlSig k d a s := rfl
@[simp] theorem exec_cwait (d : Dst) (n : BitVec 8) (s : State) : exec (.cwait d n) s = execCwait d n s := rfl
@[simp] theorem exec_fence (sc : Scope) (d : Dst) (s : State) : exec (.fence sc d) s = execFence sc d s := rfl
@[simp] theorem exec_send (port : Fin 20) (a : Fin 16) (len : Fin 8) (sig : Bool) (nb : Option (Fin 8)) (s : State) : exec (.send port a len sig nb) s = execSend port a len sig nb s := rfl
@[simp] theorem exec_sendw (port : Fin 20) (a : Fin 16) (len : Fin 8) (sig nb : Bool) (c : Fin 16) (s : State) : exec (.sendw port a len sig nb c) s = execSendw port a len sig nb c s := rfl
@[simp] theorem exec_cfgEng (port : Fin 16) (a : Fin 16) (len : Fin 8) (c : Fin 16) (s : State) : exec (.cfgEng port a len c) s = execCfgEng port a len c s := rfl
@[simp] theorem exec_cfgFab (a : Fin 16) (len : Fin 8) (c : Fin 16) (s : State) : exec (.cfgFab a len c) s = execCfgFab a len c s := rfl
@[simp] theorem exec_cfgPhase (a : Fin 16) (len : Fin 8) (c : Fin 16) (s : State) : exec (.cfgPhase a len c) s = execCfgPhase a len c s := rfl
@[simp] theorem exec_sbind (se : Fin 8) (a : Fin 16) (len : Fin 8) (c : Fin 16) (s : State) : exec (.sbind se a len c) s = execSbind se a len c s := rfl
@[simp] theorem exec_br (off : BitVec 19) (s : State) : exec (.br off) s = execBr off s := rfl
@[simp] theorem exec_sysCall (d : Fin 16) (a : Src) (s : State) : exec (.sysCall d a) s = execSysCall d a s := rfl
@[simp] theorem exec_sysRet (a : Src) (s : State) : exec (.sysRet a) s = execSysRet a s := rfl
@[simp] theorem exec_sysTrap (k : Fin 16) (s : State) : exec (.sysTrap k) s = execSysTrap k s := rfl
@[simp] theorem exec_sysEret (s : State) : exec (.sysEret) s = execSysEret s := rfl
@[simp] theorem exec_sysSysrd (d : Dst) (a : Src) (s : State) : exec (.sysSysrd d a) s = execSysSysrd d a s := rfl
@[simp] theorem exec_sysSyswr (a b : Src) (s : State) : exec (.sysSyswr a b) s = execSysSyswr a b s := rfl
@[simp] theorem exec_sysSleep (d : Dst) (a b : Src) (s : State) : exec (.sysSleep d a b) s = execSysSleep d a b s := rfl
@[simp] theorem exec_sysScnext (d : Fin 15) (p : Fin 8) (s : State) : exec (.sysScnext d p) s = execSysScnext d p s := rfl
@[simp] theorem exec_sysRewire (d : Fin 16) (a : Src) (s : State) : exec (.sysRewire d a) s = execSysRewire d a s := rfl
@[simp] theorem exec_sysLayoutv (d : Dst) (a : Src) (s : State) : exec (.sysLayoutv d a) s = execSysLayoutv d a s := rfl
@[simp] theorem exec_loop (d : Fin 16) (imm : BitVec 9) (s : State) : exec (.loop d imm) s = execLoop d imm s := rfl
@[simp] theorem exec_ldr (n : Fin 16) (s : State) : exec (.ldr n) s = execLdr n s := rfl
@[simp] theorem exec_ldf (w : Fin 4) (off : Fin 128) (sz : RuleSize) (s : State) : exec (.ldf w off sz) s = execLdf w off sz s := rfl
@[simp] theorem exec_cmpk (off : Fin 128) (sz : RuleSize) (s : State) : exec (.cmpk off sz) s = execCmpk off sz s := rfl
@[simp] theorem exec_cmpw (w : Fin 4) (off : Fin 128) (sz : RuleSize) (s : State) : exec (.cmpw w off sz) s = execCmpw w off sz s := rfl
@[simp] theorem exec_cmpi (r : RuleReg) (imm : BitVec 11) (s : State) : exec (.cmpi r imm) s = execCmpi r imm s := rfl
@[simp] theorem exec_ruleBr (c : RuleCond) (tgt : Fin 32) (s : State) : exec (.ruleBr c tgt) s = execRuleBr c tgt s := rfl
@[simp] theorem exec_hash (w : Fin 4) (k : Fin 25) (sh : Fin 8) (mul : Bool) (s : State) : exec (.hash w k sh mul) s = execHash w k sh mul s := rfl
@[simp] theorem exec_setc (r : RuleReg) (imm : BitVec 11) (s : State) : exec (.setc r imm) s = execSetc r imm s := rfl
@[simp] theorem exec_wadd (w : Fin 4) (imm : BitVec 11) (s : State) : exec (.wadd w imm) s = execWadd w imm s := rfl
@[simp] theorem exec_follow (off : Fin 128) (s : State) : exec (.follow off) s = execFollow off s := rfl
@[simp] theorem exec_choose (off : Fin 128) (s : State) : exec (.choose off) s = execChoose off s := rfl
@[simp] theorem exec_ret (off : Fin 128) (b : Fin 8) (s : State) : exec (.ret off b) s = execRet off b s := rfl
@[simp] theorem exec_fail (code : Byte) (s : State) : exec (.fail code) s = execFail code s := rfl
@[simp] theorem exec_tokenDelivered (src : Endpoint) (s : State) : exec (.tokenDelivered src) s = execTokenDelivered src s := rfl
@[simp] theorem exec_instructionVisible (u : UnitId) (s : State) : exec (.instructionVisible u) s = execInstructionVisible u s := rfl
@[simp] theorem exec_replyArrival (id : Nat) (remote : Option RemoteAnswer) (s : State) : exec (.replyArrival id remote) s = execReplyArrival id remote s := rfl
@[simp] theorem exec_engineCompletion (core port : Nat) (s : State) : exec (.engineCompletion core port) s = execEngineCompletion core port s := rfl
@[simp] theorem exec_waitComplete (u : UnitId) (id : Nat) (s : State) : exec (.waitComplete u id) s = execWaitComplete u id s := rfl
@[simp] theorem exec_spillTimeout (src : Endpoint) (s : State) : exec (.spillTimeout src) s = execSpillTimeout src s := rfl
@[simp] theorem exec_trapTaken (core : Nat) (s : State) : exec (.trapTaken core) s = execTrapTaken core s := rfl
@[simp] theorem exec_sleepWake (core : Nat) (s : State) : exec (.sleepWake core) s = execSleepWake core s := rfl
@[simp] theorem exec_sleepTimeout (core : Nat) (s : State) : exec (.sleepTimeout core) s = execSleepTimeout core s := rfl
@[simp] theorem exec_fabricLoad (mask : Dword) (img : Dword) (s : State) : exec (.fabricLoad mask img) s = execFabricLoad mask img s := rfl
@[simp] theorem exec_fabricUnload (mask : Dword) (s : State) : exec (.fabricUnload mask) s = execFabricUnload mask s := rfl
@[simp] theorem exec_phaseCommand (pmask : BitVec 17) (s : State) : exec (.phaseCommand pmask) s = execPhaseCommand pmask s := rfl
@[simp] theorem exec_bind (base : Dword) (pat : BitVec 16) (s : State) : exec (.bind base pat) s = execBind base pat s := rfl
@[simp] theorem exec_streamTokenDeliver (core : Nat) (se : Fin 8) (s : State) : exec (.streamTokenDeliver core se) s = execStreamTokenDeliver core se s := rfl
@[simp] theorem exec_resume (core port : Nat) (s : State) : exec (.resume core port) s = execResume core port s := rfl
@[simp] theorem exec_abort (core port : Nat) (s : State) : exec (.abort core port) s = execAbort core port s := rfl
@[simp] theorem exec_signal (tl : Fin 16) (s : State) : exec (.signal tl) s = execSignal tl s := rfl
@[simp] theorem exec_copy (c : CopyCmd) (s : State) : exec (.copy c) s = execCopy c s := rfl
@[simp] theorem exec_cpEdgeWord (core : Nat) (s : State) : exec (.cpEdgeWord core) s = execCpEdgeWord core s := rfl
@[simp] theorem exec_gather (c : GatherCmd) (s : State) : exec (.gather c) s = execGather c s := rfl
@[simp] theorem exec_scatter (c : ScatterCmd) (s : State) : exec (.scatter c) s = execScatter c s := rfl
@[simp] theorem exec_conf (lsel : Bool) (shift : BitVec 5) (s : State) : exec (.conf lsel shift) s = execConf lsel shift s := rfl
@[simp] theorem exec_mask (c : MaskCmd) (s : State) : exec (.mask c) s = execMask c s := rfl
@[simp] theorem exec_list (c : ListCmd) (s : State) : exec (.list c) s = execList c s := rfl
@[simp] theorem exec_walk (c : WalkCmd) (s : State) : exec (.walk c) s = execWalk c s := rfl
@[simp] theorem exec_aditResume (core : Nat) (s : State) : exec (.aditResume core) s = execAditResume core s := rfl
@[simp] theorem exec_aditAbort (core : Nat) (s : State) : exec (.aditAbort core) s = execAditAbort core s := rfl
@[simp] theorem exec_walkMigrationArrival (core : Nat) (slot : Fin 16) (s : State) : exec (.walkMigrationArrival core slot) s = execWalkMigrationArrival core slot s := rfl
@[simp] theorem exec_recordLoadComplete (core : Nat) (slot : Fin 16) (s : State) : exec (.recordLoadComplete core slot) s = execRecordLoadComplete core slot s := rfl
@[simp] theorem exec_mnEdgeToken (core : Nat) (s : State) : exec (.mnEdgeToken core) s = execMnEdgeToken core s := rfl
@[simp] theorem exec_mma (t : MnTok) (s : State) : exec (.mma t) s = execMma t s := rfl
@[simp] theorem exec_mmat (t : MnTok) (s : State) : exec (.mmat t) s = execMmat t s := rfl
@[simp] theorem exec_mmaCsr (t : MnTok) (s : State) : exec (.mmaCsr t) s = execMmaCsr t s := rfl
@[simp] theorem exec_mmaBsr (t : MnTok) (s : State) : exec (.mmaBsr t) s = execMmaBsr t s := rfl
@[simp] theorem exec_mmaC (t : MnTok) (s : State) : exec (.mmaC t) s = execMmaC t s := rfl
@[simp] theorem exec_coopTimeout (cluster : Nat) (coopid : BitVec 32) (s : State) : exec (.coopTimeout cluster coopid) s = execCoopTimeout cluster coopid s := rfl
@[simp] theorem exec_mscan (t : MnTok) (s : State) : exec (.mscan t) s = execMscan t s := rfl
@[simp] theorem exec_mepi (t : MnTok) (s : State) : exec (.mepi t) s = execMepi t s := rfl
@[simp] theorem exec_msmQk (t : MnTok) (s : State) : exec (.msmQk t) s = execMsmQk t s := rfl
@[simp] theorem exec_msmPv (t : MnTok) (s : State) : exec (.msmPv t) s = execMsmPv t s := rfl
@[simp] theorem exec_msmFin (t : MnTok) (s : State) : exec (.msmFin t) s = execMsmFin t s := rfl
@[simp] theorem exec_msig (t : MnTok) (s : State) : exec (.msig t) s = execMsig t s := rfl
@[simp] theorem exec_mnResume (core : Nat) (s : State) : exec (.mnResume core) s = execMnResume core s := rfl
@[simp] theorem exec_mnAbort (core : Nat) (s : State) : exec (.mnAbort core) s = execMnAbort core s := rfl
@[simp] theorem exec_mpoly (t : MnTok) (s : State) : exec (.mpoly t) s = execMpoly t s := rfl
@[simp] theorem exec_miterNs (t : MnTok) (s : State) : exec (.miterNs t) s = execMiterNs t s := rfl
@[simp] theorem exec_miterGen (t : MnTok) (s : State) : exec (.miterGen t) s = execMiterGen t s := rfl
@[simp] theorem exec_mres (t : MnTok) (s : State) : exec (.mres t) s = execMres t s := rfl
@[simp] theorem exec_mfeed (t : MnTok) (s : State) : exec (.mfeed t) s = execMfeed t s := rfl
@[simp] theorem exec_mld (t : MnTok) (s : State) : exec (.mld t) s = execMld t s := rfl
@[simp] theorem exec_mst (t : MnTok) (s : State) : exec (.mst t) s = execMst t s := rfl
@[simp] theorem exec_mstZ (t : MnTok) (s : State) : exec (.mstZ t) s = execMstZ t s := rfl
@[simp] theorem exec_mstC (t : MnTok) (s : State) : exec (.mstC t) s = execMstC t s := rfl
@[simp] theorem exec_mzero (t : MnTok) (s : State) : exec (.mzero t) s = execMzero t s := rfl
@[simp] theorem exec_mcopy (t : MnTok) (s : State) : exec (.mcopy t) s = execMcopy t s := rfl
@[simp] theorem exec_msts (t : MnTok) (s : State) : exec (.msts t) s = execMsts t s := rfl
@[simp] theorem exec_mdset (t : MnTok) (w1 w2 : Quad) (s : State) : exec (.mdset t w1 w2) s = execMdset t w1 w2 s := rfl
@[simp] theorem exec_mcset (t : MnTok) (s : State) : exec (.mcset t) s = execMcset t s := rfl
@[simp] theorem exec_wset (win : Fin 16) (trapf : Bool) (w1 w2 : Quad) (s : State) : exec (.wset win trapf w1 w2) s = execWset win trapf w1 w2 s := rfl
@[simp] theorem exec_wclr (win : Fin 16) (trapf : Bool) (s : State) : exec (.wclr win trapf) s = execWclr win trapf s := rfl
@[simp] theorem exec_release (entry : Fin 32) (trapf : Bool) (s : State) : exec (.release entry trapf) s = execRelease entry trapf s := rfl
@[simp] theorem exec_inval (trapf : Bool) (vbase : BitVec 56) (size : Dword) (s : State) : exec (.inval trapf vbase size) s = execInval trapf vbase size s := rfl
@[simp] theorem exec_barRemoteArrive (peer : Option (BitVec 14)) (core : Fin 2048) (bar : Fin 2048) (count : BitVec 12) (s : State) : exec (.barRemoteArrive peer core bar count) s = execBarRemoteArrive peer core bar count s := rfl
@[simp] theorem exec_barRemoteWait (peer : Option (BitVec 14)) (core : Fin 2048) (bar : Fin 2048) (phase : BitVec 16) (s : State) : exec (.barRemoteWait peer core bar phase) s = execBarRemoteWait peer core bar phase s := rfl
@[simp] theorem exec_egress (sink : Fin 64) (tag : BitVec 3) (payload : Quad) (s : State) : exec (.egress sink tag payload) s = execEgress sink tag payload s := rfl
@[simp] theorem exec_pstore (mod : BitVec 14) (inc : BitVec 16) (pa : BitVec 48) (data : List Quad) (s : State) : exec (.pstore mod inc pa data) s = execPstore mod inc pa data s := rfl
@[simp] theorem exec_homeRead (id part : Nat) (s : State) : exec (.homeRead id part) s = execHomeRead id part s := rfl
@[simp] theorem exec_homeWrite (id part : Nat) (s : State) : exec (.homeWrite id part) s = execHomeWrite id part s := rfl
@[simp] theorem exec_homeRmw (id part : Nat) (s : State) : exec (.homeRmw id part) s = execHomeRmw id part s := rfl
@[simp] theorem exec_explicitHomeAccess (id part : Nat) (s : State) : exec (.explicitHomeAccess id part) s = execExplicitHomeAccess id part s := rfl
@[simp] theorem exec_monitorArm (id : Nat) (s : State) : exec (.monitorArm id) s = execMonitorArm id s := rfl
@[simp] theorem exec_dramDataReturn (slice line : Nat) (s : State) : exec (.dramDataReturn slice line) s = execDramDataReturn slice line s := rfl
@[simp] theorem exec_chuteDrain (slice : Nat) (s : State) : exec (.chuteDrain slice) s = execChuteDrain slice s := rfl
@[simp] theorem exec_viewLineFill (line : Nat) (s : State) : exec (.viewLineFill line) s = execViewLineFill line s := rfl
@[simp] theorem exec_wbinv (slice : Nat) (s : State) : exec (.wbinv slice) s = execWbinv slice s := rfl
@[simp] theorem exec_replay (id part : Nat) (s : State) : exec (.replay id part) s = execReplay id part s := rfl
@[simp] theorem exec_launchWaitsHold (l : Nat) (s : State) : exec (.launchWaitsHold l) s = execLaunchWaitsHold l s := rfl
@[simp] theorem exec_launchRelease (l : Nat) (s : State) : exec (.launchRelease l) s = execLaunchRelease l s := rfl
@[simp] theorem exec_launchComplete (l : Nat) (s : State) : exec (.launchComplete l) s = execLaunchComplete l s := rfl
@[simp] theorem exec_remExhausted (part : Nat) (s : State) : exec (.remExhausted part) s = execRemExhausted part s := rfl
@[simp] theorem exec_budgetExhausted (l : Nat) (s : State) : exec (.budgetExhausted l) s = execBudgetExhausted l s := rfl
@[simp] theorem exec_kerfBegin (l : Nat) (s : State) : exec (.kerfBegin l) s = execKerfBegin l s := rfl
@[simp] theorem exec_kerfMarkerArrival (src : Endpoint) (s : State) : exec (.kerfMarkerArrival src) s = execKerfMarkerArrival src s := rfl
@[simp] theorem exec_elementFreeze (u : UnitId) (s : State) : exec (.elementFreeze u) s = execElementFreeze u s := rfl
@[simp] theorem exec_ceFreeze (core : Nat) (s : State) : exec (.ceFreeze core) s = execCeFreeze core s := rfl
@[simp] theorem exec_engineSave (core port : Nat) (s : State) : exec (.engineSave core port) s = execEngineSave core port s := rfl
@[simp] theorem exec_cutComplete (l : Nat) (s : State) : exec (.cutComplete l) s = execCutComplete l s := rfl
@[simp] theorem exec_launchRestore (l : Nat) (s : State) : exec (.launchRestore l) s = execLaunchRestore l s := rfl
@[simp] theorem exec_rewireDrainFreeze (u : UnitId) (s : State) : exec (.rewireDrainFreeze u) s = execRewireDrainFreeze u s := rfl
@[simp] theorem exec_rewireComplete (l : Nat) (s : State) : exec (.rewireComplete l) s = execRewireComplete l s := rfl
@[simp] theorem exec_powerOn (verified : Bool) (s : State) : exec (.powerOn verified) s = execPowerOn verified s := rfl
@[simp] theorem exec_debtLimitReached (part : Nat) (s : State) : exec (.debtLimitReached part) s = execDebtLimitReached part s := rfl
@[simp] theorem exec_registerWrite (r : SliceReg) (value : Dword) (s : State) : exec (.registerWrite r value) s = execRegisterWrite r value s := rfl
@[simp] theorem exec_rootLoad (c : RootCmd) (object : List Byte) (s : State) : exec (.rootLoad c object) s = execRootLoad c object s := rfl
@[simp] theorem exec_launch (c : RootCmd) (object : Nat) (args : List Dword) (s : State) : exec (.launch c object args) s = execLaunch c object args s := rfl
@[simp] theorem exec_resumeBudget (c : RootCmd) (handle : Nat) (budget : BitVec 32) (s : State) : exec (.resumeBudget c handle budget) s = execResumeBudget c handle budget s := rfl
@[simp] theorem exec_policyRegister (c : RootCmd) (handle : Nat) (sig : List Byte) (s : State) : exec (.policyRegister c handle sig) s = execPolicyRegister c handle sig s := rfl
@[simp] theorem exec_create (c : RootCmd) (spec : CreateSpec) (s : State) : exec (.create c spec) s = execCreate c spec s := rfl
@[simp] theorem exec_destroy (c : RootCmd) (handle : Nat) (s : State) : exec (.destroy c handle) s = execDestroy c handle s := rfl
@[simp] theorem exec_pause (c : RootCmd) (handle : Nat) (s : State) : exec (.pause c handle) s = execPause c handle s := rfl
@[simp] theorem exec_launchResume (c : RootCmd) (handle : Nat) (s : State) : exec (.launchResume c handle) s = execLaunchResume c handle s := rfl
@[simp] theorem exec_evict (c : RootCmd) (handle : Nat) (s : State) : exec (.evict c handle) s = execEvict c handle s := rfl
@[simp] theorem exec_qset (c : RootCmd) (handle : Nat) (value : Dword) (s : State) : exec (.qset c handle value) s = execQset c handle value s := rfl
@[simp] theorem exec_harvest (c : RootCmd) (handle : Nat) (s : State) : exec (.harvest c handle) s = execHarvest c handle s := rfl
@[simp] theorem exec_keyExport (c : RootCmd) (handle : Nat) (peerAttested : Bool) (s : State) : exec (.keyExport c handle peerAttested) s = execKeyExport c handle peerAttested s := rfl
@[simp] theorem exec_featackWrite (value : BitVec 256) (s : State) : exec (.featackWrite value) s = execFeatackWrite value s := rfl
@[simp] theorem exec_quiesce (c : RootCmd) (stack : Fin 8) (s : State) : exec (.quiesce c stack) s = execQuiesce c stack s := rfl
@[simp] theorem exec_recal (c : RootCmd) (stack : Fin 8) (s : State) : exec (.recal c stack) s = execRecal c stack s := rfl
@[simp] theorem exec_update (c : RootCmd) (stack : Fin 8) (firmware : List Byte) (verified : Bool) (s : State) : exec (.update c stack firmware verified) s = execUpdate c stack firmware verified s := rfl
@[simp] theorem exec_retire (c : RootCmd) (stack : Fin 8) (s : State) : exec (.retire c stack) s = execRetire c stack s := rfl
@[simp] theorem exec_hostWrite (via : HostVia) (t : HostTarget) (s : State) :
    exec (.hostWrite via t) s = execHostWrite via t s := rfl
@[simp] theorem exec_hostRead (via : HostVia) (t : HostSource) (s : State) :
    exec (.hostRead via t) s = execHostRead via t s := rfl
@[simp] theorem exec_doorbellTrigger (part source : Nat) (tag : BitVec 3) (s : State) : exec (.doorbellTrigger part source tag) s = execDoorbellTrigger part source tag s := rfl
@[simp] theorem exec_egressRingSetup (part base k : Nat) (s : State) : exec (.egressRingSetup part base k) s = execEgressRingSetup part base k s := rfl
@[simp] theorem exec_egressHeadWrite (part released : Nat) (s : State) : exec (.egressHeadWrite part released) s = execEgressHeadWrite part released s := rfl
@[simp] theorem exec_remoteRequest (mod : BitVec 14) (inc : BitVec 16) (place : PeerPlace) (op : PeerOp) (s : State) :
    exec (.remoteRequest mod inc place op) s = execRemoteRequest mod inc place op s := rfl
@[simp] theorem exec_linkLoss (mod : BitVec 14) (s : State) : exec (.linkLoss mod) s = execLinkLoss mod s := rfl
@[simp] theorem exec_linkTimeout (mod : BitVec 14) (s : State) : exec (.linkTimeout mod) s = execLinkTimeout mod s := rfl
@[simp] theorem exec_softError (parts : List Nat) (s : State) : exec (.softError parts) s = execSoftError parts s := rfl
@[simp] theorem exec_uncorrectableError (u : ErrorUnit) (s : State) : exec (.uncorrectableError u) s = execUncorrectableError u s := rfl
@[simp] theorem exec_stageAdvance (badstk : Byte) (s : State) : exec (.stageAdvance badstk) s = execStageAdvance badstk s := rfl
@[simp] theorem exec_spareReplace (u : SpareUnit) (s : State) : exec (.spareReplace u) s = execSpareReplace u s := rfl
@[simp] theorem exec_linkRestored (mod : BitVec 14) (inc : BitVec 16) (s : State) : exec (.linkRestored mod inc) s = execLinkRestored mod inc s := rfl
@[simp] theorem exec_domainJoin (id : BitVec 14) (s : State) : exec (.domainJoin id) s = execDomainJoin id s := rfl
@[simp] theorem exec_tdispRequest (part : Nat) (r : TdispReq) (s : State) : exec (.tdispRequest part r) s = execTdispRequest part r s := rfl
@[simp] theorem exec_spdmRequest (r : SpdmReq) (s : State) : exec (.spdmRequest r) s = execSpdmRequest r s := rfl
@[simp] theorem exec_flashUpdate (image : List Byte) (verified : Bool) (s : State) : exec (.flashUpdate image verified) s = execFlashUpdate image verified s := rfl
@[simp] theorem exec_formatWindowInstall (w : Fin 16) (cfg : FormatWindow) (s : State) : exec (.formatWindowInstall w cfg) s = execFormatWindowInstall w cfg s := rfl
@[simp] theorem exec_formatWindowRemove (w : Fin 16) (s : State) : exec (.formatWindowRemove w) s = execFormatWindowRemove w s := rfl
@[simp] theorem exec_fwstatClear (w : Fin 16) (mask : BitVec 7) (s : State) : exec (.fwstatClear w mask) s = execFwstatClear w mask s := rfl
@[simp] theorem exec_idtWrite (ix : Fin 16) (value : Quad) (s : State) : exec (.idtWrite ix value) s = execIdtWrite ix value s := rfl
@[simp] theorem exec_domainChange (lo hi : Nat) (entries : List (Fin 16 × Quad)) (s : State) : exec (.domainChange lo hi entries) s = execDomainChange lo hi entries s := rfl
@[simp] theorem exec_routerReadMerge (newer newerPart older olderPart : Nat) (s : State) : exec (.routerReadMerge newer newerPart older olderPart) s = execRouterReadMerge newer newerPart older olderPart s := rfl
@[simp] theorem exec_viewLineWriteback (line : Nat) (s : State) : exec (.viewLineWriteback line) s = execViewLineWriteback line s := rfl
@[simp] theorem exec_clone (l op : Nat) (repl drun : Nat) (s : State) : exec (.clone l op repl drun) s = execClone l op repl drun s := rfl
@[simp] theorem exec_unclone (l op : Nat) (s : State) : exec (.unclone l op) s = execUnclone l op s := rfl
@[simp] theorem exec_fold (l opa opb : Nat) (s : State) : exec (.fold l opa opb) s = execFold l opa opb s := rfl
@[simp] theorem exec_unfold (l op : Nat) (s : State) : exec (.unfold l op) s = execUnfold l op s := rfl
@[simp] theorem exec_aditSignal (s : State) : exec (.aditSignal) s = execAditSignal s := rfl
@[simp] theorem exec_pstat (s : State) : exec (.pstat) s = execPstat s := rfl
@[simp] theorem exec_psig (s : State) : exec (.psig) s = execPsig s := rfl
@[simp] theorem exec_stockpileDecay (s : State) : exec (.stockpileDecay) s = execStockpileDecay s := rfl
@[simp] theorem exec_timestampRenormalise (s : State) : exec (.timestampRenormalise) s = execTimestampRenormalise s := rfl
@[simp] theorem exec_domainRelease (s : State) : exec (.domainRelease) s = execDomainRelease s := rfl
@[simp] theorem exec_launchChoose (s : State) : exec (.launchChoose) s = execLaunchChoose s := rfl
@[simp] theorem exec_periodStart (s : State) : exec (.periodStart) s = execPeriodStart s := rfl
@[simp] theorem exec_measureWindowEnd (s : State) : exec (.measureWindowEnd) s = execMeasureWindowEnd s := rfl
@[simp] theorem exec_moduleReset (s : State) : exec (.moduleReset) s = execModuleReset s := rfl
@[simp] theorem exec_retw (s : State) : exec (.retw) s = execRetw s := rfl
@[simp] theorem exec_miss (s : State) : exec (.miss) s = execMiss s := rfl
@[simp] theorem exec_idle (s : State) : exec (.idle) s = execIdle s := rfl
@[simp] theorem exec_nop (s : State) : exec (.nop) s = execNop s := rfl

end Sys2Proof.Machine
end

