-- ==== Sys2Proof/Laws/Memory.lean ====
section
/-! SUPPORT. Memory: reads after writes, and that every write keeps the canonical form. -/

namespace Sys2Proof.Machine

open Sys2Proof

/-- Every key of a list in canonical form from a bound on lies at or above it. -/
theorem Memory.read_below {lo a : Nat} {m : Tbl Byte} (h : Memory.wfFrom lo m = true) (ha : a < lo) :
    Memory.read m a = unlisted := by
  induction m generalizing lo with
  | nil => rfl
  | cons e t ih =>
    obtain ⟨k, v⟩ := e
    simp only [Memory.wfFrom, Bool.and_eq_true, decide_eq_true_eq] at h
    have hk : k ≠ a := by omega
    simp only [Memory.read, tget, hk, ↓reduceIte]
    exact ih h.2 (by omega)

theorem Memory.wfFrom_mono {lo lo' : Nat} {m : Tbl Byte} (h : Memory.wfFrom lo m = true) (hl : lo' ≤ lo) :
    Memory.wfFrom lo' m = true := by
  cases m with
  | nil => rfl
  | cons e t =>
    obtain ⟨k, v⟩ := e
    simp only [Memory.wfFrom, Bool.and_eq_true, decide_eq_true_eq] at h ⊢
    exact ⟨⟨by omega, h.1.2⟩, h.2⟩

theorem Memory.write_wfFrom {lo a : Nat} {m : Tbl Byte} (b : Byte) (h : Memory.wfFrom lo m = true) (ha : lo ≤ a) :
    Memory.wfFrom lo (Memory.write m a b) = true := by
  induction m generalizing lo with
  | nil =>
    simp only [Memory.write]
    split <;> simp_all [Memory.wfFrom]
  | cons e t ih =>
    obtain ⟨k, v⟩ := e
    have h0 := h
    simp only [Memory.wfFrom, Bool.and_eq_true, decide_eq_true_eq] at h
    obtain ⟨⟨h1, h2⟩, h3⟩ := h
    simp only [Memory.write]
    split
    · split
      · exact h0
      · rename_i hlt hb
        simp only [Memory.wfFrom, Bool.and_eq_true, decide_eq_true_eq]
        exact ⟨⟨ha, by simpa using hb⟩, ⟨by omega, h2⟩, h3⟩
    · split
      · split
        · exact Memory.wfFrom_mono h3 (by omega)
        · rename_i hb
          subst_vars
          simp only [Memory.wfFrom, Bool.and_eq_true, decide_eq_true_eq]
          exact ⟨⟨ha, by simpa using hb⟩, h3⟩
      · simp only [Memory.wfFrom, Bool.and_eq_true, decide_eq_true_eq]
        exact ⟨⟨h1, h2⟩, ih h3 (by omega)⟩

/-- A write of one byte keeps the canonical form. -/
theorem Memory.write_wf {m : Tbl Byte} (a : Nat) (b : Byte) (h : Memory.wf m = true) : Memory.wf (Memory.write m a b) = true :=
  Memory.write_wfFrom b h (Nat.zero_le a)

/-- A write of bytes keeps the canonical form. -/
theorem Memory.writeN_wf {m : Tbl Byte} (a : Nat) (bs : List Byte) (h : Memory.wf m = true) :
    Memory.wf (Memory.writeN m a bs) = true := by
  induction bs generalizing m a with
  | nil => exact h
  | cons b bs ih => exact ih (a + 1) (Memory.write_wf a b h)

/-- What is left of a memory in canonical form, whichever cells are taken away, is in canonical form. -/
theorem Memory.filter_wfFrom {lo : Nat} {m : Tbl Byte} (p : Nat × Byte → Bool) (h : Memory.wfFrom lo m = true) :
    Memory.wfFrom lo (m.filter p) = true := by
  induction m generalizing lo with
  | nil => rfl
  | cons e t ih =>
    obtain ⟨k, v⟩ := e
    simp only [Memory.wfFrom, Bool.and_eq_true, decide_eq_true_eq] at h
    simp only [List.filter_cons]
    split
    · simp only [Memory.wfFrom, Bool.and_eq_true, decide_eq_true_eq]
      exact ⟨h.1, ih h.2⟩
    · exact Memory.wfFrom_mono (ih h.2) (by omega)

theorem Memory.filter_wf {m : Tbl Byte} (p : Nat × Byte → Bool) (h : Memory.wf m = true) : Memory.wf (m.filter p) = true :=
  Memory.filter_wfFrom p h

theorem Memory.read_write_same {m : Tbl Byte} (a : Nat) (b : Byte) (h : Memory.wf m = true) :
    Memory.read (Memory.write m a b) a = b := by
  suffices ∀ lo, Memory.wfFrom lo m = true → Memory.read (Memory.write m a b) a = b from this 0 h
  clear h
  induction m with
  | nil =>
    intro lo _
    simp only [Memory.write]
    split
    · rename_i hb; simp [Memory.read, tget, hb]
    · simp [Memory.read, tget]
  | cons e t ih =>
    obtain ⟨k, v⟩ := e
    intro lo h
    have h0 := h
    simp only [Memory.wfFrom, Bool.and_eq_true, decide_eq_true_eq] at h
    simp only [Memory.write]
    split
    · rename_i hlt
      split
      · rename_i hb
        have hk : k ≠ a := by omega
        simp only [Memory.read, tget, hk, ↓reduceIte]
        exact (Memory.read_below h.2 (by omega)).trans hb.symm
      · simp [Memory.read, tget]
    · split
      · split
        · rename_i hb
          subst_vars
          exact Memory.read_below h.2 (by omega)
        · simp [Memory.read, tget]
      · rename_i hk
        simp only [Memory.read, tget, Ne.symm hk, ↓reduceIte]
        exact ih (k + 1) h.2

theorem Memory.read_write_of_ne {m : Tbl Byte} {a c : Nat} (b : Byte) (h : a ≠ c) :
    Memory.read (Memory.write m a b) c = Memory.read m c := by
  induction m with
  | nil =>
    simp only [Memory.write]
    split <;> simp [Memory.read, tget, h]
  | cons e t ih =>
    obtain ⟨k, v⟩ := e
    simp only [Memory.write]
    split
    · split <;> simp [Memory.read, tget, h]
    · split
      · rename_i hk
        subst hk
        split <;> simp [Memory.read, tget, h]
      · simp only [Memory.read, tget]
        split
        · rfl
        · exact ih

/-- A write of bytes leaves every byte outside them alone. -/
theorem Memory.read_writeN_outside {m : Tbl Byte} {a c : Nat} (bs : List Byte) (h : c < a ∨ a + bs.length ≤ c) :
    Memory.read (Memory.writeN m a bs) c = Memory.read m c := by
  induction bs generalizing m a with
  | nil => rfl
  | cons b bs ih =>
    simp only [List.length_cons] at h
    simp only [Memory.writeN]
    rw [ih (by omega), Memory.read_write_of_ne b (by omega)]

/-- What a write of bytes wrote is read back. -/
theorem Memory.readN_writeN {m : Tbl Byte} (a : Nat) (bs : List Byte) (h : Memory.wf m = true) :
    Memory.readN (Memory.writeN m a bs) a bs.length = bs := by
  induction bs generalizing m a with
  | nil => rfl
  | cons b bs ih =>
    simp only [List.length_cons, Memory.readN, Memory.writeN, List.cons.injEq]
    exact ⟨by rw [Memory.read_writeN_outside bs (by omega), Memory.read_write_same a b h], ih (a + 1) (Memory.write_wf a b h)⟩

/-! ## Bytes and numbers -/

@[simp] theorem leBytes_length (n x : Nat) : (leBytes n x).length = n := by
  induction n generalizing x with
  | zero => rfl
  | succ n ih => simp [leBytes, ih]

theorem leNat_leBytes (n x : Nat) : leNat (leBytes n x) = x % 256 ^ n := by
  induction n generalizing x with
  | zero => simp [leBytes, leNat, Nat.mod_one]
  | succ n ih =>
    simp only [leBytes, leNat, ih, BitVec.toNat_ofNat, Nat.reducePow]
    rw [Nat.pow_succ', Nat.mod_mul]

@[simp] theorem readN_length (m : Tbl Byte) (a n : Nat) : (Memory.readN m a n).length = n := by
  induction n generalizing a with
  | zero => rfl
  | succ n ih => simp [Memory.readN, ih]

end Sys2Proof.Machine
end

