-- ==== Sys2Proof/Laws/Table.lean ====
section
/-! SUPPORT. Keyed lists: what a lookup finds after a put or a delete. -/

namespace Sys2Proof.Machine

open Sys2Proof

variable {α : Type} (d : α)

@[simp] theorem tget_nil (i : Nat) : tget d [] i = d := rfl

@[simp] theorem tget_cons (k i : Nat) (v : α) (t : Tbl α) : tget d ((k, v) :: t) i = if k = i then v else tget d t i := rfl

@[simp] theorem tget_tput_same (t : Tbl α) (i : Nat) (x : α) : tget d (tput t i x) i = x := by
  induction t with
  | nil => simp [tput]
  | cons e t ih =>
    obtain ⟨k, v⟩ := e
    simp only [tput]
    split
    · simp
    · split
      · simp
      · rename_i h; simp [ih, Ne.symm h]

theorem tget_tput_of_ne (t : Tbl α) {i j : Nat} (h : i ≠ j) (x : α) : tget d (tput t i x) j = tget d t j := by
  induction t with
  | nil => simp [tput, h]
  | cons e t ih =>
    obtain ⟨k, v⟩ := e
    simp only [tput]
    split
    · simp [h]
    · split
      · rename_i hk; subst hk; simp [h]
      · simp [ih]

theorem tget_tput (t : Tbl α) (i j : Nat) (x : α) : tget d (tput t i x) j = if i = j then x else tget d t j := by
  by_cases h : i = j
  · subst h; simp
  · simp [h, tget_tput_of_ne d t h]

@[simp] theorem tfind_tput_same (t : Tbl α) (i : Nat) (x : α) : tfind (tput t i x) i = some x := by
  induction t with
  | nil => simp [tput, tfind]
  | cons e t ih =>
    obtain ⟨k, v⟩ := e
    simp only [tput]
    split
    · simp [tfind]
    · split
      · simp [tfind]
      · rename_i h; simp [tfind, ih, Ne.symm h]

theorem tfind_tput_of_ne (t : Tbl α) {i j : Nat} (h : i ≠ j) (x : α) : tfind (tput t i x) j = tfind t j := by
  induction t with
  | nil => simp [tput, tfind, h]
  | cons e t ih =>
    obtain ⟨k, v⟩ := e
    simp only [tput]
    split
    · simp [tfind, h]
    · split
      · rename_i hk; subst hk; simp [tfind, h]
      · simp [tfind, ih]

/-- A lookup is the listed entry, or the default of its kind. -/
theorem tget_eq_tfind (t : Tbl α) (i : Nat) : tget d t i = (tfind t i).getD d := by
  induction t with
  | nil => rfl
  | cons e t ih =>
    obtain ⟨k, v⟩ := e
    simp only [tget_cons, tfind]
    split <;> simp [ih]

@[simp] theorem tfind_tdel_same (t : Tbl α) (i : Nat) : tfind (tdel t i) i = none := by
  induction t with
  | nil => rfl
  | cons e t ih =>
    obtain ⟨k, v⟩ := e
    by_cases h : k = i
    · subst h; simpa [tdel, List.filter_cons] using ih
    · simpa [tdel, List.filter_cons, tfind, h] using ih

theorem tfind_tdel_of_ne (t : Tbl α) {i j : Nat} (h : i ≠ j) : tfind (tdel t i) j = tfind t j := by
  induction t with
  | nil => rfl
  | cons e t ih =>
    obtain ⟨k, v⟩ := e
    by_cases hk : k = i
    · subst hk; simpa [tdel, List.filter_cons, tfind, h] using ih
    · simp only [tdel, List.filter_cons, ne_eq, hk, not_false_eq_true, decide_true, ↓reduceIte, tfind]
      split
      · rfl
      · exact ih

@[simp] theorem tget_tdel_same (t : Tbl α) (i : Nat) : tget d (tdel t i) i = d := by simp [tget_eq_tfind]

theorem tget_tdel_of_ne (t : Tbl α) {i j : Nat} (h : i ≠ j) : tget d (tdel t i) j = tget d t j := by
  simp [tget_eq_tfind, tfind_tdel_of_ne t h]

end Sys2Proof.Machine
end

