-- ==== Sys2Proof/Laws/State.lean ====
section
/-! SUPPORT. State: what each update leaves alone, field by field, and what a read finds after it. -/

namespace Sys2Proof.Machine

open Sys2Proof

/-! ## Reads after updates -/

@[simp] theorem getCore_setCore_same (s : State) (k : Nat) (c : Core) : getCore (setCore s k c) k = c := by
  simp [getCore, setCore]

theorem getCore_setCore_of_ne (s : State) {k j : Nat} (h : k ≠ j) (c : Core) : getCore (setCore s k c) j = getCore s j := by
  simp [getCore, setCore, tget_tput_of_ne _ _ h]

theorem getCore_setCore (s : State) (k j : Nat) (c : Core) :
    getCore (setCore s k c) j = if k = j then c else getCore s j := by
  simp [getCore, setCore, tget_tput]

@[simp] theorem getElem_setElem_same (s : State) (u : UnitId) (e : Elem) : Machine.getElem (setElem s u e) u = e := by
  simp [Machine.getElem, setElem]

theorem getElem_setElem_of_ne (s : State) {u v : UnitId} (h : u ≠ v) (e : Elem) :
    Machine.getElem (setElem s u e) v = Machine.getElem s v := by
  simp only [Machine.getElem, setElem, getCore_setCore]
  split
  · rename_i hc
    have hi : u.ix ≠ v.ix := by
      intro hi
      apply h
      cases u; cases v; simp_all
    simp [hc, tget_tput_of_ne _ _ hi]
  · rfl

@[simp] theorem getCtl_setElem (s : State) (u : UnitId) (e : Elem) (k : Nat) : getCtl (setElem s u e) k = getCtl s k := by
  simp only [getCtl, setElem, getCore_setCore]
  split
  · rename_i h; subst h; rfl
  · rfl

@[simp] theorem getCtl_setCtl_same (s : State) (k : Nat) (x : Ctl) : getCtl (setCtl s k x) k = x := by
  simp [getCtl, setCtl]

theorem getCtl_setCtl_of_ne (s : State) {k j : Nat} (h : k ≠ j) (x : Ctl) : getCtl (setCtl s k x) j = getCtl s j := by
  simp [getCtl, setCtl, getCore_setCore_of_ne s h]

@[simp] theorem getElem_setCtl (s : State) (k : Nat) (x : Ctl) (u : UnitId) :
    Machine.getElem (setCtl s k x) u = Machine.getElem s u := by
  simp only [Machine.getElem, setCtl, getCore_setCore]
  split
  · rename_i h; subst h; rfl
  · rfl

@[simp] theorem getSlice_setSlice_same (s : State) (n : Nat) (x : Slice) : getSlice (setSlice s n x) n = x := by
  simp [getSlice, setSlice]

theorem getSlice_setSlice_of_ne (s : State) {n m : Nat} (h : n ≠ m) (x : Slice) :
    getSlice (setSlice s n x) m = getSlice s m := by
  simp [getSlice, setSlice, tget_tput_of_ne _ _ h]

@[simp] theorem getCore_setSlice (s : State) (n k : Nat) (x : Slice) : getCore (setSlice s n x) k = getCore s k := rfl
@[simp] theorem getElem_nextUp (s : State) (l : List Instr) (u : UnitId) :
    Machine.getElem (nextUp s l) u = Machine.getElem s u := rfl
@[simp] theorem getCore_nextUp (s : State) (l : List Instr) (k : Nat) : getCore (nextUp s l) k = getCore s k := rfl
@[simp] theorem getCtl_nextUp (s : State) (l : List Instr) (k : Nat) : getCtl (nextUp s l) k = getCtl s k := rfl

@[simp] theorem Core.queue_setQueue_same (c : Core) (n : Nat) (q : Queue) : (c.setQueue n q).queue n = q := by
  simp [Core.queue, Core.setQueue]
theorem Core.queue_setQueue_of_ne (c : Core) {n m : Nat} (h : n ≠ m) (q : Queue) : (c.setQueue n q).queue m = c.queue m := by
  simp [Core.queue, Core.setQueue, tget_tput_of_ne _ _ h]
@[simp] theorem Core.bar_setBar_same (c : Core) (n : Nat) (b : Barrier) : (c.setBar n b).bar n = b := by
  simp [Core.bar, Core.setBar]
theorem Core.bar_setBar_of_ne (c : Core) {n m : Nat} (h : n ≠ m) (b : Barrier) : (c.setBar n b).bar m = c.bar m := by
  simp [Core.bar, Core.setBar, tget_tput_of_ne _ _ h]
@[simp] theorem Core.port_setPort_same (c : Core) (n : Nat) (p : Port) : (c.setPort n p).port n = p := by
  simp [Core.port, Core.setPort]
theorem Core.port_setPort_of_ne (c : Core) {n m : Nat} (h : n ≠ m) (p : Port) : (c.setPort n p).port m = c.port m := by
  simp [Core.port, Core.setPort, tget_tput_of_ne _ _ h]

@[simp] theorem Elem.dreg_setD_same (e : Elem) (n : Nat) (v : Quad) : (e.setD n v).dreg n = v := by
  simp [Elem.dreg, Elem.setD]
theorem Elem.dreg_setD_of_ne (e : Elem) {n m : Nat} (h : n ≠ m) (v : Quad) : (e.setD n v).dreg m = e.dreg m := by
  simp [Elem.dreg, Elem.setD, tget_tput_of_ne _ _ h]
@[simp] theorem Elem.areg_setA_same (e : Elem) (n : Nat) (v : Word) : (e.setA n v).areg n = v := by
  simp [Elem.areg, Elem.setA]
theorem Elem.areg_setA_of_ne (e : Elem) {n m : Nat} (h : n ≠ m) (v : Word) : (e.setA n v).areg m = e.areg m := by
  simp [Elem.areg, Elem.setA, tget_tput_of_ne _ _ h]
@[simp] theorem Elem.inCh_setIn_same (e : Elem) (n : Nat) (c : InChan) : (e.setIn n c).inCh n = c := by
  simp [Elem.inCh, Elem.setIn]
theorem Elem.inCh_setIn_of_ne (e : Elem) {n m : Nat} (h : n ≠ m) (c : InChan) : (e.setIn n c).inCh m = e.inCh m := by
  simp [Elem.inCh, Elem.setIn, tget_tput_of_ne _ _ h]
@[simp] theorem Elem.outCh_setOut_same (e : Elem) (n : Nat) (c : OutChan) : (e.setOut n c).outCh n = c := by
  simp [Elem.outCh, Elem.setOut]
theorem Elem.outCh_setOut_of_ne (e : Elem) {n m : Nat} (h : n ≠ m) (c : OutChan) : (e.setOut n c).outCh m = e.outCh m := by
  simp [Elem.outCh, Elem.setOut, tget_tput_of_ne _ _ h]

theorem Elem.run_setRun (e : Elem) {r : Nat} (h : r < 4) : (e.setRun r).run = r := by
  simp only [Elem.run, Elem.setRun, BitVec.toNat_ofNat]
  have := e.estat.isLt
  omega
theorem Elem.run_stop (e : Elem) (n c : Nat) : (e.stop n c).run = 2 := by
  simp only [Elem.run, Elem.stop, BitVec.toNat_ofNat]
  omega
theorem Elem.cause_stop (e : Elem) (n : Nat) {c : Nat} (h : c < 1024) : (e.stop n c).cause = c := by
  simp only [Elem.cause, Elem.stop, BitVec.toNat_ofNat]
  omega
theorem Elem.fslot_stop (e : Elem) {n : Nat} (h : n < 32) (c : Nat) : (e.stop n c).fslot = n := by
  simp only [Elem.fslot, Elem.stop, BitVec.toNat_ofNat]
  omega

/-! ## Updates of State -/

@[simp] theorem setCore_cycle (s : State) (k : Nat) (c : Core) : (setCore s k c).cycle = s.cycle := rfl
@[simp] theorem setCore_agenda (s : State) (k : Nat) (c : Core) : (setCore s k c).agenda = s.agenda := rfl
@[simp] theorem setCore_inbox (s : State) (k : Nat) (c : Core) : (setCore s k c).inbox = s.inbox := rfl
@[simp] theorem setCore_actor (s : State) (k : Nat) (c : Core) : (setCore s k c).actor = s.actor := rfl
@[simp] theorem setCore_mem (s : State) (k : Nat) (c : Core) : (setCore s k c).mem = s.mem := rfl
@[simp] theorem setCore_poison (s : State) (k : Nat) (c : Core) : (setCore s k c).poison = s.poison := rfl
@[simp] theorem setCore_slices (s : State) (k : Nat) (c : Core) : (setCore s k c).slices = s.slices := rfl
@[simp] theorem setCore_homes (s : State) (k : Nat) (c : Core) : (setCore s k c).homes = s.homes := rfl
@[simp] theorem setCore_reqs (s : State) (k : Nat) (c : Core) : (setCore s k c).reqs = s.reqs := rfl
@[simp] theorem setCore_nextReq (s : State) (k : Nat) (c : Core) : (setCore s k c).nextReq = s.nextReq := rfl
@[simp] theorem setCore_stamps (s : State) (k : Nat) (c : Core) : (setCore s k c).stamps = s.stamps := rfl
@[simp] theorem setCore_edges (s : State) (k : Nat) (c : Core) : (setCore s k c).edges = s.edges := rfl
@[simp] theorem setCore_idt (s : State) (k : Nat) (c : Core) : (setCore s k c).idt = s.idt := rfl
@[simp] theorem setCore_fw (s : State) (k : Nat) (c : Core) : (setCore s k c).fw = s.fw := rfl
@[simp] theorem setCore_parts (s : State) (k : Nat) (c : Core) : (setCore s k c).parts = s.parts := rfl
@[simp] theorem setCore_links (s : State) (k : Nat) (c : Core) : (setCore s k c).links = s.links := rfl
@[simp] theorem setCore_launches (s : State) (k : Nat) (c : Core) : (setCore s k c).launches = s.launches := rfl
@[simp] theorem setCore_root (s : State) (k : Nat) (c : Core) : (setCore s k c).root = s.root := rfl
@[simp] theorem setCore_served (s : State) (k : Nat) (c : Core) : (setCore s k c).served = s.served := rfl
@[simp] theorem setCore_submitted (s : State) (k : Nat) (c : Core) : (setCore s k c).submitted = s.submitted := rfl
@[simp] theorem setCore_moduleId (s : State) (k : Nat) (c : Core) : (setCore s k c).moduleId = s.moduleId := rfl
@[simp] theorem setCore_inc (s : State) (k : Nat) (c : Core) : (setCore s k c).inc = s.inc := rfl
@[simp] theorem setCore_hostClock (s : State) (k : Nat) (c : Core) : (setCore s k c).hostClock = s.hostClock := rfl
@[simp] theorem setCore_peerClock (s : State) (k : Nat) (c : Core) : (setCore s k c).peerClock = s.peerClock := rfl
@[simp] theorem setCore_sent (s : State) (k : Nat) (c : Core) : (setCore s k c).sent = s.sent := rfl
@[simp] theorem setCore_change (s : State) (k : Nat) (c : Core) : (setCore s k c).change = s.change := rfl
@[simp] theorem setElem_cycle (s : State) (u : UnitId) (e : Elem) : (setElem s u e).cycle = s.cycle := rfl
@[simp] theorem setElem_agenda (s : State) (u : UnitId) (e : Elem) : (setElem s u e).agenda = s.agenda := rfl
@[simp] theorem setElem_inbox (s : State) (u : UnitId) (e : Elem) : (setElem s u e).inbox = s.inbox := rfl
@[simp] theorem setElem_actor (s : State) (u : UnitId) (e : Elem) : (setElem s u e).actor = s.actor := rfl
@[simp] theorem setElem_mem (s : State) (u : UnitId) (e : Elem) : (setElem s u e).mem = s.mem := rfl
@[simp] theorem setElem_poison (s : State) (u : UnitId) (e : Elem) : (setElem s u e).poison = s.poison := rfl
@[simp] theorem setElem_slices (s : State) (u : UnitId) (e : Elem) : (setElem s u e).slices = s.slices := rfl
@[simp] theorem setElem_homes (s : State) (u : UnitId) (e : Elem) : (setElem s u e).homes = s.homes := rfl
@[simp] theorem setElem_reqs (s : State) (u : UnitId) (e : Elem) : (setElem s u e).reqs = s.reqs := rfl
@[simp] theorem setElem_nextReq (s : State) (u : UnitId) (e : Elem) : (setElem s u e).nextReq = s.nextReq := rfl
@[simp] theorem setElem_stamps (s : State) (u : UnitId) (e : Elem) : (setElem s u e).stamps = s.stamps := rfl
@[simp] theorem setElem_edges (s : State) (u : UnitId) (e : Elem) : (setElem s u e).edges = s.edges := rfl
@[simp] theorem setElem_idt (s : State) (u : UnitId) (e : Elem) : (setElem s u e).idt = s.idt := rfl
@[simp] theorem setElem_fw (s : State) (u : UnitId) (e : Elem) : (setElem s u e).fw = s.fw := rfl
@[simp] theorem setElem_parts (s : State) (u : UnitId) (e : Elem) : (setElem s u e).parts = s.parts := rfl
@[simp] theorem setElem_links (s : State) (u : UnitId) (e : Elem) : (setElem s u e).links = s.links := rfl
@[simp] theorem setElem_launches (s : State) (u : UnitId) (e : Elem) : (setElem s u e).launches = s.launches := rfl
@[simp] theorem setElem_root (s : State) (u : UnitId) (e : Elem) : (setElem s u e).root = s.root := rfl
@[simp] theorem setElem_served (s : State) (u : UnitId) (e : Elem) : (setElem s u e).served = s.served := rfl
@[simp] theorem setElem_submitted (s : State) (u : UnitId) (e : Elem) : (setElem s u e).submitted = s.submitted := rfl
@[simp] theorem setElem_moduleId (s : State) (u : UnitId) (e : Elem) : (setElem s u e).moduleId = s.moduleId := rfl
@[simp] theorem setElem_inc (s : State) (u : UnitId) (e : Elem) : (setElem s u e).inc = s.inc := rfl
@[simp] theorem setElem_hostClock (s : State) (u : UnitId) (e : Elem) : (setElem s u e).hostClock = s.hostClock := rfl
@[simp] theorem setElem_peerClock (s : State) (u : UnitId) (e : Elem) : (setElem s u e).peerClock = s.peerClock := rfl
@[simp] theorem setElem_sent (s : State) (u : UnitId) (e : Elem) : (setElem s u e).sent = s.sent := rfl
@[simp] theorem setElem_change (s : State) (u : UnitId) (e : Elem) : (setElem s u e).change = s.change := rfl
@[simp] theorem setCtl_cycle (s : State) (k : Nat) (x : Ctl) : (setCtl s k x).cycle = s.cycle := rfl
@[simp] theorem setCtl_agenda (s : State) (k : Nat) (x : Ctl) : (setCtl s k x).agenda = s.agenda := rfl
@[simp] theorem setCtl_inbox (s : State) (k : Nat) (x : Ctl) : (setCtl s k x).inbox = s.inbox := rfl
@[simp] theorem setCtl_actor (s : State) (k : Nat) (x : Ctl) : (setCtl s k x).actor = s.actor := rfl
@[simp] theorem setCtl_mem (s : State) (k : Nat) (x : Ctl) : (setCtl s k x).mem = s.mem := rfl
@[simp] theorem setCtl_poison (s : State) (k : Nat) (x : Ctl) : (setCtl s k x).poison = s.poison := rfl
@[simp] theorem setCtl_slices (s : State) (k : Nat) (x : Ctl) : (setCtl s k x).slices = s.slices := rfl
@[simp] theorem setCtl_homes (s : State) (k : Nat) (x : Ctl) : (setCtl s k x).homes = s.homes := rfl
@[simp] theorem setCtl_reqs (s : State) (k : Nat) (x : Ctl) : (setCtl s k x).reqs = s.reqs := rfl
@[simp] theorem setCtl_nextReq (s : State) (k : Nat) (x : Ctl) : (setCtl s k x).nextReq = s.nextReq := rfl
@[simp] theorem setCtl_stamps (s : State) (k : Nat) (x : Ctl) : (setCtl s k x).stamps = s.stamps := rfl
@[simp] theorem setCtl_edges (s : State) (k : Nat) (x : Ctl) : (setCtl s k x).edges = s.edges := rfl
@[simp] theorem setCtl_idt (s : State) (k : Nat) (x : Ctl) : (setCtl s k x).idt = s.idt := rfl
@[simp] theorem setCtl_fw (s : State) (k : Nat) (x : Ctl) : (setCtl s k x).fw = s.fw := rfl
@[simp] theorem setCtl_parts (s : State) (k : Nat) (x : Ctl) : (setCtl s k x).parts = s.parts := rfl
@[simp] theorem setCtl_links (s : State) (k : Nat) (x : Ctl) : (setCtl s k x).links = s.links := rfl
@[simp] theorem setCtl_launches (s : State) (k : Nat) (x : Ctl) : (setCtl s k x).launches = s.launches := rfl
@[simp] theorem setCtl_root (s : State) (k : Nat) (x : Ctl) : (setCtl s k x).root = s.root := rfl
@[simp] theorem setCtl_served (s : State) (k : Nat) (x : Ctl) : (setCtl s k x).served = s.served := rfl
@[simp] theorem setCtl_submitted (s : State) (k : Nat) (x : Ctl) : (setCtl s k x).submitted = s.submitted := rfl
@[simp] theorem setCtl_moduleId (s : State) (k : Nat) (x : Ctl) : (setCtl s k x).moduleId = s.moduleId := rfl
@[simp] theorem setCtl_inc (s : State) (k : Nat) (x : Ctl) : (setCtl s k x).inc = s.inc := rfl
@[simp] theorem setCtl_hostClock (s : State) (k : Nat) (x : Ctl) : (setCtl s k x).hostClock = s.hostClock := rfl
@[simp] theorem setCtl_peerClock (s : State) (k : Nat) (x : Ctl) : (setCtl s k x).peerClock = s.peerClock := rfl
@[simp] theorem setCtl_sent (s : State) (k : Nat) (x : Ctl) : (setCtl s k x).sent = s.sent := rfl
@[simp] theorem setCtl_change (s : State) (k : Nat) (x : Ctl) : (setCtl s k x).change = s.change := rfl
@[simp] theorem setSlice_cycle (s : State) (n : Nat) (x : Slice) : (setSlice s n x).cycle = s.cycle := rfl
@[simp] theorem setSlice_agenda (s : State) (n : Nat) (x : Slice) : (setSlice s n x).agenda = s.agenda := rfl
@[simp] theorem setSlice_inbox (s : State) (n : Nat) (x : Slice) : (setSlice s n x).inbox = s.inbox := rfl
@[simp] theorem setSlice_actor (s : State) (n : Nat) (x : Slice) : (setSlice s n x).actor = s.actor := rfl
@[simp] theorem setSlice_mem (s : State) (n : Nat) (x : Slice) : (setSlice s n x).mem = s.mem := rfl
@[simp] theorem setSlice_poison (s : State) (n : Nat) (x : Slice) : (setSlice s n x).poison = s.poison := rfl
@[simp] theorem setSlice_cores (s : State) (n : Nat) (x : Slice) : (setSlice s n x).cores = s.cores := rfl
@[simp] theorem setSlice_homes (s : State) (n : Nat) (x : Slice) : (setSlice s n x).homes = s.homes := rfl
@[simp] theorem setSlice_reqs (s : State) (n : Nat) (x : Slice) : (setSlice s n x).reqs = s.reqs := rfl
@[simp] theorem setSlice_nextReq (s : State) (n : Nat) (x : Slice) : (setSlice s n x).nextReq = s.nextReq := rfl
@[simp] theorem setSlice_stamps (s : State) (n : Nat) (x : Slice) : (setSlice s n x).stamps = s.stamps := rfl
@[simp] theorem setSlice_edges (s : State) (n : Nat) (x : Slice) : (setSlice s n x).edges = s.edges := rfl
@[simp] theorem setSlice_idt (s : State) (n : Nat) (x : Slice) : (setSlice s n x).idt = s.idt := rfl
@[simp] theorem setSlice_fw (s : State) (n : Nat) (x : Slice) : (setSlice s n x).fw = s.fw := rfl
@[simp] theorem setSlice_parts (s : State) (n : Nat) (x : Slice) : (setSlice s n x).parts = s.parts := rfl
@[simp] theorem setSlice_links (s : State) (n : Nat) (x : Slice) : (setSlice s n x).links = s.links := rfl
@[simp] theorem setSlice_launches (s : State) (n : Nat) (x : Slice) : (setSlice s n x).launches = s.launches := rfl
@[simp] theorem setSlice_root (s : State) (n : Nat) (x : Slice) : (setSlice s n x).root = s.root := rfl
@[simp] theorem setSlice_served (s : State) (n : Nat) (x : Slice) : (setSlice s n x).served = s.served := rfl
@[simp] theorem setSlice_submitted (s : State) (n : Nat) (x : Slice) : (setSlice s n x).submitted = s.submitted := rfl
@[simp] theorem setSlice_moduleId (s : State) (n : Nat) (x : Slice) : (setSlice s n x).moduleId = s.moduleId := rfl
@[simp] theorem setSlice_inc (s : State) (n : Nat) (x : Slice) : (setSlice s n x).inc = s.inc := rfl
@[simp] theorem setSlice_hostClock (s : State) (n : Nat) (x : Slice) : (setSlice s n x).hostClock = s.hostClock := rfl
@[simp] theorem setSlice_peerClock (s : State) (n : Nat) (x : Slice) : (setSlice s n x).peerClock = s.peerClock := rfl
@[simp] theorem setSlice_sent (s : State) (n : Nat) (x : Slice) : (setSlice s n x).sent = s.sent := rfl
@[simp] theorem setSlice_change (s : State) (n : Nat) (x : Slice) : (setSlice s n x).change = s.change := rfl
@[simp] theorem setReq_cycle (s : State) (id : Nat) (r : Req) : (setReq s id r).cycle = s.cycle := rfl
@[simp] theorem setReq_agenda (s : State) (id : Nat) (r : Req) : (setReq s id r).agenda = s.agenda := rfl
@[simp] theorem setReq_inbox (s : State) (id : Nat) (r : Req) : (setReq s id r).inbox = s.inbox := rfl
@[simp] theorem setReq_actor (s : State) (id : Nat) (r : Req) : (setReq s id r).actor = s.actor := rfl
@[simp] theorem setReq_mem (s : State) (id : Nat) (r : Req) : (setReq s id r).mem = s.mem := rfl
@[simp] theorem setReq_poison (s : State) (id : Nat) (r : Req) : (setReq s id r).poison = s.poison := rfl
@[simp] theorem setReq_cores (s : State) (id : Nat) (r : Req) : (setReq s id r).cores = s.cores := rfl
@[simp] theorem setReq_slices (s : State) (id : Nat) (r : Req) : (setReq s id r).slices = s.slices := rfl
@[simp] theorem setReq_homes (s : State) (id : Nat) (r : Req) : (setReq s id r).homes = s.homes := rfl
@[simp] theorem setReq_nextReq (s : State) (id : Nat) (r : Req) : (setReq s id r).nextReq = s.nextReq := rfl
@[simp] theorem setReq_stamps (s : State) (id : Nat) (r : Req) : (setReq s id r).stamps = s.stamps := rfl
@[simp] theorem setReq_edges (s : State) (id : Nat) (r : Req) : (setReq s id r).edges = s.edges := rfl
@[simp] theorem setReq_idt (s : State) (id : Nat) (r : Req) : (setReq s id r).idt = s.idt := rfl
@[simp] theorem setReq_fw (s : State) (id : Nat) (r : Req) : (setReq s id r).fw = s.fw := rfl
@[simp] theorem setReq_parts (s : State) (id : Nat) (r : Req) : (setReq s id r).parts = s.parts := rfl
@[simp] theorem setReq_links (s : State) (id : Nat) (r : Req) : (setReq s id r).links = s.links := rfl
@[simp] theorem setReq_launches (s : State) (id : Nat) (r : Req) : (setReq s id r).launches = s.launches := rfl
@[simp] theorem setReq_root (s : State) (id : Nat) (r : Req) : (setReq s id r).root = s.root := rfl
@[simp] theorem setReq_served (s : State) (id : Nat) (r : Req) : (setReq s id r).served = s.served := rfl
@[simp] theorem setReq_submitted (s : State) (id : Nat) (r : Req) : (setReq s id r).submitted = s.submitted := rfl
@[simp] theorem setReq_moduleId (s : State) (id : Nat) (r : Req) : (setReq s id r).moduleId = s.moduleId := rfl
@[simp] theorem setReq_inc (s : State) (id : Nat) (r : Req) : (setReq s id r).inc = s.inc := rfl
@[simp] theorem setReq_hostClock (s : State) (id : Nat) (r : Req) : (setReq s id r).hostClock = s.hostClock := rfl
@[simp] theorem setReq_peerClock (s : State) (id : Nat) (r : Req) : (setReq s id r).peerClock = s.peerClock := rfl
@[simp] theorem setReq_sent (s : State) (id : Nat) (r : Req) : (setReq s id r).sent = s.sent := rfl
@[simp] theorem setReq_change (s : State) (id : Nat) (r : Req) : (setReq s id r).change = s.change := rfl
@[simp] theorem setLaunch_cycle (s : State) (l : Nat) (x : Launch) : (setLaunch s l x).cycle = s.cycle := rfl
@[simp] theorem setLaunch_agenda (s : State) (l : Nat) (x : Launch) : (setLaunch s l x).agenda = s.agenda := rfl
@[simp] theorem setLaunch_inbox (s : State) (l : Nat) (x : Launch) : (setLaunch s l x).inbox = s.inbox := rfl
@[simp] theorem setLaunch_actor (s : State) (l : Nat) (x : Launch) : (setLaunch s l x).actor = s.actor := rfl
@[simp] theorem setLaunch_mem (s : State) (l : Nat) (x : Launch) : (setLaunch s l x).mem = s.mem := rfl
@[simp] theorem setLaunch_poison (s : State) (l : Nat) (x : Launch) : (setLaunch s l x).poison = s.poison := rfl
@[simp] theorem setLaunch_cores (s : State) (l : Nat) (x : Launch) : (setLaunch s l x).cores = s.cores := rfl
@[simp] theorem setLaunch_slices (s : State) (l : Nat) (x : Launch) : (setLaunch s l x).slices = s.slices := rfl
@[simp] theorem setLaunch_homes (s : State) (l : Nat) (x : Launch) : (setLaunch s l x).homes = s.homes := rfl
@[simp] theorem setLaunch_reqs (s : State) (l : Nat) (x : Launch) : (setLaunch s l x).reqs = s.reqs := rfl
@[simp] theorem setLaunch_nextReq (s : State) (l : Nat) (x : Launch) : (setLaunch s l x).nextReq = s.nextReq := rfl
@[simp] theorem setLaunch_stamps (s : State) (l : Nat) (x : Launch) : (setLaunch s l x).stamps = s.stamps := rfl
@[simp] theorem setLaunch_edges (s : State) (l : Nat) (x : Launch) : (setLaunch s l x).edges = s.edges := rfl
@[simp] theorem setLaunch_idt (s : State) (l : Nat) (x : Launch) : (setLaunch s l x).idt = s.idt := rfl
@[simp] theorem setLaunch_fw (s : State) (l : Nat) (x : Launch) : (setLaunch s l x).fw = s.fw := rfl
@[simp] theorem setLaunch_parts (s : State) (l : Nat) (x : Launch) : (setLaunch s l x).parts = s.parts := rfl
@[simp] theorem setLaunch_links (s : State) (l : Nat) (x : Launch) : (setLaunch s l x).links = s.links := rfl
@[simp] theorem setLaunch_root (s : State) (l : Nat) (x : Launch) : (setLaunch s l x).root = s.root := rfl
@[simp] theorem setLaunch_served (s : State) (l : Nat) (x : Launch) : (setLaunch s l x).served = s.served := rfl
@[simp] theorem setLaunch_submitted (s : State) (l : Nat) (x : Launch) : (setLaunch s l x).submitted = s.submitted := rfl
@[simp] theorem setLaunch_moduleId (s : State) (l : Nat) (x : Launch) : (setLaunch s l x).moduleId = s.moduleId := rfl
@[simp] theorem setLaunch_inc (s : State) (l : Nat) (x : Launch) : (setLaunch s l x).inc = s.inc := rfl
@[simp] theorem setLaunch_hostClock (s : State) (l : Nat) (x : Launch) : (setLaunch s l x).hostClock = s.hostClock := rfl
@[simp] theorem setLaunch_peerClock (s : State) (l : Nat) (x : Launch) : (setLaunch s l x).peerClock = s.peerClock := rfl
@[simp] theorem setLaunch_sent (s : State) (l : Nat) (x : Launch) : (setLaunch s l x).sent = s.sent := rfl
@[simp] theorem setLaunch_change (s : State) (l : Nat) (x : Launch) : (setLaunch s l x).change = s.change := rfl
@[simp] theorem setEng_cycle (s : State) (k p : Nat) (e : Engine) : (setEng s k p e).cycle = s.cycle := rfl
@[simp] theorem setEng_agenda (s : State) (k p : Nat) (e : Engine) : (setEng s k p e).agenda = s.agenda := rfl
@[simp] theorem setEng_inbox (s : State) (k p : Nat) (e : Engine) : (setEng s k p e).inbox = s.inbox := rfl
@[simp] theorem setEng_actor (s : State) (k p : Nat) (e : Engine) : (setEng s k p e).actor = s.actor := rfl
@[simp] theorem setEng_mem (s : State) (k p : Nat) (e : Engine) : (setEng s k p e).mem = s.mem := rfl
@[simp] theorem setEng_poison (s : State) (k p : Nat) (e : Engine) : (setEng s k p e).poison = s.poison := rfl
@[simp] theorem setEng_slices (s : State) (k p : Nat) (e : Engine) : (setEng s k p e).slices = s.slices := rfl
@[simp] theorem setEng_homes (s : State) (k p : Nat) (e : Engine) : (setEng s k p e).homes = s.homes := rfl
@[simp] theorem setEng_reqs (s : State) (k p : Nat) (e : Engine) : (setEng s k p e).reqs = s.reqs := rfl
@[simp] theorem setEng_nextReq (s : State) (k p : Nat) (e : Engine) : (setEng s k p e).nextReq = s.nextReq := rfl
@[simp] theorem setEng_stamps (s : State) (k p : Nat) (e : Engine) : (setEng s k p e).stamps = s.stamps := rfl
@[simp] theorem setEng_edges (s : State) (k p : Nat) (e : Engine) : (setEng s k p e).edges = s.edges := rfl
@[simp] theorem setEng_idt (s : State) (k p : Nat) (e : Engine) : (setEng s k p e).idt = s.idt := rfl
@[simp] theorem setEng_fw (s : State) (k p : Nat) (e : Engine) : (setEng s k p e).fw = s.fw := rfl
@[simp] theorem setEng_parts (s : State) (k p : Nat) (e : Engine) : (setEng s k p e).parts = s.parts := rfl
@[simp] theorem setEng_links (s : State) (k p : Nat) (e : Engine) : (setEng s k p e).links = s.links := rfl
@[simp] theorem setEng_launches (s : State) (k p : Nat) (e : Engine) : (setEng s k p e).launches = s.launches := rfl
@[simp] theorem setEng_root (s : State) (k p : Nat) (e : Engine) : (setEng s k p e).root = s.root := rfl
@[simp] theorem setEng_served (s : State) (k p : Nat) (e : Engine) : (setEng s k p e).served = s.served := rfl
@[simp] theorem setEng_submitted (s : State) (k p : Nat) (e : Engine) : (setEng s k p e).submitted = s.submitted := rfl
@[simp] theorem setEng_moduleId (s : State) (k p : Nat) (e : Engine) : (setEng s k p e).moduleId = s.moduleId := rfl
@[simp] theorem setEng_inc (s : State) (k p : Nat) (e : Engine) : (setEng s k p e).inc = s.inc := rfl
@[simp] theorem setEng_hostClock (s : State) (k p : Nat) (e : Engine) : (setEng s k p e).hostClock = s.hostClock := rfl
@[simp] theorem setEng_peerClock (s : State) (k p : Nat) (e : Engine) : (setEng s k p e).peerClock = s.peerClock := rfl
@[simp] theorem setEng_sent (s : State) (k p : Nat) (e : Engine) : (setEng s k p e).sent = s.sent := rfl
@[simp] theorem setEng_change (s : State) (k p : Nat) (e : Engine) : (setEng s k p e).change = s.change := rfl
@[simp] theorem setWalk_cycle (s : State) (k n : Nat) (w : Walk) : (setWalk s k n w).cycle = s.cycle := rfl
@[simp] theorem setWalk_agenda (s : State) (k n : Nat) (w : Walk) : (setWalk s k n w).agenda = s.agenda := rfl
@[simp] theorem setWalk_inbox (s : State) (k n : Nat) (w : Walk) : (setWalk s k n w).inbox = s.inbox := rfl
@[simp] theorem setWalk_actor (s : State) (k n : Nat) (w : Walk) : (setWalk s k n w).actor = s.actor := rfl
@[simp] theorem setWalk_mem (s : State) (k n : Nat) (w : Walk) : (setWalk s k n w).mem = s.mem := rfl
@[simp] theorem setWalk_poison (s : State) (k n : Nat) (w : Walk) : (setWalk s k n w).poison = s.poison := rfl
@[simp] theorem setWalk_slices (s : State) (k n : Nat) (w : Walk) : (setWalk s k n w).slices = s.slices := rfl
@[simp] theorem setWalk_homes (s : State) (k n : Nat) (w : Walk) : (setWalk s k n w).homes = s.homes := rfl
@[simp] theorem setWalk_reqs (s : State) (k n : Nat) (w : Walk) : (setWalk s k n w).reqs = s.reqs := rfl
@[simp] theorem setWalk_nextReq (s : State) (k n : Nat) (w : Walk) : (setWalk s k n w).nextReq = s.nextReq := rfl
@[simp] theorem setWalk_stamps (s : State) (k n : Nat) (w : Walk) : (setWalk s k n w).stamps = s.stamps := rfl
@[simp] theorem setWalk_edges (s : State) (k n : Nat) (w : Walk) : (setWalk s k n w).edges = s.edges := rfl
@[simp] theorem setWalk_idt (s : State) (k n : Nat) (w : Walk) : (setWalk s k n w).idt = s.idt := rfl
@[simp] theorem setWalk_fw (s : State) (k n : Nat) (w : Walk) : (setWalk s k n w).fw = s.fw := rfl
@[simp] theorem setWalk_parts (s : State) (k n : Nat) (w : Walk) : (setWalk s k n w).parts = s.parts := rfl
@[simp] theorem setWalk_links (s : State) (k n : Nat) (w : Walk) : (setWalk s k n w).links = s.links := rfl
@[simp] theorem setWalk_launches (s : State) (k n : Nat) (w : Walk) : (setWalk s k n w).launches = s.launches := rfl
@[simp] theorem setWalk_root (s : State) (k n : Nat) (w : Walk) : (setWalk s k n w).root = s.root := rfl
@[simp] theorem setWalk_served (s : State) (k n : Nat) (w : Walk) : (setWalk s k n w).served = s.served := rfl
@[simp] theorem setWalk_submitted (s : State) (k n : Nat) (w : Walk) : (setWalk s k n w).submitted = s.submitted := rfl
@[simp] theorem setWalk_moduleId (s : State) (k n : Nat) (w : Walk) : (setWalk s k n w).moduleId = s.moduleId := rfl
@[simp] theorem setWalk_inc (s : State) (k n : Nat) (w : Walk) : (setWalk s k n w).inc = s.inc := rfl
@[simp] theorem setWalk_hostClock (s : State) (k n : Nat) (w : Walk) : (setWalk s k n w).hostClock = s.hostClock := rfl
@[simp] theorem setWalk_peerClock (s : State) (k n : Nat) (w : Walk) : (setWalk s k n w).peerClock = s.peerClock := rfl
@[simp] theorem setWalk_sent (s : State) (k n : Nat) (w : Walk) : (setWalk s k n w).sent = s.sent := rfl
@[simp] theorem setWalk_change (s : State) (k n : Nat) (w : Walk) : (setWalk s k n w).change = s.change := rfl
@[simp] theorem setMn_cycle (s : State) (k : Nat) (n : Node) : (setMn s k n).cycle = s.cycle := rfl
@[simp] theorem setMn_agenda (s : State) (k : Nat) (n : Node) : (setMn s k n).agenda = s.agenda := rfl
@[simp] theorem setMn_inbox (s : State) (k : Nat) (n : Node) : (setMn s k n).inbox = s.inbox := rfl
@[simp] theorem setMn_actor (s : State) (k : Nat) (n : Node) : (setMn s k n).actor = s.actor := rfl
@[simp] theorem setMn_mem (s : State) (k : Nat) (n : Node) : (setMn s k n).mem = s.mem := rfl
@[simp] theorem setMn_poison (s : State) (k : Nat) (n : Node) : (setMn s k n).poison = s.poison := rfl
@[simp] theorem setMn_slices (s : State) (k : Nat) (n : Node) : (setMn s k n).slices = s.slices := rfl
@[simp] theorem setMn_homes (s : State) (k : Nat) (n : Node) : (setMn s k n).homes = s.homes := rfl
@[simp] theorem setMn_reqs (s : State) (k : Nat) (n : Node) : (setMn s k n).reqs = s.reqs := rfl
@[simp] theorem setMn_nextReq (s : State) (k : Nat) (n : Node) : (setMn s k n).nextReq = s.nextReq := rfl
@[simp] theorem setMn_stamps (s : State) (k : Nat) (n : Node) : (setMn s k n).stamps = s.stamps := rfl
@[simp] theorem setMn_edges (s : State) (k : Nat) (n : Node) : (setMn s k n).edges = s.edges := rfl
@[simp] theorem setMn_idt (s : State) (k : Nat) (n : Node) : (setMn s k n).idt = s.idt := rfl
@[simp] theorem setMn_fw (s : State) (k : Nat) (n : Node) : (setMn s k n).fw = s.fw := rfl
@[simp] theorem setMn_parts (s : State) (k : Nat) (n : Node) : (setMn s k n).parts = s.parts := rfl
@[simp] theorem setMn_links (s : State) (k : Nat) (n : Node) : (setMn s k n).links = s.links := rfl
@[simp] theorem setMn_launches (s : State) (k : Nat) (n : Node) : (setMn s k n).launches = s.launches := rfl
@[simp] theorem setMn_root (s : State) (k : Nat) (n : Node) : (setMn s k n).root = s.root := rfl
@[simp] theorem setMn_served (s : State) (k : Nat) (n : Node) : (setMn s k n).served = s.served := rfl
@[simp] theorem setMn_submitted (s : State) (k : Nat) (n : Node) : (setMn s k n).submitted = s.submitted := rfl
@[simp] theorem setMn_moduleId (s : State) (k : Nat) (n : Node) : (setMn s k n).moduleId = s.moduleId := rfl
@[simp] theorem setMn_inc (s : State) (k : Nat) (n : Node) : (setMn s k n).inc = s.inc := rfl
@[simp] theorem setMn_hostClock (s : State) (k : Nat) (n : Node) : (setMn s k n).hostClock = s.hostClock := rfl
@[simp] theorem setMn_peerClock (s : State) (k : Nat) (n : Node) : (setMn s k n).peerClock = s.peerClock := rfl
@[simp] theorem setMn_sent (s : State) (k : Nat) (n : Node) : (setMn s k n).sent = s.sent := rfl
@[simp] theorem setMn_change (s : State) (k : Nat) (n : Node) : (setMn s k n).change = s.change := rfl
@[simp] theorem raiseTrap_cycle (s : State) (k : Nat) (x : TrapEntry) : (raiseTrap s k x).cycle = s.cycle := rfl
@[simp] theorem raiseTrap_agenda (s : State) (k : Nat) (x : TrapEntry) : (raiseTrap s k x).agenda = s.agenda := rfl
@[simp] theorem raiseTrap_inbox (s : State) (k : Nat) (x : TrapEntry) : (raiseTrap s k x).inbox = s.inbox := rfl
@[simp] theorem raiseTrap_actor (s : State) (k : Nat) (x : TrapEntry) : (raiseTrap s k x).actor = s.actor := rfl
@[simp] theorem raiseTrap_mem (s : State) (k : Nat) (x : TrapEntry) : (raiseTrap s k x).mem = s.mem := rfl
@[simp] theorem raiseTrap_poison (s : State) (k : Nat) (x : TrapEntry) : (raiseTrap s k x).poison = s.poison := rfl
@[simp] theorem raiseTrap_slices (s : State) (k : Nat) (x : TrapEntry) : (raiseTrap s k x).slices = s.slices := rfl
@[simp] theorem raiseTrap_homes (s : State) (k : Nat) (x : TrapEntry) : (raiseTrap s k x).homes = s.homes := rfl
@[simp] theorem raiseTrap_reqs (s : State) (k : Nat) (x : TrapEntry) : (raiseTrap s k x).reqs = s.reqs := rfl
@[simp] theorem raiseTrap_nextReq (s : State) (k : Nat) (x : TrapEntry) : (raiseTrap s k x).nextReq = s.nextReq := rfl
@[simp] theorem raiseTrap_stamps (s : State) (k : Nat) (x : TrapEntry) : (raiseTrap s k x).stamps = s.stamps := rfl
@[simp] theorem raiseTrap_edges (s : State) (k : Nat) (x : TrapEntry) : (raiseTrap s k x).edges = s.edges := rfl
@[simp] theorem raiseTrap_idt (s : State) (k : Nat) (x : TrapEntry) : (raiseTrap s k x).idt = s.idt := rfl
@[simp] theorem raiseTrap_fw (s : State) (k : Nat) (x : TrapEntry) : (raiseTrap s k x).fw = s.fw := rfl
@[simp] theorem raiseTrap_parts (s : State) (k : Nat) (x : TrapEntry) : (raiseTrap s k x).parts = s.parts := rfl
@[simp] theorem raiseTrap_links (s : State) (k : Nat) (x : TrapEntry) : (raiseTrap s k x).links = s.links := rfl
@[simp] theorem raiseTrap_launches (s : State) (k : Nat) (x : TrapEntry) : (raiseTrap s k x).launches = s.launches := rfl
@[simp] theorem raiseTrap_root (s : State) (k : Nat) (x : TrapEntry) : (raiseTrap s k x).root = s.root := rfl
@[simp] theorem raiseTrap_served (s : State) (k : Nat) (x : TrapEntry) : (raiseTrap s k x).served = s.served := rfl
@[simp] theorem raiseTrap_submitted (s : State) (k : Nat) (x : TrapEntry) : (raiseTrap s k x).submitted = s.submitted := rfl
@[simp] theorem raiseTrap_moduleId (s : State) (k : Nat) (x : TrapEntry) : (raiseTrap s k x).moduleId = s.moduleId := rfl
@[simp] theorem raiseTrap_inc (s : State) (k : Nat) (x : TrapEntry) : (raiseTrap s k x).inc = s.inc := rfl
@[simp] theorem raiseTrap_hostClock (s : State) (k : Nat) (x : TrapEntry) : (raiseTrap s k x).hostClock = s.hostClock := rfl
@[simp] theorem raiseTrap_peerClock (s : State) (k : Nat) (x : TrapEntry) : (raiseTrap s k x).peerClock = s.peerClock := rfl
@[simp] theorem raiseTrap_sent (s : State) (k : Nat) (x : TrapEntry) : (raiseTrap s k x).sent = s.sent := rfl
@[simp] theorem raiseTrap_change (s : State) (k : Nat) (x : TrapEntry) : (raiseTrap s k x).change = s.change := rfl
@[simp] theorem raiseClock_cycle (s : State) (k : Nat) (x : Stamp) : (raiseClock s k x).cycle = s.cycle := rfl
@[simp] theorem raiseClock_agenda (s : State) (k : Nat) (x : Stamp) : (raiseClock s k x).agenda = s.agenda := rfl
@[simp] theorem raiseClock_inbox (s : State) (k : Nat) (x : Stamp) : (raiseClock s k x).inbox = s.inbox := rfl
@[simp] theorem raiseClock_actor (s : State) (k : Nat) (x : Stamp) : (raiseClock s k x).actor = s.actor := rfl
@[simp] theorem raiseClock_mem (s : State) (k : Nat) (x : Stamp) : (raiseClock s k x).mem = s.mem := rfl
@[simp] theorem raiseClock_poison (s : State) (k : Nat) (x : Stamp) : (raiseClock s k x).poison = s.poison := rfl
@[simp] theorem raiseClock_slices (s : State) (k : Nat) (x : Stamp) : (raiseClock s k x).slices = s.slices := rfl
@[simp] theorem raiseClock_homes (s : State) (k : Nat) (x : Stamp) : (raiseClock s k x).homes = s.homes := rfl
@[simp] theorem raiseClock_reqs (s : State) (k : Nat) (x : Stamp) : (raiseClock s k x).reqs = s.reqs := rfl
@[simp] theorem raiseClock_nextReq (s : State) (k : Nat) (x : Stamp) : (raiseClock s k x).nextReq = s.nextReq := rfl
@[simp] theorem raiseClock_stamps (s : State) (k : Nat) (x : Stamp) : (raiseClock s k x).stamps = s.stamps := rfl
@[simp] theorem raiseClock_edges (s : State) (k : Nat) (x : Stamp) : (raiseClock s k x).edges = s.edges := rfl
@[simp] theorem raiseClock_idt (s : State) (k : Nat) (x : Stamp) : (raiseClock s k x).idt = s.idt := rfl
@[simp] theorem raiseClock_fw (s : State) (k : Nat) (x : Stamp) : (raiseClock s k x).fw = s.fw := rfl
@[simp] theorem raiseClock_parts (s : State) (k : Nat) (x : Stamp) : (raiseClock s k x).parts = s.parts := rfl
@[simp] theorem raiseClock_links (s : State) (k : Nat) (x : Stamp) : (raiseClock s k x).links = s.links := rfl
@[simp] theorem raiseClock_launches (s : State) (k : Nat) (x : Stamp) : (raiseClock s k x).launches = s.launches := rfl
@[simp] theorem raiseClock_root (s : State) (k : Nat) (x : Stamp) : (raiseClock s k x).root = s.root := rfl
@[simp] theorem raiseClock_served (s : State) (k : Nat) (x : Stamp) : (raiseClock s k x).served = s.served := rfl
@[simp] theorem raiseClock_submitted (s : State) (k : Nat) (x : Stamp) : (raiseClock s k x).submitted = s.submitted := rfl
@[simp] theorem raiseClock_moduleId (s : State) (k : Nat) (x : Stamp) : (raiseClock s k x).moduleId = s.moduleId := rfl
@[simp] theorem raiseClock_inc (s : State) (k : Nat) (x : Stamp) : (raiseClock s k x).inc = s.inc := rfl
@[simp] theorem raiseClock_hostClock (s : State) (k : Nat) (x : Stamp) : (raiseClock s k x).hostClock = s.hostClock := rfl
@[simp] theorem raiseClock_peerClock (s : State) (k : Nat) (x : Stamp) : (raiseClock s k x).peerClock = s.peerClock := rfl
@[simp] theorem raiseClock_sent (s : State) (k : Nat) (x : Stamp) : (raiseClock s k x).sent = s.sent := rfl
@[simp] theorem raiseClock_change (s : State) (k : Nat) (x : Stamp) : (raiseClock s k x).change = s.change := rfl
@[simp] theorem nextUp_cycle (s : State) (l : List Instr) : (nextUp s l).cycle = s.cycle := rfl
@[simp] theorem nextUp_inbox (s : State) (l : List Instr) : (nextUp s l).inbox = s.inbox := rfl
@[simp] theorem nextUp_actor (s : State) (l : List Instr) : (nextUp s l).actor = s.actor := rfl
@[simp] theorem nextUp_mem (s : State) (l : List Instr) : (nextUp s l).mem = s.mem := rfl
@[simp] theorem nextUp_poison (s : State) (l : List Instr) : (nextUp s l).poison = s.poison := rfl
@[simp] theorem nextUp_cores (s : State) (l : List Instr) : (nextUp s l).cores = s.cores := rfl
@[simp] theorem nextUp_slices (s : State) (l : List Instr) : (nextUp s l).slices = s.slices := rfl
@[simp] theorem nextUp_homes (s : State) (l : List Instr) : (nextUp s l).homes = s.homes := rfl
@[simp] theorem nextUp_reqs (s : State) (l : List Instr) : (nextUp s l).reqs = s.reqs := rfl
@[simp] theorem nextUp_nextReq (s : State) (l : List Instr) : (nextUp s l).nextReq = s.nextReq := rfl
@[simp] theorem nextUp_stamps (s : State) (l : List Instr) : (nextUp s l).stamps = s.stamps := rfl
@[simp] theorem nextUp_edges (s : State) (l : List Instr) : (nextUp s l).edges = s.edges := rfl
@[simp] theorem nextUp_idt (s : State) (l : List Instr) : (nextUp s l).idt = s.idt := rfl
@[simp] theorem nextUp_fw (s : State) (l : List Instr) : (nextUp s l).fw = s.fw := rfl
@[simp] theorem nextUp_parts (s : State) (l : List Instr) : (nextUp s l).parts = s.parts := rfl
@[simp] theorem nextUp_links (s : State) (l : List Instr) : (nextUp s l).links = s.links := rfl
@[simp] theorem nextUp_launches (s : State) (l : List Instr) : (nextUp s l).launches = s.launches := rfl
@[simp] theorem nextUp_root (s : State) (l : List Instr) : (nextUp s l).root = s.root := rfl
@[simp] theorem nextUp_served (s : State) (l : List Instr) : (nextUp s l).served = s.served := rfl
@[simp] theorem nextUp_submitted (s : State) (l : List Instr) : (nextUp s l).submitted = s.submitted := rfl
@[simp] theorem nextUp_moduleId (s : State) (l : List Instr) : (nextUp s l).moduleId = s.moduleId := rfl
@[simp] theorem nextUp_inc (s : State) (l : List Instr) : (nextUp s l).inc = s.inc := rfl
@[simp] theorem nextUp_hostClock (s : State) (l : List Instr) : (nextUp s l).hostClock = s.hostClock := rfl
@[simp] theorem nextUp_peerClock (s : State) (l : List Instr) : (nextUp s l).peerClock = s.peerClock := rfl
@[simp] theorem nextUp_sent (s : State) (l : List Instr) : (nextUp s l).sent = s.sent := rfl
@[simp] theorem nextUp_change (s : State) (l : List Instr) : (nextUp s l).change = s.change := rfl

/-! ## Updates of Core -/

@[simp] theorem Core.setPort_part (c : Core) (n : Nat) (p : Port) : (c.setPort n p).part = c.part := rfl
@[simp] theorem Core.setPort_launch (c : Core) (n : Nat) (p : Port) : (c.setPort n p).launch = c.launch := rfl
@[simp] theorem Core.setPort_image (c : Core) (n : Nat) (p : Port) : (c.setPort n p).image = c.image := rfl
@[simp] theorem Core.setPort_elems (c : Core) (n : Nat) (p : Port) : (c.setPort n p).elems = c.elems := rfl
@[simp] theorem Core.setPort_ctl (c : Core) (n : Nat) (p : Port) : (c.setPort n p).ctl = c.ctl := rfl
@[simp] theorem Core.setPort_tl (c : Core) (n : Nat) (p : Port) : (c.setPort n p).tl = c.tl := rfl
@[simp] theorem Core.setPort_tlNext (c : Core) (n : Nat) (p : Port) : (c.setPort n p).tlNext = c.tlNext := rfl
@[simp] theorem Core.setPort_tlDone (c : Core) (n : Nat) (p : Port) : (c.setPort n p).tlDone = c.tlDone := rfl
@[simp] theorem Core.setPort_bars (c : Core) (n : Nat) (p : Port) : (c.setPort n p).bars = c.bars := rfl
@[simp] theorem Core.setPort_waits (c : Core) (n : Nat) (p : Port) : (c.setPort n p).waits = c.waits := rfl
@[simp] theorem Core.setPort_queues (c : Core) (n : Nat) (p : Port) : (c.setPort n p).queues = c.queues := rfl
@[simp] theorem Core.setPort_psb (c : Core) (n : Nat) (p : Port) : (c.setPort n p).psb = c.psb := rfl
@[simp] theorem Core.setPort_trapq (c : Core) (n : Nat) (p : Port) : (c.setPort n p).trapq = c.trapq := rfl
@[simp] theorem Core.setPort_comps (c : Core) (n : Nat) (p : Port) : (c.setPort n p).comps = c.comps := rfl
@[simp] theorem Core.setPort_engOut (c : Core) (n : Nat) (p : Port) : (c.setPort n p).engOut = c.engOut := rfl
@[simp] theorem Core.setPort_engines (c : Core) (n : Nat) (p : Port) : (c.setPort n p).engines = c.engines := rfl
@[simp] theorem Core.setPort_walks (c : Core) (n : Nat) (p : Port) : (c.setPort n p).walks = c.walks := rfl
@[simp] theorem Core.setPort_walkAge (c : Core) (n : Nat) (p : Port) : (c.setPort n p).walkAge = c.walkAge := rfl
@[simp] theorem Core.setPort_mn (c : Core) (n : Nat) (p : Port) : (c.setPort n p).mn = c.mn := rfl
@[simp] theorem Core.setPort_cpEdge (c : Core) (n : Nat) (p : Port) : (c.setPort n p).cpEdge = c.cpEdge := rfl
@[simp] theorem Core.setPort_laneSel (c : Core) (n : Nat) (p : Port) : (c.setPort n p).laneSel = c.laneSel := rfl
@[simp] theorem Core.setPort_laneShift (c : Core) (n : Nat) (p : Port) : (c.setPort n p).laneShift = c.laneShift := rfl
@[simp] theorem Core.setPort_peerLost (c : Core) (n : Nat) (p : Port) : (c.setPort n p).peerLost = c.peerLost := rfl
@[simp] theorem Core.setPort_spares (c : Core) (n : Nat) (p : Port) : (c.setPort n p).spares = c.spares := rfl
@[simp] theorem Core.setPort_retired (c : Core) (n : Nat) (p : Port) : (c.setPort n p).retired = c.retired := rfl
@[simp] theorem Core.setPort_clock (c : Core) (n : Nat) (p : Port) : (c.setPort n p).clock = c.clock := rfl
@[simp] theorem Core.setPort_detect (c : Core) (n : Nat) (p : Port) : (c.setPort n p).detect = c.detect := rfl
@[simp] theorem Core.setPort_engSaved (c : Core) (n : Nat) (p : Port) : (c.setPort n p).engSaved = c.engSaved := rfl
@[simp] theorem Core.setPort_lte (c : Core) (n : Nat) (p : Port) : (c.setPort n p).lte = c.lte := rfl
@[simp] theorem Core.setQueue_part (c : Core) (n : Nat) (q : Queue) : (c.setQueue n q).part = c.part := rfl
@[simp] theorem Core.setQueue_launch (c : Core) (n : Nat) (q : Queue) : (c.setQueue n q).launch = c.launch := rfl
@[simp] theorem Core.setQueue_image (c : Core) (n : Nat) (q : Queue) : (c.setQueue n q).image = c.image := rfl
@[simp] theorem Core.setQueue_elems (c : Core) (n : Nat) (q : Queue) : (c.setQueue n q).elems = c.elems := rfl
@[simp] theorem Core.setQueue_ctl (c : Core) (n : Nat) (q : Queue) : (c.setQueue n q).ctl = c.ctl := rfl
@[simp] theorem Core.setQueue_tl (c : Core) (n : Nat) (q : Queue) : (c.setQueue n q).tl = c.tl := rfl
@[simp] theorem Core.setQueue_tlNext (c : Core) (n : Nat) (q : Queue) : (c.setQueue n q).tlNext = c.tlNext := rfl
@[simp] theorem Core.setQueue_tlDone (c : Core) (n : Nat) (q : Queue) : (c.setQueue n q).tlDone = c.tlDone := rfl
@[simp] theorem Core.setQueue_bars (c : Core) (n : Nat) (q : Queue) : (c.setQueue n q).bars = c.bars := rfl
@[simp] theorem Core.setQueue_waits (c : Core) (n : Nat) (q : Queue) : (c.setQueue n q).waits = c.waits := rfl
@[simp] theorem Core.setQueue_ports (c : Core) (n : Nat) (q : Queue) : (c.setQueue n q).ports = c.ports := rfl
@[simp] theorem Core.setQueue_psb (c : Core) (n : Nat) (q : Queue) : (c.setQueue n q).psb = c.psb := rfl
@[simp] theorem Core.setQueue_trapq (c : Core) (n : Nat) (q : Queue) : (c.setQueue n q).trapq = c.trapq := rfl
@[simp] theorem Core.setQueue_comps (c : Core) (n : Nat) (q : Queue) : (c.setQueue n q).comps = c.comps := rfl
@[simp] theorem Core.setQueue_engOut (c : Core) (n : Nat) (q : Queue) : (c.setQueue n q).engOut = c.engOut := rfl
@[simp] theorem Core.setQueue_engines (c : Core) (n : Nat) (q : Queue) : (c.setQueue n q).engines = c.engines := rfl
@[simp] theorem Core.setQueue_walks (c : Core) (n : Nat) (q : Queue) : (c.setQueue n q).walks = c.walks := rfl
@[simp] theorem Core.setQueue_walkAge (c : Core) (n : Nat) (q : Queue) : (c.setQueue n q).walkAge = c.walkAge := rfl
@[simp] theorem Core.setQueue_mn (c : Core) (n : Nat) (q : Queue) : (c.setQueue n q).mn = c.mn := rfl
@[simp] theorem Core.setQueue_cpEdge (c : Core) (n : Nat) (q : Queue) : (c.setQueue n q).cpEdge = c.cpEdge := rfl
@[simp] theorem Core.setQueue_laneSel (c : Core) (n : Nat) (q : Queue) : (c.setQueue n q).laneSel = c.laneSel := rfl
@[simp] theorem Core.setQueue_laneShift (c : Core) (n : Nat) (q : Queue) : (c.setQueue n q).laneShift = c.laneShift := rfl
@[simp] theorem Core.setQueue_peerLost (c : Core) (n : Nat) (q : Queue) : (c.setQueue n q).peerLost = c.peerLost := rfl
@[simp] theorem Core.setQueue_spares (c : Core) (n : Nat) (q : Queue) : (c.setQueue n q).spares = c.spares := rfl
@[simp] theorem Core.setQueue_retired (c : Core) (n : Nat) (q : Queue) : (c.setQueue n q).retired = c.retired := rfl
@[simp] theorem Core.setQueue_clock (c : Core) (n : Nat) (q : Queue) : (c.setQueue n q).clock = c.clock := rfl
@[simp] theorem Core.setQueue_detect (c : Core) (n : Nat) (q : Queue) : (c.setQueue n q).detect = c.detect := rfl
@[simp] theorem Core.setQueue_engSaved (c : Core) (n : Nat) (q : Queue) : (c.setQueue n q).engSaved = c.engSaved := rfl
@[simp] theorem Core.setQueue_lte (c : Core) (n : Nat) (q : Queue) : (c.setQueue n q).lte = c.lte := rfl
@[simp] theorem Core.setBar_part (c : Core) (n : Nat) (b : Barrier) : (c.setBar n b).part = c.part := rfl
@[simp] theorem Core.setBar_launch (c : Core) (n : Nat) (b : Barrier) : (c.setBar n b).launch = c.launch := rfl
@[simp] theorem Core.setBar_image (c : Core) (n : Nat) (b : Barrier) : (c.setBar n b).image = c.image := rfl
@[simp] theorem Core.setBar_elems (c : Core) (n : Nat) (b : Barrier) : (c.setBar n b).elems = c.elems := rfl
@[simp] theorem Core.setBar_ctl (c : Core) (n : Nat) (b : Barrier) : (c.setBar n b).ctl = c.ctl := rfl
@[simp] theorem Core.setBar_tl (c : Core) (n : Nat) (b : Barrier) : (c.setBar n b).tl = c.tl := rfl
@[simp] theorem Core.setBar_tlNext (c : Core) (n : Nat) (b : Barrier) : (c.setBar n b).tlNext = c.tlNext := rfl
@[simp] theorem Core.setBar_tlDone (c : Core) (n : Nat) (b : Barrier) : (c.setBar n b).tlDone = c.tlDone := rfl
@[simp] theorem Core.setBar_waits (c : Core) (n : Nat) (b : Barrier) : (c.setBar n b).waits = c.waits := rfl
@[simp] theorem Core.setBar_ports (c : Core) (n : Nat) (b : Barrier) : (c.setBar n b).ports = c.ports := rfl
@[simp] theorem Core.setBar_queues (c : Core) (n : Nat) (b : Barrier) : (c.setBar n b).queues = c.queues := rfl
@[simp] theorem Core.setBar_psb (c : Core) (n : Nat) (b : Barrier) : (c.setBar n b).psb = c.psb := rfl
@[simp] theorem Core.setBar_trapq (c : Core) (n : Nat) (b : Barrier) : (c.setBar n b).trapq = c.trapq := rfl
@[simp] theorem Core.setBar_comps (c : Core) (n : Nat) (b : Barrier) : (c.setBar n b).comps = c.comps := rfl
@[simp] theorem Core.setBar_engOut (c : Core) (n : Nat) (b : Barrier) : (c.setBar n b).engOut = c.engOut := rfl
@[simp] theorem Core.setBar_engines (c : Core) (n : Nat) (b : Barrier) : (c.setBar n b).engines = c.engines := rfl
@[simp] theorem Core.setBar_walks (c : Core) (n : Nat) (b : Barrier) : (c.setBar n b).walks = c.walks := rfl
@[simp] theorem Core.setBar_walkAge (c : Core) (n : Nat) (b : Barrier) : (c.setBar n b).walkAge = c.walkAge := rfl
@[simp] theorem Core.setBar_mn (c : Core) (n : Nat) (b : Barrier) : (c.setBar n b).mn = c.mn := rfl
@[simp] theorem Core.setBar_cpEdge (c : Core) (n : Nat) (b : Barrier) : (c.setBar n b).cpEdge = c.cpEdge := rfl
@[simp] theorem Core.setBar_laneSel (c : Core) (n : Nat) (b : Barrier) : (c.setBar n b).laneSel = c.laneSel := rfl
@[simp] theorem Core.setBar_laneShift (c : Core) (n : Nat) (b : Barrier) : (c.setBar n b).laneShift = c.laneShift := rfl
@[simp] theorem Core.setBar_peerLost (c : Core) (n : Nat) (b : Barrier) : (c.setBar n b).peerLost = c.peerLost := rfl
@[simp] theorem Core.setBar_spares (c : Core) (n : Nat) (b : Barrier) : (c.setBar n b).spares = c.spares := rfl
@[simp] theorem Core.setBar_retired (c : Core) (n : Nat) (b : Barrier) : (c.setBar n b).retired = c.retired := rfl
@[simp] theorem Core.setBar_clock (c : Core) (n : Nat) (b : Barrier) : (c.setBar n b).clock = c.clock := rfl
@[simp] theorem Core.setBar_detect (c : Core) (n : Nat) (b : Barrier) : (c.setBar n b).detect = c.detect := rfl
@[simp] theorem Core.setBar_engSaved (c : Core) (n : Nat) (b : Barrier) : (c.setBar n b).engSaved = c.engSaved := rfl
@[simp] theorem Core.setBar_lte (c : Core) (n : Nat) (b : Barrier) : (c.setBar n b).lte = c.lte := rfl

/-! ## Updates of Elem -/

@[simp] theorem Elem.setD_slots (e : Elem) (n : Nat) (v : Quad) : (e.setD n v).slots = e.slots := rfl
@[simp] theorem Elem.setD_sloten (e : Elem) (n : Nat) (v : Quad) : (e.setD n v).sloten = e.sloten := rfl
@[simp] theorem Elem.setD_trig (e : Elem) (n : Nat) (v : Quad) : (e.setD n v).trig = e.trig := rfl
@[simp] theorem Elem.setD_p (e : Elem) (n : Nat) (v : Quad) : (e.setD n v).p = e.p := rfl
@[simp] theorem Elem.setD_a (e : Elem) (n : Nat) (v : Quad) : (e.setD n v).a = e.a := rfl
@[simp] theorem Elem.setD_inq (e : Elem) (n : Nat) (v : Quad) : (e.setD n v).inq = e.inq := rfl
@[simp] theorem Elem.setD_outq (e : Elem) (n : Nat) (v : Quad) : (e.setD n v).outq = e.outq := rfl
@[simp] theorem Elem.setD_lane (e : Elem) (n : Nat) (v : Quad) : (e.setD n v).lane = e.lane := rfl
@[simp] theorem Elem.setD_fpctl (e : Elem) (n : Nat) (v : Quad) : (e.setD n v).fpctl = e.fpctl := rfl
@[simp] theorem Elem.setD_fpflg (e : Elem) (n : Nat) (v : Quad) : (e.setD n v).fpflg = e.fpflg := rfl
@[simp] theorem Elem.setD_srstate (e : Elem) (n : Nat) (v : Quad) : (e.setD n v).srstate = e.srstate := rfl
@[simp] theorem Elem.setD_estat (e : Elem) (n : Nat) (v : Quad) : (e.setD n v).estat = e.estat := rfl
@[simp] theorem Elem.setD_pendD (e : Elem) (n : Nat) (v : Quad) : (e.setD n v).pendD = e.pendD := rfl
@[simp] theorem Elem.setD_pendA (e : Elem) (n : Nat) (v : Quad) : (e.setD n v).pendA = e.pendA := rfl
@[simp] theorem Elem.setD_pendP (e : Elem) (n : Nat) (v : Quad) : (e.setD n v).pendP = e.pendP := rfl
@[simp] theorem Elem.setD_pendLane (e : Elem) (n : Nat) (v : Quad) : (e.setD n v).pendLane = e.pendLane := rfl
@[simp] theorem Elem.setD_flights (e : Elem) (n : Nat) (v : Quad) : (e.setD n v).flights = e.flights := rfl
@[simp] theorem Elem.setD_lastV (e : Elem) (n : Nat) (v : Quad) : (e.setD n v).lastV = e.lastV := rfl
@[simp] theorem Elem.setD_firedAt (e : Elem) (n : Nat) (v : Quad) : (e.setD n v).firedAt = e.firedAt := rfl
@[simp] theorem Elem.setD_tickets (e : Elem) (n : Nat) (v : Quad) : (e.setD n v).tickets = e.tickets := rfl
@[simp] theorem Elem.setD_held (e : Elem) (n : Nat) (v : Quad) : (e.setD n v).held = e.held := rfl
@[simp] theorem Elem.setD_faultAddr (e : Elem) (n : Nat) (v : Quad) : (e.setD n v).faultAddr = e.faultAddr := rfl
@[simp] theorem Elem.setD_faultWord (e : Elem) (n : Nat) (v : Quad) : (e.setD n v).faultWord = e.faultWord := rfl
@[simp] theorem Elem.setD_deferred (e : Elem) (n : Nat) (v : Quad) : (e.setD n v).deferred = e.deferred := rfl
@[simp] theorem Elem.setD_krf (e : Elem) (n : Nat) (v : Quad) : (e.setD n v).krf = e.krf := rfl
@[simp] theorem Elem.setD_wasStopped (e : Elem) (n : Nat) (v : Quad) : (e.setD n v).wasStopped = e.wasStopped := rfl
@[simp] theorem Elem.setD_fires (e : Elem) (n : Nat) (v : Quad) : (e.setD n v).fires = e.fires := rfl
@[simp] theorem Elem.setD_unsettled (e : Elem) (n : Nat) (v : Quad) : (e.setD n v).unsettled = e.unsettled := rfl
@[simp] theorem Elem.setA_slots (e : Elem) (n : Nat) (v : Word) : (e.setA n v).slots = e.slots := rfl
@[simp] theorem Elem.setA_sloten (e : Elem) (n : Nat) (v : Word) : (e.setA n v).sloten = e.sloten := rfl
@[simp] theorem Elem.setA_trig (e : Elem) (n : Nat) (v : Word) : (e.setA n v).trig = e.trig := rfl
@[simp] theorem Elem.setA_p (e : Elem) (n : Nat) (v : Word) : (e.setA n v).p = e.p := rfl
@[simp] theorem Elem.setA_d (e : Elem) (n : Nat) (v : Word) : (e.setA n v).d = e.d := rfl
@[simp] theorem Elem.setA_inq (e : Elem) (n : Nat) (v : Word) : (e.setA n v).inq = e.inq := rfl
@[simp] theorem Elem.setA_outq (e : Elem) (n : Nat) (v : Word) : (e.setA n v).outq = e.outq := rfl
@[simp] theorem Elem.setA_lane (e : Elem) (n : Nat) (v : Word) : (e.setA n v).lane = e.lane := rfl
@[simp] theorem Elem.setA_fpctl (e : Elem) (n : Nat) (v : Word) : (e.setA n v).fpctl = e.fpctl := rfl
@[simp] theorem Elem.setA_fpflg (e : Elem) (n : Nat) (v : Word) : (e.setA n v).fpflg = e.fpflg := rfl
@[simp] theorem Elem.setA_srstate (e : Elem) (n : Nat) (v : Word) : (e.setA n v).srstate = e.srstate := rfl
@[simp] theorem Elem.setA_estat (e : Elem) (n : Nat) (v : Word) : (e.setA n v).estat = e.estat := rfl
@[simp] theorem Elem.setA_pendD (e : Elem) (n : Nat) (v : Word) : (e.setA n v).pendD = e.pendD := rfl
@[simp] theorem Elem.setA_pendA (e : Elem) (n : Nat) (v : Word) : (e.setA n v).pendA = e.pendA := rfl
@[simp] theorem Elem.setA_pendP (e : Elem) (n : Nat) (v : Word) : (e.setA n v).pendP = e.pendP := rfl
@[simp] theorem Elem.setA_pendLane (e : Elem) (n : Nat) (v : Word) : (e.setA n v).pendLane = e.pendLane := rfl
@[simp] theorem Elem.setA_flights (e : Elem) (n : Nat) (v : Word) : (e.setA n v).flights = e.flights := rfl
@[simp] theorem Elem.setA_lastV (e : Elem) (n : Nat) (v : Word) : (e.setA n v).lastV = e.lastV := rfl
@[simp] theorem Elem.setA_firedAt (e : Elem) (n : Nat) (v : Word) : (e.setA n v).firedAt = e.firedAt := rfl
@[simp] theorem Elem.setA_tickets (e : Elem) (n : Nat) (v : Word) : (e.setA n v).tickets = e.tickets := rfl
@[simp] theorem Elem.setA_held (e : Elem) (n : Nat) (v : Word) : (e.setA n v).held = e.held := rfl
@[simp] theorem Elem.setA_faultAddr (e : Elem) (n : Nat) (v : Word) : (e.setA n v).faultAddr = e.faultAddr := rfl
@[simp] theorem Elem.setA_faultWord (e : Elem) (n : Nat) (v : Word) : (e.setA n v).faultWord = e.faultWord := rfl
@[simp] theorem Elem.setA_deferred (e : Elem) (n : Nat) (v : Word) : (e.setA n v).deferred = e.deferred := rfl
@[simp] theorem Elem.setA_krf (e : Elem) (n : Nat) (v : Word) : (e.setA n v).krf = e.krf := rfl
@[simp] theorem Elem.setA_wasStopped (e : Elem) (n : Nat) (v : Word) : (e.setA n v).wasStopped = e.wasStopped := rfl
@[simp] theorem Elem.setA_fires (e : Elem) (n : Nat) (v : Word) : (e.setA n v).fires = e.fires := rfl
@[simp] theorem Elem.setA_unsettled (e : Elem) (n : Nat) (v : Word) : (e.setA n v).unsettled = e.unsettled := rfl
@[simp] theorem Elem.setIn_slots (e : Elem) (n : Nat) (c : InChan) : (e.setIn n c).slots = e.slots := rfl
@[simp] theorem Elem.setIn_sloten (e : Elem) (n : Nat) (c : InChan) : (e.setIn n c).sloten = e.sloten := rfl
@[simp] theorem Elem.setIn_trig (e : Elem) (n : Nat) (c : InChan) : (e.setIn n c).trig = e.trig := rfl
@[simp] theorem Elem.setIn_p (e : Elem) (n : Nat) (c : InChan) : (e.setIn n c).p = e.p := rfl
@[simp] theorem Elem.setIn_d (e : Elem) (n : Nat) (c : InChan) : (e.setIn n c).d = e.d := rfl
@[simp] theorem Elem.setIn_a (e : Elem) (n : Nat) (c : InChan) : (e.setIn n c).a = e.a := rfl
@[simp] theorem Elem.setIn_outq (e : Elem) (n : Nat) (c : InChan) : (e.setIn n c).outq = e.outq := rfl
@[simp] theorem Elem.setIn_lane (e : Elem) (n : Nat) (c : InChan) : (e.setIn n c).lane = e.lane := rfl
@[simp] theorem Elem.setIn_fpctl (e : Elem) (n : Nat) (c : InChan) : (e.setIn n c).fpctl = e.fpctl := rfl
@[simp] theorem Elem.setIn_fpflg (e : Elem) (n : Nat) (c : InChan) : (e.setIn n c).fpflg = e.fpflg := rfl
@[simp] theorem Elem.setIn_srstate (e : Elem) (n : Nat) (c : InChan) : (e.setIn n c).srstate = e.srstate := rfl
@[simp] theorem Elem.setIn_estat (e : Elem) (n : Nat) (c : InChan) : (e.setIn n c).estat = e.estat := rfl
@[simp] theorem Elem.setIn_pendD (e : Elem) (n : Nat) (c : InChan) : (e.setIn n c).pendD = e.pendD := rfl
@[simp] theorem Elem.setIn_pendA (e : Elem) (n : Nat) (c : InChan) : (e.setIn n c).pendA = e.pendA := rfl
@[simp] theorem Elem.setIn_pendP (e : Elem) (n : Nat) (c : InChan) : (e.setIn n c).pendP = e.pendP := rfl
@[simp] theorem Elem.setIn_pendLane (e : Elem) (n : Nat) (c : InChan) : (e.setIn n c).pendLane = e.pendLane := rfl
@[simp] theorem Elem.setIn_flights (e : Elem) (n : Nat) (c : InChan) : (e.setIn n c).flights = e.flights := rfl
@[simp] theorem Elem.setIn_lastV (e : Elem) (n : Nat) (c : InChan) : (e.setIn n c).lastV = e.lastV := rfl
@[simp] theorem Elem.setIn_firedAt (e : Elem) (n : Nat) (c : InChan) : (e.setIn n c).firedAt = e.firedAt := rfl
@[simp] theorem Elem.setIn_tickets (e : Elem) (n : Nat) (c : InChan) : (e.setIn n c).tickets = e.tickets := rfl
@[simp] theorem Elem.setIn_held (e : Elem) (n : Nat) (c : InChan) : (e.setIn n c).held = e.held := rfl
@[simp] theorem Elem.setIn_faultAddr (e : Elem) (n : Nat) (c : InChan) : (e.setIn n c).faultAddr = e.faultAddr := rfl
@[simp] theorem Elem.setIn_faultWord (e : Elem) (n : Nat) (c : InChan) : (e.setIn n c).faultWord = e.faultWord := rfl
@[simp] theorem Elem.setIn_deferred (e : Elem) (n : Nat) (c : InChan) : (e.setIn n c).deferred = e.deferred := rfl
@[simp] theorem Elem.setIn_krf (e : Elem) (n : Nat) (c : InChan) : (e.setIn n c).krf = e.krf := rfl
@[simp] theorem Elem.setIn_wasStopped (e : Elem) (n : Nat) (c : InChan) : (e.setIn n c).wasStopped = e.wasStopped := rfl
@[simp] theorem Elem.setIn_fires (e : Elem) (n : Nat) (c : InChan) : (e.setIn n c).fires = e.fires := rfl
@[simp] theorem Elem.setIn_unsettled (e : Elem) (n : Nat) (c : InChan) : (e.setIn n c).unsettled = e.unsettled := rfl
@[simp] theorem Elem.setOut_slots (e : Elem) (n : Nat) (c : OutChan) : (e.setOut n c).slots = e.slots := rfl
@[simp] theorem Elem.setOut_sloten (e : Elem) (n : Nat) (c : OutChan) : (e.setOut n c).sloten = e.sloten := rfl
@[simp] theorem Elem.setOut_trig (e : Elem) (n : Nat) (c : OutChan) : (e.setOut n c).trig = e.trig := rfl
@[simp] theorem Elem.setOut_p (e : Elem) (n : Nat) (c : OutChan) : (e.setOut n c).p = e.p := rfl
@[simp] theorem Elem.setOut_d (e : Elem) (n : Nat) (c : OutChan) : (e.setOut n c).d = e.d := rfl
@[simp] theorem Elem.setOut_a (e : Elem) (n : Nat) (c : OutChan) : (e.setOut n c).a = e.a := rfl
@[simp] theorem Elem.setOut_inq (e : Elem) (n : Nat) (c : OutChan) : (e.setOut n c).inq = e.inq := rfl
@[simp] theorem Elem.setOut_lane (e : Elem) (n : Nat) (c : OutChan) : (e.setOut n c).lane = e.lane := rfl
@[simp] theorem Elem.setOut_fpctl (e : Elem) (n : Nat) (c : OutChan) : (e.setOut n c).fpctl = e.fpctl := rfl
@[simp] theorem Elem.setOut_fpflg (e : Elem) (n : Nat) (c : OutChan) : (e.setOut n c).fpflg = e.fpflg := rfl
@[simp] theorem Elem.setOut_srstate (e : Elem) (n : Nat) (c : OutChan) : (e.setOut n c).srstate = e.srstate := rfl
@[simp] theorem Elem.setOut_estat (e : Elem) (n : Nat) (c : OutChan) : (e.setOut n c).estat = e.estat := rfl
@[simp] theorem Elem.setOut_pendD (e : Elem) (n : Nat) (c : OutChan) : (e.setOut n c).pendD = e.pendD := rfl
@[simp] theorem Elem.setOut_pendA (e : Elem) (n : Nat) (c : OutChan) : (e.setOut n c).pendA = e.pendA := rfl
@[simp] theorem Elem.setOut_pendP (e : Elem) (n : Nat) (c : OutChan) : (e.setOut n c).pendP = e.pendP := rfl
@[simp] theorem Elem.setOut_pendLane (e : Elem) (n : Nat) (c : OutChan) : (e.setOut n c).pendLane = e.pendLane := rfl
@[simp] theorem Elem.setOut_flights (e : Elem) (n : Nat) (c : OutChan) : (e.setOut n c).flights = e.flights := rfl
@[simp] theorem Elem.setOut_lastV (e : Elem) (n : Nat) (c : OutChan) : (e.setOut n c).lastV = e.lastV := rfl
@[simp] theorem Elem.setOut_firedAt (e : Elem) (n : Nat) (c : OutChan) : (e.setOut n c).firedAt = e.firedAt := rfl
@[simp] theorem Elem.setOut_tickets (e : Elem) (n : Nat) (c : OutChan) : (e.setOut n c).tickets = e.tickets := rfl
@[simp] theorem Elem.setOut_held (e : Elem) (n : Nat) (c : OutChan) : (e.setOut n c).held = e.held := rfl
@[simp] theorem Elem.setOut_faultAddr (e : Elem) (n : Nat) (c : OutChan) : (e.setOut n c).faultAddr = e.faultAddr := rfl
@[simp] theorem Elem.setOut_faultWord (e : Elem) (n : Nat) (c : OutChan) : (e.setOut n c).faultWord = e.faultWord := rfl
@[simp] theorem Elem.setOut_deferred (e : Elem) (n : Nat) (c : OutChan) : (e.setOut n c).deferred = e.deferred := rfl
@[simp] theorem Elem.setOut_krf (e : Elem) (n : Nat) (c : OutChan) : (e.setOut n c).krf = e.krf := rfl
@[simp] theorem Elem.setOut_wasStopped (e : Elem) (n : Nat) (c : OutChan) : (e.setOut n c).wasStopped = e.wasStopped := rfl
@[simp] theorem Elem.setOut_fires (e : Elem) (n : Nat) (c : OutChan) : (e.setOut n c).fires = e.fires := rfl
@[simp] theorem Elem.setOut_unsettled (e : Elem) (n : Nat) (c : OutChan) : (e.setOut n c).unsettled = e.unsettled := rfl
@[simp] theorem Elem.setRun_slots (e : Elem) (r : Nat) : (e.setRun r).slots = e.slots := by unfold Elem.setRun; rfl
@[simp] theorem Elem.setRun_sloten (e : Elem) (r : Nat) : (e.setRun r).sloten = e.sloten := by unfold Elem.setRun; rfl
@[simp] theorem Elem.setRun_trig (e : Elem) (r : Nat) : (e.setRun r).trig = e.trig := by unfold Elem.setRun; rfl
@[simp] theorem Elem.setRun_p (e : Elem) (r : Nat) : (e.setRun r).p = e.p := by unfold Elem.setRun; rfl
@[simp] theorem Elem.setRun_d (e : Elem) (r : Nat) : (e.setRun r).d = e.d := by unfold Elem.setRun; rfl
@[simp] theorem Elem.setRun_a (e : Elem) (r : Nat) : (e.setRun r).a = e.a := by unfold Elem.setRun; rfl
@[simp] theorem Elem.setRun_inq (e : Elem) (r : Nat) : (e.setRun r).inq = e.inq := by unfold Elem.setRun; rfl
@[simp] theorem Elem.setRun_outq (e : Elem) (r : Nat) : (e.setRun r).outq = e.outq := by unfold Elem.setRun; rfl
@[simp] theorem Elem.setRun_lane (e : Elem) (r : Nat) : (e.setRun r).lane = e.lane := by unfold Elem.setRun; rfl
@[simp] theorem Elem.setRun_fpctl (e : Elem) (r : Nat) : (e.setRun r).fpctl = e.fpctl := by unfold Elem.setRun; rfl
@[simp] theorem Elem.setRun_fpflg (e : Elem) (r : Nat) : (e.setRun r).fpflg = e.fpflg := by unfold Elem.setRun; rfl
@[simp] theorem Elem.setRun_srstate (e : Elem) (r : Nat) : (e.setRun r).srstate = e.srstate := by unfold Elem.setRun; rfl
@[simp] theorem Elem.setRun_pendD (e : Elem) (r : Nat) : (e.setRun r).pendD = e.pendD := by unfold Elem.setRun; rfl
@[simp] theorem Elem.setRun_pendA (e : Elem) (r : Nat) : (e.setRun r).pendA = e.pendA := by unfold Elem.setRun; rfl
@[simp] theorem Elem.setRun_pendP (e : Elem) (r : Nat) : (e.setRun r).pendP = e.pendP := by unfold Elem.setRun; rfl
@[simp] theorem Elem.setRun_pendLane (e : Elem) (r : Nat) : (e.setRun r).pendLane = e.pendLane := by unfold Elem.setRun; rfl
@[simp] theorem Elem.setRun_flights (e : Elem) (r : Nat) : (e.setRun r).flights = e.flights := by unfold Elem.setRun; rfl
@[simp] theorem Elem.setRun_lastV (e : Elem) (r : Nat) : (e.setRun r).lastV = e.lastV := by unfold Elem.setRun; rfl
@[simp] theorem Elem.setRun_firedAt (e : Elem) (r : Nat) : (e.setRun r).firedAt = e.firedAt := by unfold Elem.setRun; rfl
@[simp] theorem Elem.setRun_tickets (e : Elem) (r : Nat) : (e.setRun r).tickets = e.tickets := by unfold Elem.setRun; rfl
@[simp] theorem Elem.setRun_held (e : Elem) (r : Nat) : (e.setRun r).held = e.held := by unfold Elem.setRun; rfl
@[simp] theorem Elem.setRun_faultAddr (e : Elem) (r : Nat) : (e.setRun r).faultAddr = e.faultAddr := by unfold Elem.setRun; rfl
@[simp] theorem Elem.setRun_faultWord (e : Elem) (r : Nat) : (e.setRun r).faultWord = e.faultWord := by unfold Elem.setRun; rfl
@[simp] theorem Elem.setRun_deferred (e : Elem) (r : Nat) : (e.setRun r).deferred = e.deferred := by unfold Elem.setRun; rfl
@[simp] theorem Elem.setRun_krf (e : Elem) (r : Nat) : (e.setRun r).krf = e.krf := by unfold Elem.setRun; rfl
@[simp] theorem Elem.setRun_wasStopped (e : Elem) (r : Nat) : (e.setRun r).wasStopped = e.wasStopped := by unfold Elem.setRun; rfl
@[simp] theorem Elem.setRun_fires (e : Elem) (r : Nat) : (e.setRun r).fires = e.fires := by unfold Elem.setRun; rfl
@[simp] theorem Elem.setRun_unsettled (e : Elem) (r : Nat) : (e.setRun r).unsettled = e.unsettled := by unfold Elem.setRun; rfl
@[simp] theorem Elem.stop_slots (e : Elem) (n c : Nat) : (e.stop n c).slots = e.slots := by unfold Elem.stop; rfl
@[simp] theorem Elem.stop_sloten (e : Elem) (n c : Nat) : (e.stop n c).sloten = e.sloten := by unfold Elem.stop; rfl
@[simp] theorem Elem.stop_trig (e : Elem) (n c : Nat) : (e.stop n c).trig = e.trig := by unfold Elem.stop; rfl
@[simp] theorem Elem.stop_p (e : Elem) (n c : Nat) : (e.stop n c).p = e.p := by unfold Elem.stop; rfl
@[simp] theorem Elem.stop_d (e : Elem) (n c : Nat) : (e.stop n c).d = e.d := by unfold Elem.stop; rfl
@[simp] theorem Elem.stop_a (e : Elem) (n c : Nat) : (e.stop n c).a = e.a := by unfold Elem.stop; rfl
@[simp] theorem Elem.stop_inq (e : Elem) (n c : Nat) : (e.stop n c).inq = e.inq := by unfold Elem.stop; rfl
@[simp] theorem Elem.stop_outq (e : Elem) (n c : Nat) : (e.stop n c).outq = e.outq := by unfold Elem.stop; rfl
@[simp] theorem Elem.stop_lane (e : Elem) (n c : Nat) : (e.stop n c).lane = e.lane := by unfold Elem.stop; rfl
@[simp] theorem Elem.stop_fpctl (e : Elem) (n c : Nat) : (e.stop n c).fpctl = e.fpctl := by unfold Elem.stop; rfl
@[simp] theorem Elem.stop_fpflg (e : Elem) (n c : Nat) : (e.stop n c).fpflg = e.fpflg := by unfold Elem.stop; rfl
@[simp] theorem Elem.stop_srstate (e : Elem) (n c : Nat) : (e.stop n c).srstate = e.srstate := by unfold Elem.stop; rfl
@[simp] theorem Elem.stop_pendD (e : Elem) (n c : Nat) : (e.stop n c).pendD = e.pendD := by unfold Elem.stop; rfl
@[simp] theorem Elem.stop_pendA (e : Elem) (n c : Nat) : (e.stop n c).pendA = e.pendA := by unfold Elem.stop; rfl
@[simp] theorem Elem.stop_pendP (e : Elem) (n c : Nat) : (e.stop n c).pendP = e.pendP := by unfold Elem.stop; rfl
@[simp] theorem Elem.stop_pendLane (e : Elem) (n c : Nat) : (e.stop n c).pendLane = e.pendLane := by unfold Elem.stop; rfl
@[simp] theorem Elem.stop_flights (e : Elem) (n c : Nat) : (e.stop n c).flights = e.flights := by unfold Elem.stop; rfl
@[simp] theorem Elem.stop_lastV (e : Elem) (n c : Nat) : (e.stop n c).lastV = e.lastV := by unfold Elem.stop; rfl
@[simp] theorem Elem.stop_firedAt (e : Elem) (n c : Nat) : (e.stop n c).firedAt = e.firedAt := by unfold Elem.stop; rfl
@[simp] theorem Elem.stop_tickets (e : Elem) (n c : Nat) : (e.stop n c).tickets = e.tickets := by unfold Elem.stop; rfl
@[simp] theorem Elem.stop_held (e : Elem) (n c : Nat) : (e.stop n c).held = e.held := by unfold Elem.stop; rfl
@[simp] theorem Elem.stop_faultAddr (e : Elem) (n c : Nat) : (e.stop n c).faultAddr = e.faultAddr := by unfold Elem.stop; rfl
@[simp] theorem Elem.stop_faultWord (e : Elem) (n c : Nat) : (e.stop n c).faultWord = e.faultWord := by unfold Elem.stop; rfl
@[simp] theorem Elem.stop_deferred (e : Elem) (n c : Nat) : (e.stop n c).deferred = e.deferred := by unfold Elem.stop; rfl
@[simp] theorem Elem.stop_krf (e : Elem) (n c : Nat) : (e.stop n c).krf = e.krf := by unfold Elem.stop; rfl
@[simp] theorem Elem.stop_wasStopped (e : Elem) (n c : Nat) : (e.stop n c).wasStopped = e.wasStopped := by unfold Elem.stop; rfl
@[simp] theorem Elem.stop_fires (e : Elem) (n c : Nat) : (e.stop n c).fires = e.fires := by unfold Elem.stop; rfl
@[simp] theorem Elem.stop_unsettled (e : Elem) (n c : Nat) : (e.stop n c).unsettled = e.unsettled := by unfold Elem.stop; rfl
@[simp] theorem Elem.laneWrite_slots (e : Elem) (a : Nat) (bs : List Byte) : (e.laneWrite a bs).slots = e.slots := rfl
@[simp] theorem Elem.laneWrite_sloten (e : Elem) (a : Nat) (bs : List Byte) : (e.laneWrite a bs).sloten = e.sloten := rfl
@[simp] theorem Elem.laneWrite_trig (e : Elem) (a : Nat) (bs : List Byte) : (e.laneWrite a bs).trig = e.trig := rfl
@[simp] theorem Elem.laneWrite_p (e : Elem) (a : Nat) (bs : List Byte) : (e.laneWrite a bs).p = e.p := rfl
@[simp] theorem Elem.laneWrite_d (e : Elem) (a : Nat) (bs : List Byte) : (e.laneWrite a bs).d = e.d := rfl
@[simp] theorem Elem.laneWrite_a (e : Elem) (a : Nat) (bs : List Byte) : (e.laneWrite a bs).a = e.a := rfl
@[simp] theorem Elem.laneWrite_inq (e : Elem) (a : Nat) (bs : List Byte) : (e.laneWrite a bs).inq = e.inq := rfl
@[simp] theorem Elem.laneWrite_outq (e : Elem) (a : Nat) (bs : List Byte) : (e.laneWrite a bs).outq = e.outq := rfl
@[simp] theorem Elem.laneWrite_fpctl (e : Elem) (a : Nat) (bs : List Byte) : (e.laneWrite a bs).fpctl = e.fpctl := rfl
@[simp] theorem Elem.laneWrite_fpflg (e : Elem) (a : Nat) (bs : List Byte) : (e.laneWrite a bs).fpflg = e.fpflg := rfl
@[simp] theorem Elem.laneWrite_srstate (e : Elem) (a : Nat) (bs : List Byte) : (e.laneWrite a bs).srstate = e.srstate := rfl
@[simp] theorem Elem.laneWrite_estat (e : Elem) (a : Nat) (bs : List Byte) : (e.laneWrite a bs).estat = e.estat := rfl
@[simp] theorem Elem.laneWrite_pendD (e : Elem) (a : Nat) (bs : List Byte) : (e.laneWrite a bs).pendD = e.pendD := rfl
@[simp] theorem Elem.laneWrite_pendA (e : Elem) (a : Nat) (bs : List Byte) : (e.laneWrite a bs).pendA = e.pendA := rfl
@[simp] theorem Elem.laneWrite_pendP (e : Elem) (a : Nat) (bs : List Byte) : (e.laneWrite a bs).pendP = e.pendP := rfl
@[simp] theorem Elem.laneWrite_pendLane (e : Elem) (a : Nat) (bs : List Byte) : (e.laneWrite a bs).pendLane = e.pendLane := rfl
@[simp] theorem Elem.laneWrite_flights (e : Elem) (a : Nat) (bs : List Byte) : (e.laneWrite a bs).flights = e.flights := rfl
@[simp] theorem Elem.laneWrite_lastV (e : Elem) (a : Nat) (bs : List Byte) : (e.laneWrite a bs).lastV = e.lastV := rfl
@[simp] theorem Elem.laneWrite_firedAt (e : Elem) (a : Nat) (bs : List Byte) : (e.laneWrite a bs).firedAt = e.firedAt := rfl
@[simp] theorem Elem.laneWrite_tickets (e : Elem) (a : Nat) (bs : List Byte) : (e.laneWrite a bs).tickets = e.tickets := rfl
@[simp] theorem Elem.laneWrite_held (e : Elem) (a : Nat) (bs : List Byte) : (e.laneWrite a bs).held = e.held := rfl
@[simp] theorem Elem.laneWrite_faultAddr (e : Elem) (a : Nat) (bs : List Byte) : (e.laneWrite a bs).faultAddr = e.faultAddr := rfl
@[simp] theorem Elem.laneWrite_faultWord (e : Elem) (a : Nat) (bs : List Byte) : (e.laneWrite a bs).faultWord = e.faultWord := rfl
@[simp] theorem Elem.laneWrite_deferred (e : Elem) (a : Nat) (bs : List Byte) : (e.laneWrite a bs).deferred = e.deferred := rfl
@[simp] theorem Elem.laneWrite_krf (e : Elem) (a : Nat) (bs : List Byte) : (e.laneWrite a bs).krf = e.krf := rfl
@[simp] theorem Elem.laneWrite_wasStopped (e : Elem) (a : Nat) (bs : List Byte) : (e.laneWrite a bs).wasStopped = e.wasStopped := rfl
@[simp] theorem Elem.laneWrite_fires (e : Elem) (a : Nat) (bs : List Byte) : (e.laneWrite a bs).fires = e.fires := rfl
@[simp] theorem Elem.laneWrite_unsettled (e : Elem) (a : Nat) (bs : List Byte) : (e.laneWrite a bs).unsettled = e.unsettled := rfl

end Sys2Proof.Machine
end

