-- ==== Sys2Proof/Laws/Fire.lean ====
section
/-! SUPPORT. Firing: what a flight is made of, and what fire and fireAt leave alone (R13, R14, R18, R19). -/

namespace Sys2Proof.Machine

open Sys2Proof

/-- Reserving positions of output channels changes the output channels alone. -/
theorem reserveOuts_eq (e : Elem) (outs : List (Fin 4)) (k : Nat) :
    reserveOuts e outs k = { e with outq := (reserveOuts e outs k).outq } := by
  induction outs generalizing e with
  | nil => rfl
  | cons n outs ih =>
    show reserveOuts _ outs k = _
    rw [ih]
    rfl

/-- Reserving head tokens changes the input channels alone. -/
theorem reserveIns_eq (e : Elem) (m : BitVec 4) : reserveIns e m = { e with inq := (reserveIns e m).inq } := by
  simp only [reserveIns, List.foldl_cons, List.foldl_nil]
  repeat' split
  all_goals rfl

/-- Reserved tokens stay in their channels until V. -/
theorem inCh_reserveIns (e : Elem) (m : BitVec 4) (n : Nat) : ((reserveIns e m).inCh n).q = (e.inCh n).q := by
  have one (e : Elem) (k : Nat) (c : InChan) (hc : c.q = (e.inCh k).q) : ((e.setIn k c).inCh n).q = (e.inCh n).q := by
    by_cases h : k = n
    · subst h; rw [Elem.inCh_setIn_same]; exact hc
    · rw [Elem.inCh_setIn_of_ne e h]
  simp only [reserveIns, List.foldl_cons, List.foldl_nil]
  repeat' split
  all_goals simp [one]

/-- The flight that launchFlight adds. -/
def flightIn (e : Elem) (cyc slot : Nat) (word : Word) (t : Dword) (need : Need) (lat : Nat) (r : Fired) : Flight :=
  { vis := max (cyc + lat) e.prevV, slot := slot, word := word, consume := eaten need t,
    outs := need.outs.map fun n => (n, e.tickets), pset := trigPset t, pclr := trigPclr t, pendD := need.wD &&& ~~~r.spare,
    pendA := need.aW, pendP := trigPset t ||| trigPclr t ||| need.pW, pendLane := need.laneW, flags := r.flags,
    srAfter := r.sr, acts := r.acts, keepD := r.keepD, opa := laneOp e cyc need 0, opb := laneOp e cyc need 1, trap := flagTrap e.fpctl r.flags }

/-- What launchFlight changes of an element. -/
theorem launchFlight_eq (e : Elem) (cyc slot : Nat) (word : Word) (t : Dword) (need : Need) (lat : Nat) (r : Fired) :
    launchFlight e cyc slot word t need lat r =
      { e with
        inq := (launchFlight e cyc slot word t need lat r).inq, outq := (launchFlight e cyc slot word t need lat r).outq,
        flights := e.flights ++ [flightIn e cyc slot word t need lat r], firedAt := some cyc, tickets := e.tickets + 1,
        pendD := e.pendD ||| need.wD &&& ~~~r.spare, pendA := e.pendA ||| need.aW,
        pendP := e.pendP ||| (trigPset t ||| trigPclr t ||| need.pW), pendLane := e.pendLane || need.laneW } := by
  have h := reserveIns_eq (reserveOuts e need.outs e.tickets) (eaten need t)
  rw [reserveOuts_eq] at h
  simp only [launchFlight]
  rw [reserveOuts_eq, h]
  rfl

/-- Tokens stay in their channels until V. -/
theorem inCh_launchFlight (e : Elem) (cyc slot : Nat) (word : Word) (t : Dword) (need : Need) (lat : Nat) (r : Fired) (n : Nat) :
    ((launchFlight e cyc slot word t need lat r).inCh n).q = (e.inCh n).q := by
  have h1 : ((launchFlight e cyc slot word t need lat r).inCh n) =
      (reserveIns (reserveOuts e need.outs e.tickets) (eaten need t)).inCh n := rfl
  rw [h1, inCh_reserveIns, reserveOuts_eq]
  rfl

/-- A unit that is not ready waits. -/
theorem fire_waits {s : State} {u : UnitId} {slot : Nat} {word : Word} {i : Instr} {lat : Nat} {f : Elem → Nat → Firing}
    (ha : s.actor = .unit u slot word) (hr : ready s u word i = false) : fire s i lat f = .next s := by
  simp [fire, ha, hr]

/-- A unit that is ready fires. -/
theorem fire_ready {s : State} {u : UnitId} {slot : Nat} {word : Word} {i : Instr} {lat : Nat} {f : Elem → Nat → Firing}
    (ha : s.actor = .unit u slot word) (hr : ready s u word i = true) :
    fire s i lat f = .next (fireAt s u slot word i lat f) := by
  simp [fire, ha, hr]

/-- Where only a unit runs an instruction, no other actor changes anything by it. -/
theorem fire_otherActor {s : State} {i : Instr} {lat : Nat} {f : Elem → Nat → Firing}
    (ha : ∀ u slot word, s.actor ≠ .unit u slot word) : fire s i lat f = .next s := by
  simp [fire, ha]

/-- An instruction whose operands are in range traps with the cause it finds. -/
theorem fireAt_error {s : State} {u : UnitId} {slot : Nat} {word : Word} {i : Instr} {lat : Nat} {f : Elem → Nat → Firing}
    {c : Cause} {a : Dword} (hl : laneFault (Machine.getElem s u) (needOf (Machine.getElem s u) s.cycle i) = false)
    (hf : f (Machine.getElem s u) (Machine.getElem s u).tickets = .error (c, a)) :
    fireAt s u slot word i lat f =
      trapUnit (setElem s u { Machine.getElem s u with firedAt := some s.cycle }) u slot word c a 0 false := by
  simp [fireAt, hl, hf]

/-- An instruction that sends no command and brings about no event takes no queue entry. -/
theorem takeEntries_none (s : State) (u : UnitId) (acts : List Act) (h : ∀ p c, Act.command p c ∉ acts) :
    takeEntries s u acts = s := by
  induction acts generalizing s with
  | nil => rfl
  | cons a acts ih =>
    have ha : takeEntries s u (a :: acts) = takeEntries s u acts := by
      cases a <;> first | rfl | (rename_i p c; exact absurd (List.mem_cons_self ..) (h p c))
    rw [ha]
    exact ih s fun p c hm => h p c (List.mem_cons_of_mem _ hm)

@[simp] theorem nextUp_nil (s : State) : nextUp s [] = s := by simp [nextUp]

/-- What a firing comes to that sends no command and brings about nothing in its own cycle. -/
theorem fireAt_ok {s : State} {u : UnitId} {slot : Nat} {word : Word} {i : Instr} {lat : Nat} {f : Elem → Nat → Firing}
    {r : Fired} (hl : laneFault (Machine.getElem s u) (needOf (Machine.getElem s u) s.cycle i) = false)
    (hf : f (Machine.getElem s u) (Machine.getElem s u).tickets = .ok r) (hc : ∀ p c, Act.command p c ∉ r.acts)
    (he : r.events = []) (hs : r.sleep = none) :
    fireAt s u slot word i lat f =
      let e := Machine.getElem s u
      let s' := setElem s u (launchFlight e s.cycle slot word (gate e (isCe u) word) (needOf e s.cycle i) lat r)
      if isCe u then setCtl s' u.core { getCtl s u.core with pc := slot + Instr.bytes i } else s' := by
  simp only [fireAt, hl, hf, Bool.false_eq_true, ↓reduceIte, takeEntries_none _ _ _ hc, he, nextUp_nil, hs, getCtl_setElem]
  split
  · congr 1
  · rfl

end Sys2Proof.Machine
end

