-- ==== Sys2Proof/Laws/Lanes.lean ====
section
/-! SUPPORT. Lanes: what splitting a word into lanes and joining lanes into a word give (R5, R38, R104). -/

namespace Sys2Proof.Machine

open Sys2Proof

@[simp] theorem splitLanes_length (w n x : Nat) : (splitLanes w n x).length = n := by
  induction n generalizing x with
  | zero => rfl
  | succ n ih => simp [splitLanes, ih]

/-- Lane k of a number that is split. -/
theorem splitLanes_getElem? (w n x k : Nat) (h : k < n) : (splitLanes w n x)[k]? = some (x / 2 ^ (w * k) % 2 ^ w) := by
  induction n generalizing x k with
  | zero => omega
  | succ n ih =>
    cases k with
    | zero => simp [splitLanes]
    | succ k =>
      simp only [splitLanes, List.getElem?_cons_succ]
      rw [ih _ _ (by omega), Nat.div_div_eq_div_mul, ← Nat.pow_add, Nat.mul_succ, Nat.add_comm w]

@[simp] theorem lanes_length (w : Nat) (q : Quad) : (lanes w q).length = 128 / w := splitLanes_length ..

theorem lanes_getElem? (w : Nat) (q : Quad) (k : Nat) (h : k < 128 / w) :
    (lanes w q)[k]? = some (q.toNat / 2 ^ (w * k) % 2 ^ w) := splitLanes_getElem? _ _ _ _ h

theorem joinLanes_lt (w : Nat) (xs : List Nat) : joinLanes w xs < 2 ^ (w * xs.length) := by
  induction xs with
  | nil => simp [joinLanes]
  | cons x xs ih =>
    simp only [joinLanes, List.length_cons, Nat.mul_succ, Nat.pow_add]
    have h1 : x % 2 ^ w < 2 ^ w := Nat.mod_lt _ (Nat.two_pow_pos w)
    calc x % 2 ^ w + 2 ^ w * joinLanes w xs < 2 ^ w + 2 ^ w * joinLanes w xs := by omega
      _ = 2 ^ w * (joinLanes w xs + 1) := by rw [Nat.mul_add]; omega
      _ ≤ 2 ^ w * 2 ^ (w * xs.length) := Nat.mul_le_mul_left _ ih
      _ = _ := Nat.mul_comm ..

/-- Lane k of joined lanes. -/
theorem joinLanes_lane (w : Nat) (xs : List Nat) (k : Nat) :
    joinLanes w xs / 2 ^ (w * k) % 2 ^ w = xs.getD k 0 % 2 ^ w := by
  induction xs generalizing k with
  | nil => simp [joinLanes]
  | cons x xs ih =>
    cases k with
    | zero => simp [joinLanes]
    | succ k =>
      have h1 : x % 2 ^ w < 2 ^ w := Nat.mod_lt _ (Nat.two_pow_pos w)
      simp only [joinLanes, Nat.mul_succ, Nat.pow_add, Nat.mul_comm (2 ^ (w * k)), List.getD_cons_succ]
      rw [← Nat.div_div_eq_div_mul, Nat.add_mul_div_left _ _ (Nat.two_pow_pos w), Nat.div_eq_of_lt h1, Nat.zero_add, ih]

/-- Lane k of a word made of lanes that fit into it. -/
theorem ofLanes_lane (w : Nat) (xs : List Nat) (k : Nat) (h : w * xs.length ≤ 128) :
    (ofLanes w xs).toNat / 2 ^ (w * k) % 2 ^ w = xs.getD k 0 % 2 ^ w := by
  have hlt : joinLanes w xs < 2 ^ 128 := Nat.lt_of_lt_of_le (joinLanes_lt w xs) (Nat.pow_le_pow_right (by omega) h)
  rw [ofLanes, BitVec.toNat_ofNat, Nat.mod_eq_of_lt hlt, joinLanes_lane]

/-- Lane k of a word whose lanes come from those of two words. -/
theorem map2_lane (w : Nat) (f : Nat → Nat → Nat) (a b : Quad) (k : Nat) (h : k < 128 / w) :
    (map2 w f a b).toNat / 2 ^ (w * k) % 2 ^ w =
      f (a.toNat / 2 ^ (w * k) % 2 ^ w) (b.toNat / 2 ^ (w * k) % 2 ^ w) % 2 ^ w := by
  rw [map2, ofLanes_lane _ _ _ (by simpa using Nat.mul_div_le 128 w)]
  simp [List.getD_eq_getElem?_getD, List.getElem?_zipWith, lanes_getElem? _ _ _ h]

/-- Lane k of a word whose lanes come from those of one word. -/
theorem map1_lane (w : Nat) (f : Nat → Nat) (a : Quad) (k : Nat) (h : k < 128 / w) :
    (map1 w f a).toNat / 2 ^ (w * k) % 2 ^ w = f (a.toNat / 2 ^ (w * k) % 2 ^ w) % 2 ^ w := by
  rw [map1, ofLanes_lane _ _ _ (by simpa using Nat.mul_div_le 128 w)]
  simp [List.getD_eq_getElem?_getD, lanes_getElem? _ _ _ h]

theorem width_pos (t : LaneType) : 0 < LaneType.width t := by cases t <;> decide

end Sys2Proof.Machine
end

