-- ==== Sys2Proof/Tests/Slice0.lean ====
section
/-! SUPPORT. Tests: what WellFormed refuses, the words of the manual's encodings, single steps on small states with values from
the manual's rules and worked examples, and a witness for the premises of each statement. -/

namespace Sys2Proof.Tests

open Sys2Proof Sys2Proof.Machine Sys2Proof.Claims

set_option Elab.async false

/-! ## What WellFormed refuses -/

/-- R114, R118, R120 to R126, R129, R140, R143: lane types outside an instruction's set. -/
theorem test_wf_lane_types : ∀ i ∈ [Instr.add .f32x4 (.d 0) .zero .zero, .mskidx .s128 (.d 0) .zero .zero, .mad .f32x4 (.d 0) .zero .zero,
    .and .f64x2 (.d 0) .zero .zero, .abs .n32x4 (.d 0) .zero, .neg .s128 (.d 0) .zero, .popc .f16x8 (.d 0) .zero,
    .cmpEq .f32x4 .all 0 .zero .zero, .cmpLt .s128 .all 0 .zero .zero, .shuf .s128 (.d 0) .zero .zero, .ins .s128 (.d 0) .zero .zero,
    .rsum .bf16x8 (.d 0) .zero, .pscan .f16x8 (.d 0) .zero .zero, .pack .i64x2 (.d 0) .zero .zero, .unpkLo .n64x2 (.d 0) .zero,
    .vconf .i8x16 (.d 0) .zero, .lscan .i16x8 (.d 0) .zero .zero, .fadd .i32x4 (.d 0) .zero .zero, .fma .s128 (.d 0) .zero .zero,
    .fabs .n8x16 (.d 0) .zero, .fcmpUn .i64x2 .all 0 .zero .zero, .fdot2 .f64x2 (.d 0) .zero .zero, .fsin .f64x2 (.d 0) .zero],
    wellFormed false i = false := by decide

/-- R33, R107, R108, R135, R148, R158, R44, R41, R219: destinations, masks, conversion fields, packets and element kinds refused. -/
theorem test_wf_fields : ∀ i ∈ [Instr.dup 0 .zero, .done (.d 0) .zero, .mad .i32x4 (.out 0) .zero .zero, .fma .f32x4 .nul .zero .zero,
    .ins .i32x4 .nul .zero .zero, .cvt 8 1 none (.d 0) .zero, .cvt 3 0 (some .rne) (.d 0) .zero, .cvti 2 2 none (.d 0) .zero,
    .cvtf 4 0 (some .rtz) (.d 0) .zero, .ldq .w64 .normal (.ls 0) .zero .zero, .fence .core (.ls 1),
    .stqx .w16 .fadd 0 .zero .zero, .send 13 15 1 false none, .send 13 8 1 false (some 0), .sendw 13 8 1 false true 0,
    .cfgEng 0 0 0 0, .sbind 0 0 0 0, .br 0, .loop 0 0, .sysEret, .ldf 0 0 .b16, .cmpw 0 0 .b16, .setc .step 0],
    wellFormed false i = false := by decide

/-! ## Words of the encodings (R30 to R44) -/

/-- Formats R and I, with TRG or GRD clear (R32). -/
def fr (opc d a b lt : Nat) : Nat := opc * 2 ^ 19 + d * 2 ^ 14 + a * 2 ^ 9 + b * 2 ^ 4 + lt
def fi (opc d a imm : Nat) : Nat := opc * 2 ^ 19 + d * 2 ^ 14 + a * 2 ^ 9 + imm
/-- Format K: PORT, OPA, LEN, CTL. -/
def fk (opc port a len ctl : Nat) : Nat := opc * 2 ^ 19 + port * 2 ^ 14 + a * 2 ^ 9 + len * 2 ^ 6 + ctl
/-- A rule word (R218). -/
def rw_ (op ra foff sz tgt imm : Nat) : Nat := op * 2 ^ 28 + ra * 2 ^ 25 + foff * 2 ^ 18 + sz * 2 ^ 16 + tgt * 2 ^ 11 + imm

/-- A word decodes to an instruction, or with a cause. -/
def reads (ce : Bool) (v : Option Nat) (p : Nat × Instr) : Bool :=
  match decodeWord ce p.1 v with | .ok i => i = p.2 | .error _ => false
def faults (p : Bool × Nat × Nat) : Bool :=
  match decodeWord p.1 p.2.1 none with | .ok _ => false | .error c => c = p.2.2

/-- R106 to R112, and the worked words of The Greac Assembly Language. -/
theorem test_decode_moves : ∀ p ∈ [(0, Instr.nop), (fr 0x01 0x18 0x10 0x1C 0xC, .mov (.out 0) (.inp 0)), (fi 0x02 3 0x1C 0x1FF, .movi (.d 3) (-1)),
    (fr 0x04 0x19 0x11 2 0xC, .fwd 1 (.inp 1) (.d 2)), (fi 0x05 0x1A 0x14 5, .tagset (.out 2) (.pk 0) 5),
    (fr 0x06 0x1C 1 0x1C 9, .dup 9 (.d 1)), (fr 0x07 0x1C 0x13 0x1C 0xC, .drop (.inp 3)), (fi 0x08 4 0x1C 1, .pset 4 true),
    (0x0042C400, .psetNz 3 (.d 2)), (fi 0x08 0x11 7 0, .psetZ 1 (.d 7)), (0x00490438, .plog 4 2 3 8),
    (fr 0x0A 0x1D 1 0x1F 0xB, .sel (.ls 0) (.d 1) .ones 3 true), (fr 0x0B 6 0x15 0x1C 0xC, .tagget (.d 6) (.pk 1)),
    (fr 0x0C 0x1F 0x1E 0x1C 0xC, .done .nul (.ls 1))],
    reads false none p = true := by decide

/-- R34: the literal and its second word. -/
theorem test_decode_literals : ∀ p ∈ [(0x0018C002, Instr.lit .rep32 (.d 3) 0x3F800000), (0x00184002, .lit .rep32 (.d 1) 0x3F800000),
    (0x00184000, .lit .zx (.d 1) 0x3F800000), (0x00184001, .lit .sx (.d 1) 0x3F800000), (0x00184003, .lit .rep64 (.d 1) 0x3F800000)],
    reads false (some 0x3F800000) p = true := by decide

/-- R114, R117 to R119. -/
theorem test_decode_integer : ∀ p ∈ [(0x008081C1, Instr.add .i32x4 (.d 2) (.d 0) .zero), (fr 0x11 1 2 3 4, .sub .n64x2 (.d 1) (.d 2) (.d 3)),
    (0x009085FF, .addi (.d 2) (.d 2) (-1)), (fr 0x13 1 2 3 2, .mul .i16x8 (.d 1) (.d 2) (.d 3)), (fr 0x14 1 2 3 7, .mulh .n8x16 (.d 1) (.d 2) (.d 3)),
    (fr 0x15 0x1E 2 3 1, .mad .i32x4 (.ls 1) (.d 2) (.d 3)), (fr 0x16 1 2 3 0, .div .i64x2 (.d 1) (.d 2) (.d 3)),
    (fr 0x17 1 2 3 5, .rem .n32x4 (.d 1) (.d 2) (.d 3)), (fr 0x18 1 2 3 0xC, .and .s128 (.d 1) (.d 2) (.d 3)),
    (fr 0x19 1 2 3 0xC, .or .s128 (.d 1) (.d 2) (.d 3)), (fr 0x1A 1 2 3 0xC, .xor .s128 (.d 1) (.d 2) (.d 3)),
    (fr 0x1B 1 2 3 0xC, .andn .s128 (.d 1) (.d 2) (.d 3)), (fr 0x1C 1 2 3 3, .shl .i8x16 (.d 1) (.d 2) (.d 3)),
    (fr 0x1D 1 2 3 6, .shr .n16x8 (.d 1) (.d 2) (.d 3)), (fr 0x1E 1 2 3 1, .sha .i32x4 (.d 1) (.d 2) (.d 3)),
    (fr 0x1F 1 2 3 0, .rot .i64x2 (.d 1) (.d 2) (.d 3)), (fi 0x20 1 2 (1 * 128 + 31), .shli (.d 1) (.d 2) .w32 31),
    (fi 0x21 1 2 (3 * 128 + 127), .shri (.d 1) (.d 2) .w8 127), (fr 0x22 1 2 3 0, .min .i64x2 (.d 1) (.d 2) (.d 3)),
    (fr 0x23 1 2 3 7, .max .n8x16 (.d 1) (.d 2) (.d 3)), (fr 0x24 1 2 0x1C 3, .abs .i8x16 (.d 1) (.d 2)),
    (fr 0x25 1 2 0x1C 4, .neg .n64x2 (.d 1) (.d 2)), (fr 0x26 1 2 0x1C 0xC, .clz .s128 (.d 1) (.d 2)),
    (fr 0x27 1 2 0x1C 1, .popc .i32x4 (.d 1) (.d 2)), (fr 0x28 0x10 1 3 0xC, .cmpEq .s128 .lane0 0 (.d 1) (.d 3)),
    (0x014A8231, .cmpLt .i32x4 .any 2 (.d 1) (.d 3)), (fr 0x2A 7 1 3 4, .cmpLe .n64x2 .all 7 (.d 1) (.d 3)),
    (fr 0x2B 1 2 3 2, .adds .i16x8 (.d 1) (.d 2) (.d 3)), (fr 0x2C 1 2 3 6, .subs .n16x8 (.d 1) (.d 2) (.d 3)),
    (fr 0x2D 1 2 3 15, .lea 15 (.d 1) (.d 2) (.d 3)), (fr 0x2E 1 2 3 3, .dot4 true (.d 1) (.d 2) (.d 3)),
    (fr 0x2E 1 2 3 7, .dot4 false (.d 1) (.d 2) (.d 3)), (fr 0x2F 1 2 3 0xC, .bfx .s128 (.d 1) (.d 2) (.d 3))],
    reads false none p = true := by decide

/-- R120 to R127, with the worked words of R124 and R126. -/
theorem test_decode_lanes : ∀ p ∈ [(fr 0x30 1 2 3 0xB, Instr.shuf .f16x8 (.d 1) (.d 2) (.d 3)), (fr 0x31 1 2 3 8, .bcast .f64x2 (.d 1) (.d 2) (.d 3)),
    (fr 0x32 1 2 3 7, .ins .n8x16 (.d 1) (.d 2) (.d 3)), (fr 0x33 1 2 3 0xA, .ext .bf16x8 (.d 1) (.d 2) (.d 3)),
    (fr 0x34 1 2 0x1C 9, .rsum .f32x4 (.d 1) (.d 2)), (fr 0x35 1 2 0x1C 0, .rmax .i64x2 (.d 1) (.d 2)), (fr 0x36 1 2 0x1C 8, .rmin .f64x2 (.d 1) (.d 2)),
    (fr 0x37 1 2 3 3, .pack .i8x16 (.d 1) (.d 2) (.d 3)), (fr 0x38 1 2 0x1C 5, .unpkLo .n32x4 (.d 1) (.d 2)),
    (fr 0x39 1 2 0x1C 2, .unpkHi .i16x8 (.d 1) (.d 2)), (0x0DD669C1, .vconf .i32x4 (.out 1) (.pk 0)),
    (0x11DE2301, .vcomb .i32x4 (.out 0) (.inp 1) (.inp 0)), (fr 0x3C 1 0x10 1 4, .pscan .n64x2 (.d 1) (.inp 0) (.d 1)),
    (0x05E86019, .lscan .f32x4 (.d 1) (.inp 0) (.d 1)), (fr 0x3E 1 2 3 1, .mskidx .i32x4 (.d 1) (.d 2) (.d 3))],
    reads false none p = true := by decide

/-- R130 to R134, with the worked word of R46's table. -/
theorem test_decode_float : ∀ p ∈ [(0x32004309, Instr.fadd .f32x4 (.d 1) (.d 1) (.inp 0)), (fr 0x41 1 2 3 8, .fsub .f64x2 (.d 1) (.d 2) (.d 3)),
    (fr 0x42 1 2 3 0xA, .fmul .bf16x8 (.d 1) (.d 2) (.d 3)), (fr 0x43 1 2 3 9, .fma .f32x4 (.d 1) (.d 2) (.d 3)),
    (fr 0x44 0x1D 2 3 9, .fms .f32x4 (.ls 0) (.d 2) (.d 3)), (fr 0x45 1 2 3 0xB, .fnma .f16x8 (.d 1) (.d 2) (.d 3)),
    (fr 0x46 1 2 3 9, .fmin .f32x4 (.d 1) (.d 2) (.d 3)), (fr 0x47 1 2 3 9, .fmax .f32x4 (.d 1) (.d 2) (.d 3)),
    (fr 0x48 1 2 0x1C 9, .fabs .f32x4 (.d 1) (.d 2)), (fr 0x49 1 2 0x1C 8, .fneg .f64x2 (.d 1) (.d 2)),
    (fr 0x4A 1 2 3 9, .fcmpEq .f32x4 .all 1 (.d 2) (.d 3)), (fr 0x4B 9 2 3 9, .fcmpLt .f32x4 .any 1 (.d 2) (.d 3)),
    (fr 0x4C 0x11 2 3 9, .fcmpLe .f32x4 .lane0 1 (.d 2) (.d 3)), (fr 0x4D 1 2 3 0xB, .fcmpUn .f16x8 .all 1 (.d 2) (.d 3)),
    (fr 0x4E 1 2 3 8, .fdiv .f64x2 (.d 1) (.d 2) (.d 3)), (fr 0x4F 1 2 0x1C 9, .fsqrt .f32x4 (.d 1) (.d 2))],
    reads false none p = true := by decide

/-- R133, R135 to R143, with the worked words of R138 and R144. -/
theorem test_decode_conversions : ∀ p ∈ [(0x02808284, Instr.cvt 4 1 (some .rne) (.d 2) (.d 1)), (fr 0x50 2 1 (2 * 8 + 7) 0xC, .cvt 0xC 2 none (.d 2) (.d 1)),
    (fr 0x51 2 1 (3 * 8 + 4) 0xA, .cvti 0xA 3 (some .sr) (.d 2) (.d 1)), (fr 0x52 2 1 (1 * 8 + 1) 5, .cvtf 5 1 (some .rtz) (.d 2) (.d 1)),
    (fr 0x53 1 2 3 0, .split3 .hi (.d 1) (.d 2) (.d 3)), (fr 0x53 1 2 3 2, .split3 .lo (.d 1) (.d 2) (.d 3)),
    (fr 0x54 1 2 3 0xA, .fdot2 .bf16x8 (.d 1) (.d 2) (.d 3)), (fr 0x55 1 2 0x1C 0xD, .qmxScale .e2m1 (.d 1) (.d 2)),
    (fr 0x55 1 2 3 0, .qmxEnc .mxint8 (.d 1) (.d 2) (.d 3)), (fr 0x56 1 2 3 2, .dqmx .e4m3 (.d 1) (.d 2) (.d 3)),
    (fr 0x57 1 2 0x1C 8, .fclass .f64x2 (.d 1) (.d 2)), (fr 0x58 1 2 0x1C 9, .frcp .f32x4 (.d 1) (.d 2)),
    (fr 0x59 1 2 0x1C 9, .frsq .f32x4 (.d 1) (.d 2)), (0x06D621C9, .fexp2 .f32x4 (.out 0) (.inp 0)), (fr 0x5B 1 2 0x1C 0xA, .flog2 .bf16x8 (.d 1) (.d 2)),
    (fr 0x5C 1 2 0x1C 0xB, .fsig .f16x8 (.d 1) (.d 2)), (fr 0x5D 1 2 0x1C 9, .ftanh .f32x4 (.d 1) (.d 2)),
    (fr 0x5E 1 2 0x1C 9, .fsin .f32x4 (.d 1) (.d 2)), (fr 0x5F 1 2 0x1C 9, .fcos .f32x4 (.d 1) (.d 2))],
    reads false none p = true := by decide

/-- R155 to R161, with the worked words of R157 and R159. -/
theorem test_decode_memory : ∀ p ∈ [(fr 0x60 1 2 0x1C (1 * 4 + 1), Instr.lsld .w64 .inc (.d 1) 2), (fr 0x61 0x1C 3 1 (2 * 4 + 3), .lsst .w16 .dec 3 (.d 1)),
    (fr 0x62 1 0 2 3, .lsldx .w8 (.d 1) 0 (.d 2)), (fr 0x63 5 1 2 1, .lsstx .w32 5 1 (.d 2)), (fi 0x64 1 3 64, .aset 1 (.d 3) 64),
    (fi 0x65 1 0x1C 0x1FE, .aadd 1 .zero (-2)), (0x07360224, .ldq .w128 .normal (.out 0) (.d 1) (.d 2)),
    (0x03388300, .stq .w128 false (.d 2) (.d 1) (.inp 0)), (fr 0x68 0x1F 1 2 (1 * 4 + 2), .stqp .w32 true (.d 1) (.d 2)),
    (fr 0x69 3 1 2 (3 * 4 + 0), .ldqx .w64 .pin (.d 3) (.d 1) (.d 2)), (fr 0x6A 4 1 2 (2 * 4 + 1), .stqx .w32 .fadd 4 (.d 1) (.d 2)),
    (fr 0x6B 3 1 2 1, .monarm true (.d 3) (.d 1) (.d 2)), (fr 0x6C 0x1C 1 0x1C 2, .pref .hot (.d 1)),
    (0x1387C220, .atom .addI64 .nul (.d 1) (.d 2)), (fr 0x70 5 1 2 0xE, .atom .addI32x4 (.d 5) (.d 1) (.d 2)),
    (fr 0x71 5 1 2 2, .cas .w128 5 (.d 1) (.d 2))],
    reads false none p = true := by decide

/-- R44, R162 to R167, with the worked words of R163, R165, R166 and of the programs. -/
theorem test_decode_sync : ∀ p ∈ [(fr 0x72 1 2 0x1C 0, Instr.barArr (.d 1) (.d 2)), (fr 0x72 1 2 3 1, .barArrN (.d 1) (.d 2) (.d 3)),
    (fr 0x72 1 2 3 2, .barArrInit (.d 1) (.d 2) (.d 3)), (0x0399C644, .barWaitFull (.d 7) (.d 3) (.d 4) 2),
    (fr 0x73 1 2 3 1, .barWaitPar (.d 1) (.d 2) (.d 3)), (fr 0x74 1 2 0x1C 9, .tlWait 9 (.d 1) (.d 2)), (fr 0x75 1 2 0x1C 8, .tlSig 8 (.d 1) (.d 2)),
    (0x03B1B800, .cwait (.d 6) 0), (0x03B9B805, .fence .system (.d 6)), (0x03CB51CF, .sendw 13 8 7 false false 15),
    (0x03CBC887, .sendw 15 4 2 false false 7), (0x03C44880, .send 17 4 2 false none), (fk 0x78 13 8 1 0x20, .send 13 8 1 true none)],
    reads false none p = true := by decide

/-- R41, R42, R44, R171 to R188: the words of a control element; GRD stands in bits 31:26 (R31). -/
theorem test_decode_control : ∀ p ∈ [(0x03C35055, Instr.send 13 8 1 false (some 5)), (fk 0x79 16 8 3 0x1C, .sendw 16 8 3 false true 12),
    (fk 0x7A 8 2 1 0x05, .cfgEng 8 2 1 5), (fk 0x7A 0 2 1 0x15, .cfgFab 2 1 5), (fk 0x7A 0 2 0 0x25, .cfgPhase 2 0 5), (fk 0x7B 7 2 0 5, .sbind 7 2 0 5),
    (0xCFE7FFFF, .br (-1)), (fr 0x7D 1 2 0x1C 0, .sysCall 1 (.d 2)), (fr 0x7D 0x1C 2 0x1C 1, .sysRet (.d 2)), (fr 0x7D 0x1C 0x1C 5 2, .sysTrap 5),
    (fr 0x7D 0x1C 0x1C 0x1C 3, .sysEret), (fr 0x7D 1 2 0x1C 4, .sysSysrd (.d 1) (.d 2)), (fr 0x7D 0x1C 2 3 5, .sysSyswr (.d 2) (.d 3)),
    (0x03EFF9C6, .sysSleep .nul .zero .zero), (fr 0x7D 14 3 0x1C 7, .sysScnext 14 3), (fr 0x7D 1 2 0x1C 8, .sysRewire 1 (.d 2)),
    (fr 0x7D 1 2 0x1C 9, .sysLayoutv (.d 1) (.d 2)), (fi 0x7E 2 0x1C 0x1FC, .loop 2 (-4)), (0xCC9085FF, .addi (.d 2) (.d 2) (-1))],
    reads true none p = true := by decide

/-- R218, R219: a word for each operation. -/
theorem test_decode_rules : ∀ p ∈ [(rw_ 0 0 0 0 0 15, Instr.ldr 15), (rw_ 1 1 8 0 0 0, .ldf 0 8 .b8), (rw_ 2 0 16 3 0 0, .cmpk 16 .b16),
    (rw_ 3 4 2 2 0 0, .cmpw 3 2 .b2), (rw_ 4 5 0 0 0 2047, .cmpi .step 2047), (rw_ 5 3 0 0 7 0, .ruleBr .lt 7),
    (rw_ 6 2 0 0 0 (256 + 4 * 32 + 24), .hash 1 24 4 true), (rw_ 7 0 0 0 0 0x7FF, .setc .cur (-1)), (rw_ 8 3 0 0 0 5, .wadd 2 5), (rw_ 9 0 8 0 0 0, .follow 8),
    (rw_ 10 0 16 0 0 0, .choose 16), (rw_ 11 0 32 0 0 1, .ret 32 1), (rw_ 12 0 0 0 0 0, .retw), (rw_ 13 0 0 0 0 0, .miss),
    (rw_ 14 0 0 0 0 200, .fail 200), (rw_ 15 0 0 0 0 0, .idle)],
    decodeRule p.1 = some p.2 := by decide

/-- R45: each cause, and the lowest where a word has several. -/
theorem test_decode_faults : ∀ p ∈ [(false, fr 0x0D 0 0 0 0, 0x001), (true, fr 0x7F 0 0 0 0, 0x002), (false, fi 0x7C 0 0 0, 0x003), (false, fr 0x03 0 0 0 0, 0x009),
    (false, fr 0x00 0 0 0 1, 0x008), (false, fr 0x10 0 0 0 0xC, 0x004), (true, fr 0x7D 0 0 0 0xA, 0x005), (false, fr 0x10 0 0x18 0 1, 0x006),
    (false, fr 0x10 0x10 0 0 1, 0x007), (false, fk 0x78 20 8 0 0, 0x00A), (false, fk 0x78 0 15 1 0, 0x00D), (false, fk 0x78 0 8 0 0x10, 0x00E),
    (true, 0b001000 * 2 ^ 26, 0x00B), (false, fr 0x10 0x10 0x18 0 0xD, 0x004)],
    faults p = true := by decide

/-- R219: rules that fault: a width, a condition, an unused field, k beyond 24. -/
theorem test_decode_rule_faults : ∀ w ∈ [rw_ 1 1 0 3 0 0, rw_ 5 7 0 0 7 0, rw_ 9 1 8 0 0 0, rw_ 6 1 0 0 0 25, rw_ 0 0 0 0 0 16, rw_ 13 0 0 0 1 0],
    decodeRule w = none := by decide

/-! ## Single instructions -/

/-- A running fabric element fe(0,0) of core 0 whose D registers, from d0 on, hold these. -/
def elemWith (ds : List Quad) : Elem := ({ d := (List.range ds.length).zip ds } : Elem).setRun 1

/-- The state in which unit ix of core 0 is the actor, at this slot and word. -/
def unitState (ix : Nat) (e : Elem) (slot : Nat) (word : Word) : State :=
  { State.reset with cores := [(0, { elems := [(ix, e)] })], actor := .unit ⟨0, ix⟩ slot word }

/-- What an instruction, fired in cycle 0 by an element, will do at its V: its effects, its flags and its V. -/
def fired (e : Elem) (i : Instr) : List Act × Num.Flags × Nat :=
  match exec i (unitState 0 e 0 0) with
  | .next t => match (Machine.getElem t ⟨0, 0⟩).flights with | f :: _ => (f.acts, f.flags, f.vis) | [] => ([], 0, 0)
  | _ => ([], 0, 0)

/-- The 32-bit lanes of a word, lane 0 first. -/
def lanes32 (a b c d : Nat) : Quad := .ofNat 128 (a + b * 2 ^ 32 + c * 2 ^ 64 + d * 2 ^ 96)

/-- R114: no carry from lane to lane. -/
theorem test_add_wraps : fired (elemWith [lanes32 0xFFFFFFFF 1 0 0x80000000, lanes32 1 2 0 0x80000000]) (.add .i32x4 (.d 2) (.d 0) (.d 1)) =
    ([.d 2 (lanes32 0 3 0 0)], 0, 1) := by decide
/-- R114: the order of the operands of a subtraction. -/
theorem test_sub_order : fired (elemWith [5, 7]) (.sub .s128 (.d 2) (.d 0) (.d 1)) = ([.d 2 (.ofInt 128 (-2))], 0, 1) := by decide
/-- R114: the high half of a signed and of an unsigned product. -/
theorem test_mulh_signed : fired (elemWith [lanes32 0xFFFFFFFF 0 0 0, lanes32 2 0 0 0]) (.mulh .i32x4 (.d 2) (.d 0) (.d 1)) =
    ([.d 2 (lanes32 0xFFFFFFFF 0 0 0)], 0, 1) := by decide
theorem test_mulh_unsigned : fired (elemWith [lanes32 0xFFFFFFFF 0 0 0, lanes32 2 0 0 0]) (.mulh .n32x4 (.d 2) (.d 0) (.d 1)) =
    ([.d 2 (lanes32 1 0 0 0)], 0, 1) := by decide
/-- R115: the most negative number over -1, a zero divisor, and division towards zero. -/
theorem test_div_corners : fired (elemWith [lanes32 0x80000000 7 0xFFFFFFF9 9, lanes32 0xFFFFFFFF 0 2 2]) (.div .i32x4 (.d 2) (.d 0) (.d 1)) =
    ([.d 2 (lanes32 0x80000000 0xFFFFFFFF 0xFFFFFFFD 4)], Num.fDZ, 16) := by decide
theorem test_rem_corners : fired (elemWith [lanes32 0x80000000 7 0xFFFFFFF9 9, lanes32 0xFFFFFFFF 0 2 2]) (.rem .i32x4 (.d 2) (.d 0) (.d 1)) =
    ([.d 2 (lanes32 0 7 0xFFFFFFFF 1)], Num.fDZ, 16) := by decide
/-- R116: counts at and beyond the width. -/
theorem test_shl_counts : fired (elemWith [lanes32 1 1 3 1, lanes32 31 32 1 0x10000] ) (.shl .n32x4 (.d 2) (.d 0) (.d 1)) =
    ([.d 2 (lanes32 0x80000000 0 6 0)], 0, 1) := by decide
theorem test_sha_counts : fired (elemWith [lanes32 0x80000000 0x80000000 0x40000000 4, lanes32 4 32 99 1] ) (.sha .n32x4 (.d 2) (.d 0) (.d 1)) =
    ([.d 2 (lanes32 0xF8000000 0xFFFFFFFF 0 2)], 0, 1) := by decide
theorem test_rot_counts : fired (elemWith [lanes32 0x80000001 1 1 1, lanes32 1 32 33 0] ) (.rot .n32x4 (.d 2) (.d 0) (.d 1)) =
    ([.d 2 (lanes32 3 1 2 1)], 0, 1) := by decide
/-- R117, R119: a negative immediate in each lane of 64 bits; the shift belongs to OPB. -/
theorem test_addi_lanes : fired (elemWith [1]) (.addi (.d 2) (.d 0) (-1)) = ([.d 2 (.ofNat 128 (0xFFFFFFFFFFFFFFFF * 2 ^ 64))], 0, 1) := by decide
theorem test_lea_shift : fired (elemWith [3, 5]) (.lea 4 (.d 2) (.d 0) (.d 1)) = ([.d 2 83], 0, 1) := by decide
/-- R119: a byte dot product, and a sign-extended field. -/
theorem test_dot4_signed : fired (elemWith [lanes32 0x010203FF 0 0 0, lanes32 0x01010105 0 0 0]) (.dot4 true (.d 2) (.d 0) (.d 1)) =
    ([.d 2 (lanes32 1 0 0 0)], 0, 1) := by decide
theorem test_bfx_signed : fired (elemWith [lanes32 0xF0 0x70 0 0, .ofNat 128 (4 + 4 * 256)]) (.bfx .i32x4 (.d 2) (.d 0) (.d 1)) =
    ([.d 2 (lanes32 0xFFFFFFFF 7 0 0)], 0, 1) := by decide
/-- R88, R114: saturation and SAT. -/
theorem test_adds_saturates : fired (elemWith [lanes32 0x7FFFFFFF 0x80000000 1 0, lanes32 1 0xFFFFFFFF 1 0]) (.adds .i32x4 (.d 2) (.d 0) (.d 1)) =
    ([.d 2 (lanes32 0x7FFFFFFF 0x80000000 2 0)], Num.fSAT, 1) := by decide
/-- R112: `plog.andn` is Pa AND NOT Pb. -/
theorem test_plog_andn : fired { elemWith [] with p := 0b0100 } (.plog 4 2 3 0b0100) = ([.p 0x10 0x10], 0, 1) := by decide
/-- R113: the middle lane decides under any, not under lane 0. -/
theorem test_cmp_any : fired (elemWith [lanes32 5 0xFFFFFFFF 0 0, lanes32 5 0 0 0]) (.cmpLt .i32x4 .any 1 (.d 0) (.d 1)) = ([.p 2 2], 0, 1) := by
  decide
theorem test_cmp_lane0 : fired (elemWith [lanes32 5 0xFFFFFFFF 0 0, lanes32 5 0 0 0]) (.cmpLt .i32x4 .lane0 1 (.d 0) (.d 1)) = ([.p 2 0], 0, 1) := by
  decide
/-- The worked conflict detection of R124. -/
theorem test_vconf_worked : fired (elemWith [lanes32 7 3 7 7]) (.vconf .i32x4 (.d 2) (.d 0)) = ([.d 2 (lanes32 0 0 1 5)], 0, 1) := by decide
theorem test_vcomb_worked : fired (elemWith [lanes32 10 20 30 40, lanes32 7 3 7 7]) (.vcomb .i32x4 (.d 2) (.d 0) (.d 1)) =
    ([.d 2 (lanes32 80 20 0 0)], 0, 1) := by decide
/-- The second step of the worked lscan of R126: (2.0, 0.25, 1.0, -1.0) after (0.5, 1.5, 0.25, 2.75). -/
theorem test_lscan_worked : fired (elemWith [lanes32 0x40000000 0x3E800000 0x3F800000 0xBF800000, lanes32 0x3F000000 0x3FC00000 0x3E800000 0x40300000])
    (.lscan .f32x4 (.d 2) (.d 0) (.d 1)) = ([.d 2 (lanes32 0x3F000000 0x40B80000 0x3F000000 0x40980000)], 0, 8) := by decide
/-- R127: the indices of the set bits, the rest all ones. -/
theorem test_mskidx : fired (elemWith [0b1010, 100]) (.mskidx .n32x4 (.d 2) (.d 0) (.d 1)) =
    ([.d 2 (lanes32 101 103 0xFFFFFFFF 0xFFFFFFFF)], 0, 1) := by decide
/-- R122: the halves of pack come from OPA and OPB. -/
theorem test_pack_halves : fired (elemWith [lanes32 1 0x8000 3 4, lanes32 0xFFFF0000 6 7 8]) (.pack .i16x8 (.d 2) (.d 0) (.d 1)) =
    ([.d 2 (lanes32 0x7FFF0001 0x00040003 0x00068000 0x00080007)], Num.fSAT, 1) := by decide
/-- R37, R106: a move from channel to channel keeps its tag. -/
theorem test_mov_keeps_tag : fired { elemWith [] with inq := [(0, { q := [⟨⟨9, 3⟩, 0⟩] })] } (.mov (.out 0) (.inp 0)) = ([.out 0 0 ⟨9, 3⟩], 0, 1) := by
  decide
/-- R38, R130: 1.0 + 2.0; a signed zero sum; a root of a negative number; a quotient by zero. -/
theorem test_fadd_lanes : fired (elemWith [lanes32 0x3F800000 0x3F800000 0 0x7F800000, lanes32 0x40000000 0xBF800000 0x80000000 0xFF800000])
    (.fadd .f32x4 (.d 2) (.d 0) (.d 1)) = ([.d 2 (lanes32 0x40400000 0 0 0x7FC00000)], Num.fNV, 4) := by decide
theorem test_fsqrt_corners : fired (elemWith [lanes32 0x80000000 0xBF800000 0x40800000 0x7F800000]) (.fsqrt .f32x4 (.d 2) (.d 0)) =
    ([.d 2 (lanes32 0x80000000 0x7FC00000 0x40000000 0x7F800000)], Num.fNV, 16) := by decide +kernel
theorem test_fdiv_zero : fired (elemWith [lanes32 0xBF800000 0x40400000 0 0, lanes32 0 0x40000000 0x3F800000 0x3F800000])
    (.fdiv .f32x4 (.d 2) (.d 0) (.d 1)) = ([.d 2 (lanes32 0xFF800000 0x3FC00000 0 0)], Num.fDZ, 16) := by
  decide +kernel
/-- R130: `fnma` is c - a·b. -/
theorem test_fnma : fired (elemWith [lanes32 0x40000000 0 0 0, lanes32 0x40400000 0 0 0, lanes32 0x41200000 0 0 0])
    (.fnma .f32x4 (.d 2) (.d 0) (.d 1)) = ([.d 2 (lanes32 0x40800000 0 0 0)], 0, 4) := by decide
/-- R133: the classes. -/
theorem test_fclass : fired (elemWith [lanes32 0xFF800000 0x80000000 0x7FA00000 0x3F800000]) (.fclass .f32x4 (.d 2) (.d 0)) =
    ([.d 2 (lanes32 1 8 256 64)], 0, 1) := by decide
/-- The worked conversions of R138: 1/3, a tie and 70,000. -/
theorem test_cvt_worked : fired (elemWith [lanes32 0x3EAAAAAB 0x3F808000 0x3F800000 0]) (.cvt 4 1 (some .rne) (.d 2) (.d 0)) =
    ([.d 2 (.ofNat 128 (0x3F803F803EAB * 2 ^ 64 + 0 * 2 ^ 112))], Num.fNX, 4) := by decide
theorem test_cvti_worked : fired (elemWith [lanes32 0x4788B800 0x3F800000 0 0xBF800000]) (.cvti 6 0 (some .rtz) (.d 2) (.d 0)) =
    ([.d 2 (.ofNat 128 (0xFFFF000000017FFF))], Num.fNV, 4) := by decide
/-- The worked block of R142: its scale, its bytes and what they decode to. -/
theorem test_qmx_worked : fired (elemWith [lanes32 0x3F400000 0 0 0]) (.qmxScale .mxint8 (.d 2) (.d 0)) = ([.d 2 0x7E], 0, 4) := by decide
theorem test_qmx_enc_worked : fired (elemWith [lanes32 0x3F400000 0xBE99999A 0x3A83126F 0x3F000000, 0x7E]) (.qmxEnc .mxint8 (.d 2) (.d 0) (.d 1)) =
    ([.d 2 0x4000DA60], Num.fNX, 4) := by decide
theorem test_dqmx_worked : fired (elemWith [0x4000DA60, 0x7E]) (.dqmx .mxint8 (.d 2) (.d 0) (.d 1)) =
    ([.d 2 (lanes32 0x3F400000 0xBE980000 0 0x3F000000)], 0, 4) := by decide
/-- The worked fexp2 of R145. -/
theorem test_fexp2_worked : fired (elemWith [lanes32 0x3F000000 0x40400000 0xBF800000 0x40000000]) (.fexp2 .f32x4 (.d 2) (.d 0)) =
    ([.d 2 (lanes32 0x3FB504F3 0x41000000 0x3F000000 0x40800000)], 0, 8) := by decide
/-- R155: a lane-slice load with its post-increment. -/
theorem test_lsld_inc : fired { elemWith [] with a := [(1, 8)], lane := [(8, 0x34), (9, 0x12)] } (.lsld .w16 .inc (.d 2) 1) =
    ([.d 2 0x1234, .a 1 10], 0, 1) := by decide
/-- R156: the sixteens of aadd. -/
theorem test_aadd : fired { elemWith [5] with a := [(1, 100)] } (.aadd 1 (.d 0) (-2)) = ([.a 1 73], 0, 1) := by decide

/-! ## Witnesses: states and operands that meet a statement's premises, one for each clause -/

/-- An element with a token in each channel, its registers zero, so that every operand is there. -/
def witE : Elem := { elemWith [0, 0] with inq := (List.range 4).map fun n => (n, { q := [⟨⟨5, 3⟩, 0⟩] }) }
def witS : State := unitState 0 witE 0 0
def wit : UnitId := ⟨0, 0⟩

theorem witness_MovesChannelsAndPredicates : ∀ i ∈ [Instr.nop, .mov (.out 0) (.inp 0), .movi (.d 3) (-1), .lit .zx (.d 3) 7, .lit .sx (.d 3) 0x80000000,
    .lit .rep32 (.d 3) 7, .lit .rep64 (.d 3) 7, .tagset (.out 0) (.d 0) 7, .tagget (.d 2) (.pk 1), .sel (.out 0) (.inp 0) (.inp 1) 3 true,
    .fwd 3 (.inp 0) (.d 1), .dup 15 (.inp 0), .drop (.inp 2), .done (.out 1) (.d 0), .pset 0 true, .psetNz 7 (.d 0), .psetZ 7 (.d 0), .plog 1 1 1 15],
    CanFire witS wit 0 0 i := by unfold CanFire; decide
theorem witness_SumsAndProductsOfLanes : ∀ i ∈ [Instr.add .i8x16 (.d 2) (.d 0) (.d 1), .sub .n64x2 (.nul) .ones .zero, .addi (.d 2) (.d 0) (-256),
    .mul .i32x4 (.d 2) (.d 0) (.d 0), .mulh .i64x2 (.d 2) (.d 0) (.ls 0), .mad .i16x8 (.ls 1) (.d 0) (.d 1), .lea 15 (.d 2) (.d 0) (.d 1)],
    CanFire witS wit 0 0 i := by unfold CanFire; decide
theorem witness_BitwiseAndShiftInstructions : ∀ i ∈ [Instr.and .s128 (.d 2) (.d 0) (.d 1), .or .s128 (.d 2) (.d 0) (.d 1), .xor .i8x16 (.d 2) (.d 0) (.d 1),
    .andn .s128 (.d 2) (.d 0) (.d 1), .shl .i8x16 (.d 2) (.d 0) .ones, .shr .s128 (.d 2) (.d 0) (.d 1), .sha .n64x2 (.d 2) (.d 0) (.d 1),
    .rot .i16x8 (.d 2) (.d 0) (.d 1), .shli (.d 2) (.d 0) .w8 127, .shri (.d 2) (.d 0) .w64 64], CanFire witS wit 0 0 i := by unfold CanFire; decide
theorem witness_LaneOrderCountsAndPermutes : ∀ i ∈ [Instr.min .i8x16 (.d 2) (.d 0) (.d 1), .max .n64x2 (.d 2) (.d 0) (.d 1), .abs .i64x2 (.d 2) (.d 0),
    .neg .n8x16 (.d 2) (.d 0), .clz .s128 (.d 2) (.d 0), .popc .s128 (.d 2) .ones, .shuf .i8x16 (.d 2) (.d 0) .ones, .bcast .f32x4 (.d 2) (.d 0) (.d 1),
    .ins .f16x8 (.d 2) (.d 0) (.d 1), .ext .i64x2 (.d 2) (.d 0) (.d 1), .unpkLo .i8x16 (.d 2) (.d 0), .unpkHi .n32x4 (.d 2) (.d 0),
    .vconf .i16x8 (.d 2) (.d 0), .mskidx .i8x16 (.d 2) .ones (.d 1)], CanFire witS wit 0 0 i := by unfold CanFire; decide
theorem witness_SaturatingDotAndFieldInstructions : LaneType.i8x16.isNarrow = true ∧ ∀ i ∈ [Instr.adds .i8x16 (.d 2) (.d 0) (.d 1), .subs .n8x16 (.d 2) .zero .ones,
    .pack .i8x16 (.d 2) (.d 0) (.d 1), .dot4 true (.d 2) (.d 0) (.d 1), .bfx .s128 (.d 2) .ones (.d 1)], CanFire witS wit 0 0 i := by
  unfold CanFire; decide
theorem witness_DivisionOfLanes : ∀ i ∈ [Instr.div .i64x2 (.d 2) (.d 0) .zero, .rem .n8x16 (.d 2) (.d 0) .ones], CanFire witS wit 0 0 i := by
  unfold CanFire; decide
theorem witness_IntegerComparisonsDecide : ∀ i ∈ [Instr.cmpEq .s128 .all 7 (.d 0) (.d 1), .cmpLt .i8x16 .any 0 (.d 0) .ones,
    .cmpLe .n64x2 .lane0 1 (.d 0) (.d 1)], CanFire witS wit 0 0 i := by unfold CanFire; decide
theorem witness_ReductionsAndScans : LaneType.i32x4.isInt = true ∧ LaneType.i32x4.isPaired = true ∧ ∀ i ∈ [Instr.rsum .i32x4 (.d 2) (.d 0),
    .rmax .i32x4 (.d 2) (.d 0), .rmin .i32x4 (.d 2) (.d 0), .vcomb .i32x4 (.d 2) (.d 0) (.d 1), .pscan .i32x4 (.d 2) (.d 0) (.d 1),
    .lscan .i32x4 (.d 2) (.d 0) (.d 1), .rsum .f64x2 (.d 2) (.d 0), .rmax .f32x4 (.d 2) (.d 0), .rmin .f32x4 (.d 2) (.d 0),
    .vcomb .f32x4 (.d 2) (.d 0) (.d 1), .pscan .f64x2 (.d 2) (.d 0) (.d 1), .lscan .f32x4 (.d 2) (.d 0) (.d 1)], CanFire witS wit 0 0 i := by
  unfold CanFire; decide
theorem witness_FloatResultsRoundOnce : LaneType.f16x8.isFloat = true ∧ LaneType.f16x8.isTrans = true ∧ ∀ i ∈ [Instr.fadd .f16x8 (.d 2) (.d 0) (.d 1),
    .fsub .f16x8 (.d 2) (.d 0) (.d 1), .fmul .f16x8 (.d 2) (.d 0) (.d 1), .fma .f16x8 (.d 2) (.d 0) (.d 1), .fms .f16x8 (.d 2) (.d 0) (.d 1),
    .fnma .f16x8 (.d 2) (.d 0) (.d 1), .fdiv .f16x8 (.d 2) (.d 0) (.d 1), .fsqrt .f16x8 (.d 2) (.d 0), .frcp .f16x8 (.d 2) (.d 0), .frsq .f16x8 (.d 2) (.d 0),
    .fexp2 .f16x8 (.d 2) (.d 0), .flog2 .f16x8 (.d 2) (.d 0), .fsig .f16x8 (.d 2) (.d 0), .ftanh .f16x8 (.d 2) (.d 0), .fsin .f16x8 (.d 2) (.d 0),
    .fcos .f16x8 (.d 2) (.d 0)], CanFire witS wit 0 0 i := by unfold CanFire; decide
theorem witness_FloatOrderSignsAndClasses : LaneType.f64x2.isFloat = true ∧ ∀ i ∈ [Instr.fmin .f64x2 (.d 2) (.d 0) (.d 1), .fmax .f64x2 (.d 2) (.d 0) (.d 1),
    .fabs .f64x2 (.d 2) (.d 0), .fneg .f64x2 (.d 2) (.d 0), .fclass .f64x2 (.d 2) (.d 0), .fcmpEq .f64x2 .all 1 (.d 0) (.d 1),
    .fcmpLt .f64x2 .any 1 (.d 0) (.d 1), .fcmpLe .f64x2 .lane0 1 (.d 0) (.d 1), .fcmpUn .f64x2 .all 1 (.d 0) .ones], CanFire witS wit 0 0 i := by
  unfold CanFire; decide
theorem witness_ConversionsOfLanes : convOk (cvtShape 1) 3 (some .sr) = true ∧ convOk (cvtiShape 10) 3 none = true ∧ convOk (cvtfShape 8) 3 none = true ∧
    ∀ i ∈ [Instr.cvt 1 3 (some .sr) (.d 2) (.d 0), .cvti 10 3 none (.d 2) (.d 0), .cvtf 8 3 none (.d 2) (.d 0)], CanFire witS wit 0 0 i := by
  unfold CanFire; decide
theorem witness_SplitDotAndBlockInstructions : LaneType.f32x4.isDot = true ∧ ∀ i ∈ [Instr.split3 .mid (.d 2) (.d 0) (.d 1),
    .fdot2 .f32x4 (.d 2) (.d 0) (.d 1), .qmxScale .e4m3 (.d 2) (.d 0), .qmxEnc .e2m1 (.d 2) (.d 0) .ones, .dqmx .mxint8 (.d 2) (.d 0) (.d 1)],
    CanFire witS wit 0 0 i := by unfold CanFire; decide

/-- The same element with A0 at the last byte of the lane slice, A1 just past it, and A2 at its last word. -/
def witA : Elem := { witE with a := [(0, 0x1FFF), (1, 0x2000), (2, 0x1FF0)] }
theorem witness_LaneSliceInstructions :
    (∀ i ∈ [Instr.lsld .w128 .inc (.d 2) 2, .lsst .w128 .dec 2 (.d 0), .lsld .w64 .none (.d 2) 1, .lsst .w64 .none 1 (.d 0), .lsld .w16 .none (.d 2) 0,
      .lsst .w16 .none 0 (.d 0), .lsldx .w8 (.d 2) 0 .zero, .lsstx .w8 1 0 (.d 0), .aset 3 (.d 0) (-1), .aadd 1 .ones 1],
      CanFire (unitState 0 witA 0 0) wit 0 0 i) ∧
    (witA.areg 2).toNat < 2 ^ 13 ∧ (witA.areg 2).toNat % 16 = 0 ∧ 2 ^ 13 ≤ (witA.areg 1).toNat ∧ (witA.areg 0).toNat < 2 ^ 13 ∧
    (witA.areg 0).toNat % 2 ≠ 0 ∧ ∀ j, j < 16 → (witA.areg 0).toNat + laneOf 8 (val (unitState 0 witA 0 0) wit .zero) j < 2 ^ 13 := by
  unfold CanFire; decide
/-- Addresses: d0 the highest aligned one below 2^56, d1 the first beyond, d2 a misaligned one, d3 indices all ones. -/
def witM : Elem := { elemWith [.ofNat 128 (2 ^ 56 - 16), .ofNat 128 (2 ^ 56), 0x1001, BitVec.allOnes 128, 3, 4095] with
  inq := (List.range 4).map fun n => (n, { q := [⟨⟨5, 3⟩, 0⟩] }) }
def witMS : State := unitState 0 witM 0 0
theorem witness_MemoryInstructionsAsk :
    (∀ i ∈ [Instr.ldq .w128 .pin (.d 8) (.d 0) .zero, .stq .w128 true .nul (.d 0) (.inp 0), .stqp .w16 false (.d 0) (.d 1), .ldqx .w32 .normal (.out 0) (.d 0) (.d 3),
      .stqx .w64 .fadd 3 (.d 0) (.d 1), .monarm false (.d 8) (.d 0) .zero, .pref .stream (.d 0), .pref .hot (.d 1), .atom .addI32x4 .nul (.d 0) (.d 1),
      .cas .w128 4 (.d 0) (.d 1)], CanFire witMS wit 0 0 i) ∧
    AddressFits (laneOf 64 (val witMS wit (.d 0)) 0) 16 ∧ laneOf 64 (val witMS wit (.d 0)) 0 < 2 ^ 56 ∧ 2 ^ 56 ≤ laneOf 64 (val witMS wit (.d 1)) 0 ∧
    (∀ g ∈ lanesOf .w32 0 (val witMS wit (.d 3)) 0, AddressFits g.2.1 4) := by unfold CanFire AddressFits; decide
/-- The same element with d0 at 0x100 in a window of global memory, d1 at 0x100000 in one of its core's scratchpad, which allows writes. -/
def witO : State := { unitState 0 { witM with d := [(0, 0x100), (1, 0x100000), (3, BitVec.allOnes 128), (4, 3), (5, 4095)] } 0 0 with
  cores := (unitState 0 { witM with d := [(0, 0x100), (1, 0x100000), (3, BitVec.allOnes 128), (4, 3), (5, 4095)] } 0 0).cores.map fun c =>
    (c.1, { c.2 with part := some 0, ports := [(0, { wins := [(0, { valid := true, wr := true, size := 0x1000 }),
      (1, { valid := true, wr := true, vbase := 0x100000, size := 0x60000, pbase := 0x420000000000 })] })] }) }
def witGlobal (va : Nat) : Route := { pa := va, home := .slice 1, port := 0, win := some 0 }
def witLocal (off : Nat) : Route := { pa := 0x420000000000 + off, home := .cpad 0, port := 0, win := some 1 }
def AsksFor (m : MemSpec) (rts : List Route) : Prop :=
  (∀ g ∈ m.words, AddressFits g.2.1 g.2.2.1) ∧ Unhindered witO wit m rts
theorem witness_MemoryInstructionsAsk_whole :
    (∀ op ∈ [MemOp.load, .store, .monitor, .atom .addI32x4, .cas, .prefetch], ∀ b ∈ [true, false],
      AsksFor (ask witO wit (.d 0) .nul (if op = .prefetch then 128 else 16) op b .normal false 7 8) [witGlobal 0x100]) ∧
    AsksFor { op := .load, words := lanesOf .w32 0x100 0 0, sink := .nul } (List.replicate 4 (witGlobal 0x100)) ∧
    AsksFor { op := .load, words := lanesOf .w32 0x100 (val witO wit (.d 3)) 0, sink := .nul } [] ∧
    AsksFor { op := .fadd .w32, posted := true, words := lanesOf .w32 0x100000 1 0, sink := .nul } (witLocal 4 :: List.replicate 3 (witLocal 0)) ∧
    AsksFor { op := .store, posted := true, words := lanesOf .w32 0x100000 (val witO wit (.d 3)) 0, sink := .nul } [] ∧
    AsksFor { op := .prefetch, words := [(0, 0x100000, 128, 0, 0)], sink := .nul } [witLocal 0] ∧
    (∀ i ∈ [Instr.ldq .w128 .pin (.d 8) (.d 0) .zero, .stq .w128 true .nul (.d 0) (.inp 0), .stqp .w16 false (.d 0) (.d 1), .ldqx .w32 .normal (.out 0) (.d 0) (.d 3),
      .stqx .w64 .fadd 3 (.d 0) (.d 1), .monarm false (.d 8) (.d 0) .zero, .pref .stream (.d 0), .atom .addI32x4 .nul (.d 0) (.d 1),
      .cas .w128 4 (.d 0) (.d 1)], CanFire witO wit 0 0 i) := by
  have h : ∀ p, p < 4 → repairing ((getCore witO wit.core).port p) = false := by decide
  have w : (getCore witO wit.core).waits = [] := by decide
  have put : ∀ m rts, (∀ g ∈ m.words, AddressFits g.2.1 g.2.2.1) →
      m.words.map (fun w => lookUp witO wit.core w.2.1 w.2.2.1 (MemOp.use m.op)) = rts.map Xlate.ok →
      (∀ w ∈ m.words, walkCycles witO wit.core w.2.1 (MemOp.use m.op) = 0) → AsksFor m rts := fun m rts a b c =>
    ⟨a, by decide, b, c, fun _ => h, fun _ x hx => by rw [w] at hx; cases hx⟩
  refine ⟨?_, put _ _ ?_ ?_ ?_, put _ _ ?_ ?_ ?_, put _ _ ?_ ?_ ?_, put _ _ ?_ ?_ ?_, put _ _ ?_ ?_ ?_, by unfold CanFire; decide⟩
  · have g : ∀ op ∈ [MemOp.load, .store, .monitor, .atom .addI32x4, .cas, .prefetch], ∀ b ∈ [true, false],
        let m := ask witO wit (.d 0) .nul (if op = .prefetch then 128 else 16) op b .normal false 7 8
        (∀ g ∈ m.words, AddressFits g.2.1 g.2.2.1) ∧
        m.words.map (fun w => lookUp witO wit.core w.2.1 w.2.2.1 (MemOp.use m.op)) = [witGlobal 0x100].map Xlate.ok ∧
        (∀ w ∈ m.words, walkCycles witO wit.core w.2.1 (MemOp.use m.op) = 0) := by unfold AddressFits; decide +kernel
    exact fun op ho b hb => let ⟨x, y, z⟩ := g op ho b hb; put _ _ x y z
  all_goals first | (unfold AddressFits; decide +kernel) | decide +kernel
theorem witness_BadAddressesTrapAtFiring :
    (∀ a ∈ [Src.d 1, .d 2], ∀ i ∈ [Instr.ldq .w128 .pin (.d 8) a .zero, .stq .w128 true .nul a (.inp 0), .stqp .w16 false a (.d 1), .monarm true (.d 8) a .zero,
      .monarm false (.d 8) a .zero, .atom .addI32x4 .nul a (.d 1), .cas .w128 4 a (.d 1)], CanFire witMS wit 0 0 i) ∧
    2 ^ 56 ≤ laneOf 64 (val witMS wit (.d 1)) 0 ∧ laneOf 64 (val witMS wit (.d 2)) 0 < 2 ^ 56 ∧ laneOf 64 (val witMS wit (.d 2)) 0 % 2 ≠ 0 := by
  unfold CanFire; decide
/-- Barriers: d0 the last, d1 beyond, d2 one arrival, d3 the most. -/
def witB : State := unitState 0 { elemWith [2047, 2048, 1, 4095] with inq := [] } 0 0
theorem witness_SynchronisationInstructionsAsk :
    (∀ i ∈ [Instr.barArr (.d 8) (.d 0), .barArrN (.d 8) (.d 0) (.d 2), .barArrN (.d 8) (.d 0) (.d 3), .barArrInit .nul (.d 0) (.d 3), .barWaitFull (.d 8) (.d 0) (.d 2) 7,
      .barWaitPar (.d 8) (.d 0) (.d 2), .tlWait 15 (.d 8) (.d 2), .tlSig 8 (.d 8) (.d 2), .tlSig 7 (.d 8) (.d 2), .barArr (.d 8) (.d 1), .cwait (.d 8) 255,
      .fence .lane (.d 8)], CanFire witB wit 0 0 i) ∧
    laneOf 64 (val witB wit (.d 0)) 0 < 2048 ∧ 2048 ≤ laneOf 64 (val witB wit (.d 1)) 0 ∧ 1 ≤ laneOf 64 (val witB wit (.d 2)) 0 ∧
    laneOf 64 (val witB wit (.d 3)) 0 ≤ 4095 ∧ (val witB wit (.d 3)).toNat % 4096 ≠ 0 := by unfold CanFire; decide

/-- A control element of core 0 whose packet registers, from d0 on, hold these; more of the core. -/
def ceState (ds : List Quad) (c : Core) : State :=
  { State.reset with cores := [(0, { c with elems := [(64, elemWith ds)] })], actor := .unit ⟨0, 64⟩ 0 0 }
def witCe : UnitId := ⟨0, 64⟩

/-- A small object of two sections: one stream pattern (one element of 16 bytes at 0x1000, engine 0) and a launch record of one
core, whose completion timeline is 8. -/
def witObject : List Byte :=
  leBytes 12 0 ++ leBytes 4 2 ++ leBytes 8 32 ++ leBytes 8 0 ++
  (leBytes 4 6 ++ leBytes 4 1 ++ leBytes 8 96 ++ leBytes 8 96 ++ leBytes 4 96 ++ leBytes 4 0) ++
  (leBytes 4 8 ++ leBytes 4 1 ++ leBytes 8 192 ++ leBytes 8 256 ++ leBytes 4 256 ++ leBytes 4 0) ++
  (leBytes 3 0 ++ leBytes 1 1 ++ leBytes 4 0 ++ leBytes 8 0x1000 ++ leBytes 24 1 ++ leBytes 48 16 ++ leBytes 8 4) ++
  (leBytes 6 0 ++ leBytes 1 2 ++ leBytes 4 0 ++ leBytes 1 8 ++ leBytes 88 0 ++ leBytes 4 1 ++ leBytes 152 0)

/-- Packets of a control element: d0 a copy-engine SIGNAL, d1 a WCLR, d2 and d3 a LOAD of fe(0,0), d4 a phase command, d5 an sbind of
pattern 0, d6 a RESUME. -/
def witPackets : List Quad := [0x0C, 0x02, .ofNat 128 (1 + 2 ^ 64), 0, 0x101, 1, 0x0D]
def witCeS : State := { ceState witPackets { launch := some 1, streams := [(witObject.drop 96).take 96] } with
  launches := [(1, { object := witObject })], edges := [{ src := .eng 0 0, dst := .elem 0 0 0, launch := 1 }] }

theorem witness_CommandsTakeEntries :
    (∀ i ∈ [Instr.send 13 0 0 true none, .send 13 0 0 true (some 3), .sendw 13 0 0 true false 9, .sendw 13 0 0 true true 9, .cfgEng 8 1 0 9, .cfgFab 2 1 9,
      .cfgPhase 4 0 9, .sbind 0 5 0 9], CanFire witCeS witCe 0 0 i) ∧
    (∀ w ∈ [true, false], staticFault witCeS 0 13 (.send (isCe witCe) w) true (packet witCeS witCe 0 0) = none) ∧
    noEntry 13 ((packet witCeS witCe 0 0).headD 0) = false ∧ ((getCore witCeS 0).queue 13).hasRoom true = true ∧
    arbiter witCeS 0 13 64 = true ∧ staticFault witCeS 0 8 .cfg false (packet witCeS witCe 1 0) = none ∧
    ((getCore witCeS 0).queue 8).hasRoom false = true ∧ fabricBad (packet witCeS witCe 2 1) = false ∧ phaseBad (packet witCeS witCe 4 0) = false ∧
    sbindFault witCeS 0 0 (packet witCeS witCe 5 0) = none ∧ ((getCore witCeS 0).queue 0).hasRoom false = true := by unfold CanFire; decide +kernel
/-- A stopped matrix node whose queue has only reserved entries left, its trap masked: d0 an unassigned code, d1 a RESUME, d2 an MZERO. -/
def witFull : State := ceState [0xFF, 0x0D, 0x1C] { ctl := { msk := true }, mn := { stopped := 1 }, queues := [(12, { q := [default], taken := 27 })] }
theorem witness_CommandsTurnedAwayAndAccepted :
    (∀ i ∈ [Instr.sendw 12 0 0 false false 9, .send 12 0 0 false none, .sendw 12 1 0 false false 9, .send 12 1 0 false (some 3), .sendw 12 2 0 false true 9,
      .send 12 2 0 false (some 3), .send 12 2 0 false none], CanFire witFull witCe 0 0 i) ∧
    (∀ w ∈ [true, false], staticFault witFull 0 12 (.send true w) false (packet witFull witCe 0 0) = some 0x180 ∧
      staticFault witFull 0 12 (.send true w) false (packet witFull witCe 1 0) = none ∧
      staticFault witFull 0 12 (.send true w) false (packet witFull witCe 2 0) = none) ∧
    noEntry 12 ((packet witFull witCe 1 0).headD 0) = true ∧ noEntry 12 ((packet witFull witCe 2 0).headD 0) = false ∧
    ((getCore witFull 0).queue 12).hasRoom false = false := by unfold CanFire; decide +kernel

/-- d0 counts 0, d1 counts 1, d2 counts 2. -/
def witLoop : State := ceState [0, 1, 2] {}
theorem witness_BranchesCallsAndSoftwareTraps :
    (∀ i ∈ [Instr.br (-1), .loop 0 (-1), .loop 1 (-1), .loop 2 (-256), .sysCall 3 .ones, .sysRet (.d 0), .sysTrap 15], CanFire witLoop witCe 0 0 i) ∧
    laneOf 64 ((Machine.getElem witLoop witCe).dreg 0) 0 = 0 ∧ laneOf 64 ((Machine.getElem witLoop witCe).dreg 1) 0 ≠ 0 := by
  unfold CanFire; decide
/-- Register numbers: d0 CSTAT, d1 none, d2 the FPCTL of fe(0,0), d3 CYCLE; a schedule of one entry, taken and not taken. -/
def witSys (n : Dword) (hnd : Bool) : State := { ceState [0, 0xFFFF, 0x1000, 8, 0x1000, 7] { launch := some 0, ctl := { sccnt := n, hnd := hnd } } with
  launches := [(0, { inst := 7 })] }
theorem witness_SystemScheduleAndLayoutInstructions :
    (∀ h ∈ [true, false], CanFire (witSys 1 h) witCe 0 0 .sysEret) ∧ (getCtl (witSys 1 true) 0).hnd = true ∧ (getCtl (witSys 1 false) 0).hnd = false ∧
    (∀ i ∈ [Instr.sysSysrd (.d 8) (.d 0), .sysSysrd (.d 8) (.d 1), .sysSysrd (.d 8) (.d 2), .sysSyswr (.d 0) (.d 1), .sysSyswr (.d 1) (.d 1), .sysSyswr (.d 3) (.d 1),
      .sysSleep .nul .zero .zero, .sysScnext 14 7, .sysRewire 8 (.d 4), .sysLayoutv (.d 8) .zero, .sysLayoutv (.d 8) .ones],
      CanFire (witSys 1 false) witCe 0 0 i) ∧ CanFire (witSys 0 false) witCe 0 0 (.sysScnext 14 7) ∧
    sysRegKnown 0 = true ∧ elementReg 0 = none ∧ (elementReg 0x1000).isSome = true ∧ sysRegReadOnly 0 = false ∧ sysRegKnown 8 = true ∧ sysRegReadOnly 8 = true ∧ sysRegKnown 0xFFFF = false ∧
    AddressFits 0 16 ∧ AddressFits 0x1000 64 ∧ findInstance (witSys 1 false) 0 0 = some 0 ∧ findInstance (witSys 1 false) 0 (2 ^ 32 - 1) = none := by
  unfold CanFire AddressFits; decide

def witWindow : Tbl Port := [(0, { wins := [(0, { valid := true, wr := true, size := 0x1000 })] })]
/-- Registers: d0 to d4 the address 0x100, d7 the number of CSTAT, d9 of the FPCTL of fe(0,0); a schedule at 0x100. -/
def witSysC : Core :=
  { part := some 0, launch := some 0, ports := witWindow, ctl := { sccnt := 1, scbase := 0x100, hnd := true } }
def witSysO : State :=
  { ceState [0x100, 0x100, 0x100, 0x100, 0x100, 0, 0, 0, 0, 0x1000] witSysC with launches := [(0, { inst := 7 })] }
theorem witness_SystemScheduleAndLayoutInstructions_whole :
    (Machine.getElem witSysO witCe).flights = [] ∧ (getCtl witSysO 0).hnd = true ∧
    (∀ i ∈ [Instr.sysEret, .sysSysrd (.d 8) (.d 7), .sysSysrd (.d 8) (.d 9), .sysSyswr (.d 7) (.d 0), .sysSyswr (.d 9) (.d 0), .sysScnext 10 7, .sysRewire 8 (.d 0),
      .sysLayoutv (.d 8) .zero], CanFire witSysO witCe 0 0 i) ∧
    AddressFits 0x100 64 ∧ walkCycles witSysO 0 0x100 .read = 0 ∧ lookUp witSysO 0 0x100 64 .read = .ok (witGlobal 0x100) ∧
    lookUp witSysO 0 0x110 16 .read = .ok (witGlobal 0x110) ∧ walkCycles witSysO 0 0x110 .read = 0 ∧ (getCore witSysO 0).waits = [] ∧
    findInstance witSysO 0 0 = some 0 := by
  unfold CanFire AddressFits; decide +kernel

/-- R21's element in its first cycle: slot 0 holds the worked fadd word, slot 1 a word that never decodes. -/
def witTurn : State :=
  { unitState 0 { witE with slots := [(0, 0x02062019), (1, 0x0E066239)], sloten := 3, trig := [(3, 0x0000000100000000)] } 0 0 with
    agenda := [.turn ⟨0, 0⟩], actor := .none }
/-- A control element at its first word, a nop; the copy engine's SIGNAL; a walk's rule. -/
def witTurnCe : State := { ceState [] {} with agenda := [.turn ⟨0, 64⟩], actor := .none }
def witCmd (p : List Quad) : Cmd := { unit := 0, slot := 0, packet := p, sig := false, creg := some 3 }
def witTurnEngine : State := { State.reset with
  cores := [(0, { queues := [(13, { q := [witCmd [0x0C]] })] })], agenda := [.engine 0 13] }
def witWalk : Walk := { slice := 0, cmd := witCmd [1], rules := [0xF0000000, 0x20000000], nrule := 2, slim := 8, rp := 0 }
def witTurnWalk : State := { State.reset with cores := [(0, { walks := [(0, witWalk)] })], agenda := [.walk 0 0] }
theorem witness_StepRunsTheDecodedInstruction :
    (let s0 : State := { witTurn with agenda := [] }
     witTurn.agenda = .turn ⟨0, 0⟩ :: [] ∧ isCe ⟨0, 0⟩ = false ∧ unitReady s0 ⟨0, 0⟩ = true ∧
     scanSlots (Machine.getElem s0 ⟨0, 0⟩) 32 = [] ++ (0, 0x02062019, some 0) :: (scanSlots (Machine.getElem s0 ⟨0, 0⟩) 32).tail ∧
     (Machine.getElem s0 ⟨0, 0⟩).sloten.getLsbD 0 = true ∧ reads false (some 0) (0x02062019, .fadd .f32x4 (.out 0) (.inp 0) (.d 1)) = true ∧
     ready s0 ⟨0, 0⟩ 0x02062019 (.fadd .f32x4 (.out 0) (.inp 0) (.d 1)) = true ∧
     offerPort (Machine.getElem s0 ⟨0, 0⟩) (.fadd .f32x4 (.out 0) (.inp 0) (.d 1)) = none) ∧
    (let s0 : State := { witTurnCe with agenda := [] }
     unitReady s0 ⟨0, 64⟩ = true ∧ fetchWord s0 0 0 = 0 ∧ reads true (some (fetchWord s0 0 4).toNat) (0, .nop) = true ∧
     offerPort (Machine.getElem s0 ⟨0, 64⟩) .nop = none) ∧
    (let s0 : State := { witTurnEngine with agenda := [] }
     cutting s0 0 = false ∧ headCmd s0 0 13 = some (witCmd [0x0C]) ∧ mayRun s0 0 13 = true ∧ (witCmd [0x0C]).bad = none) ∧
    (let s1 := moveReply { witTurnWalk with agenda := [] } 0 0
     cutting s1 0 = false ∧ walkRule s1 0 0 = some (some .idle)) := by decide +kernel
theorem witness_EncodeThenDecode : wellFormed false (.fadd .f32x4 (.out 0) (.inp 0) (.d 1)) = true ∧
    encodeOp (.fadd .f32x4 (.out 0) (.inp 0) (.d 1)) = some 0x02062019 ∧ wellFormed true (.br (-1)) = true ∧ encodeOp (.br (-1)) = some 0x03E7FFFF ∧
    0b110011 / 8 % 2 = 0 ∧ wellFormed false (.ldf 1 24 .b4) = true ∧ encodeRule (.ldf 1 24 .b4) = some 0x14610000 := by decide
theorem witness_DecodedIsWellFormed : reads false none (0x02062019, .fadd .f32x4 (.out 0) (.inp 0) (.d 1)) = true ∧ decodeRule 0x14610000 = some (.ldf 1 24 .b4) := by
  decide
theorem witness_StepKeepsMemoryCanonical : Safe State.reset ∧ ∃ t, step State.reset = .next t := ⟨by unfold Safe; decide, _, rfl⟩

/-! ### What becomes visible -/

/-- An instruction about to become visible in cycle 0. -/
def witFlight (acts : List Act) (trap : Option Cause) : Flight :=
  { vis := 0, slot := 0, word := 0x02062019, consume := 1, outs := [(0, 0)], pset := 1, pclr := 2, pendD := 12, pendA := 2, pendP := 3, pendLane := true,
    flags := 1, srAfter := some 7, acts := acts, keepD := 8, trap := trap }
def witVis (ix : Nat) (acts : List Act) (trap : Option Cause) : State :=
  unitState ix { witE with
    flights := [witFlight acts trap], outq := [(0, { q := [⟨0, none, 0, 0⟩] })], pendD := 12, pendA := 2, pendP := 3, pendLane := true,
    fpctl := 0x1F00 } 0 0
def witActs : List Act := [.d 2 5, .a 1 8, .lane 0 [1, 2], .out 0 0 ⟨5, 3⟩, .p 4 4]
theorem witness_InstructionVisible : (Machine.getElem (witVis 0 witActs none) wit).flights = witFlight witActs none :: [] ∧
    (witFlight witActs none).vis ≤ 0 ∧ (witFlight witActs none).trap = none ∧ witActs.Nodup ∧
    (∀ a ∈ witActs, IsLocal a) := by simp [witActs, IsLocal]; decide
theorem witness_EnabledFlagsTrapAtVisibility : (∀ ix ∈ [0, 64], (Machine.getElem (witVis ix witActs (some 0x040)) ⟨0, ix⟩).flights = witFlight witActs (some 0x040) :: []) ∧
    (witFlight witActs (some 0x040)).vis ≤ 0 ∧ (∀ n, n ≤ 4 → ((Num.fNX.getLsbD n && (0x1F00 : Word).getLsbD (12 - n)) = decide (n = 0))) := by decide

/-- A control element with one instruction about to become visible; d0 of fe(0,0) is in a trap that is being handled. -/
def witCtl (acts : List Act) : State :=
  { State.reset with
    cores := [(0, { elems := [(0, (elemWith []).setRun 2), (64, { elemWith [1, 2, 3] with flights := [witFlight acts none] })],
                    ctl := { hnd := true, epc := 0x40, trapSrc := some (1, 0) } })] }
theorem witness_ControlEffectsAtVisibility : ∀ acts ∈ [[Act.jump 0x5FFFC], [.sys .eret], [.sysread 8 (.d 3)], [.layoutv 0 (.d 3)], [.sys (.write 0 3)],
    [.sys (.write 1 0xFFFFFFFF)], [.sys (.write 2 7)], [.sys (.write 4 0x5FFFF)], [.sys (.write 5 1)]],
    (Machine.getElem (witCtl acts) witCe).flights = witFlight acts none :: [] ∧ (witFlight acts none).vis ≤ (witCtl acts).cycle ∧
    (witFlight acts none).trap = none := by decide

/-- A control element with its trap record at the highest place, a trap of its own or one queued by fe(7,7). -/
def witTrap (own : Option OwnTrap) (q : List TrapEntry) (hnd msk : Bool) : State :=
  { State.reset with
    cores := [(0, { elems := [(63, (elemWith []).setRun 2), (64, elemWith [])], trapq := q,
                    ctl := { own := own, hnd := hnd, msk := msk, trbase := 0x5FFC0, tvec := 0x100 } })] }
def witOwn : OwnTrap := ⟨0x333, 0x20, 0x03E80032, 0, 0, false⟩
def witQueued : TrapEntry := { kind := 1, src := 63, cause := 0x083, repeats := 2, since := 0 }
theorem witness_TrapTakenEntersTheHandler :
    (∀ s ∈ [witTrap (some witOwn) [] false true, witTrap none [witQueued] false false, witTrap (some witOwn) [] true false, witTrap none [] true false,
        witTrap none [witQueued] false true],
      Memory.wf s.mem = true ∧ (getCtl s 0).stopped = false ∧ (Machine.getElem s witCe).run = 1 ∧ (getCtl s 0).sleep = none ∧
      (getCtl s 0).trbase.toNat ≤ 0x5FFC0) ∧
    (getCtl (witTrap (some witOwn) [] false true) 0).own = some witOwn ∧
    (getCore (witTrap none [witQueued] false false) 0).trapq = [witQueued] ∧
    jumpInFlight (Machine.getElem (witTrap none [witQueued] false false) witCe) = false ∧
    (getPart (witTrap (some witOwn) [] true false) (partOf (witTrap (some witOwn) [] true false) 0)).lead ≠ 1 ∧
    (getPart { witTrap (some witOwn) [] true false with parts := [(0, { lead := 1 })] } 0).lead ≠ 0 := by decide

/-- Core 0 with its scratchpad at virtual address 0. -/
def witWin : Win := { valid := true, wr := true, size := 0x60000, pbase := 0x420000000000 }
def witCore : Core := { part := some 0, ports := [(0, { wins := [(0, witWin)] })] }
def witAsk (va n : Nat) : MemSpec := { op := .store, words := [(0, va, n, 7, 0)], sink := .d 3 }
def witReq (va n : Nat) : State := { State.reset with
  cores := [(0, { witCore with elems := [(0, { elemWith [] with flights := [witFlight [.mem (witAsk va n)] none] })] })], parts := [(0, { used := true })] }
theorem witness_RequestsAreAcceptedOrTrap :
    (∀ va ∈ [0, 0x5FFF0], (findWin (getCore (witReq va 16) 0) va).isSome = true ∧
      lookUp (witReq va 16) 0 va 16 (MemOp.use .store) = .ok { pa := 0x420000000000 + va, home := .cpad 0, port := 0, win := some 0 }) ∧
    (let s : State := { witReq 0 16 with cores := (witReq 0 16).cores.map fun c => (c.1, { c.2 with ports := [(0, { wins := [(0, { witWin with wr := false })] })] }) }
     (findWin (getCore s 0) 0).isSome = true ∧ lookUp s 0 0 16 (MemOp.use .store) = .fault 0 0x091) := by decide

/-- An access of core 0's scratchpad on arrival. -/
def witPart (h : Home) (pa n : Nat) (ph : Phase) : Part := { lane := 0, va := 0, pa := pa, n := n, home := h, data := 0x1234, compare := 0, phase := ph }
def witR (op : MemOp) (p : Part) : Req :=
  { core := 0, unit := 0, slot := 0, op := op, posted := false, reuse := .normal, noalloc := false, laneBits := 128, sink := .d 3, parts := [p], pts := 5, update := false }
def witHome (op : MemOp) (h : Home) (pa n : Nat) : State := { State.reset with
  cores := [(0, { witCore with elems := [(0, elemWith [])] })], reqs := [(0, witR op (witPart h pa n (.travelling 0)))], nextReq := 1 }
def IsArriving (s : State) : Prop := ∃ r p, Arriving s 0 r p
theorem witness_ExplicitHomesPerform : ∀ op ∈ [MemOp.load, .store, .atom .addI64, .cas], ∀ h ∈ [(Home.cpad 0, 0x42000005FFF8), (.clus 0 15, 0x410000000F00), (.mpad 127, 0x40001FC00000)],
    tfind (witHome op h.1 h.2 8).reqs 0 = some (witR op (witPart h.1 h.2 8 (.travelling 0))) ∧
    (witR op (witPart h.1 h.2 8 (.travelling 0))).part 0 = some (witPart h.1 h.2 8 (.travelling 0)) ∧
    leNat (Memory.readN (witHome op h.1 h.2 8).mem h.2 8) = (witPart h.1 h.2 8 (.travelling 0)).compare.toNat := by decide

/-- The same with a line of global memory in its slice, or without it. -/
def witLine : Line := { addr := 8, part := 0, data := leBytes 128 0, wts := 3, rts := 9 }
def witSlice (op : MemOp) (ls : Tbl Line) (ph : Phase) : State :=
  { witHome op (.slice 4) 0x400 8 with reqs := [(0, witR op (witPart (.slice 4) 0x400 8 ph))], slices := [(4, { lines := ls, sctl := 0 })] }
theorem witness_SlicesPerformHits :
    (∀ op ∈ [MemOp.load, .store], let s := witSlice op [(0, witLine)] (.travelling 0)
      (getSlice s 4).closedTo 0x400 = false ∧ heldByDomain s 0x400 = false ∧ missPending s 4 8 = none ∧ (getSlice s 4).hit (partOf s 0) 8 = some (0, witLine) ∧
      (getSlice s 4).spways = 0 ∧ (getSlice s 4).monitors = []) ∧
    present (witSlice .load [] (.travelling 0)) 4 0 8 = false ∧ missPending (witSlice .load [] (.travelling 0)) 4 8 = none := by decide
def witReply (c : Cause) : State := witHome .load (.cpad 0) 0x420000000000 8 |> fun s =>
  { s with reqs := [(0, witR .load { witPart (.cpad 0) 0x420000000000 8 (.replied 0) with cause := c })] }
theorem witness_RepliesArrive : ∀ c ∈ [0, 0x097], ∃ p, tfind (witReply c).reqs 0 = some (witR .load p) ∧ (witR .load p).parts = [p] ∧ p.phase = .replied 0 ∧ p.cause = c ∧
    (Machine.getElem (witReply c) wit).run = 1 ∧ (Machine.getElem (witReply c) wit).flights = [] := by
  intro c hc
  refine ⟨{ witPart (.cpad 0) 0x420000000000 8 (.replied 0) with cause := c }, ?_⟩
  revert c; decide

/-! ### The memory hierarchy -/

/-- A BF16 view over FP32 storage: one line at the lowest address of the views, whose home is slice 320. -/
def witFw : FormatWindow :=
  { seed := 0, part := 0, stfmt := 1, cfmt := 1, rm := 0, trapen := false, scaled := false, vbase := 0x500000000000, sbase := 0x1000,
    xbase := 0, nline := 1 }
def witViewAddr : Nat := 0x500000000000 / 128
def witView (ls : Tbl Line) (reqs : Tbl Req) : State := { State.reset with
  cores := [(0, witCore)], fw := [(0, witFw)], slices := [(320, { lines := ls, sctl := 0, fwStat := [(0, 0x7F)], fwSeed := [(0, 1)] })], reqs := reqs }
def witMon (old : Nat) : State := { witSlice .monitor [(0, witLine)] (.travelling 0) with
  reqs := [(0, witR .monitor { witPart (.slice 4) 0x400 8 (.travelling 0) with compare := .ofNat 128 old })] }
/-- A newer read, request 0, that overtakes the reply of an older one, request 1. -/
def witMerge : State := { witSlice .load [] (.travelling 40) with
  reqs := [(0, witR .load (witPart (.slice 4) 0x400 8 (.travelling 40))),
    (1, witR .load { witPart (.slice 4) 0x400 8 (.replied 1) with line := leBytes 128 7, rts := 6, wts := 5 })] }
theorem witness_SlicesServeMissesAndMonitors :
    (let s := { witSlice .load [] (.missed 0) with reqs := [(0, { witR .load (witPart (.slice 4) 0x400 8 (.missed 0)) with reuse := .stream })] }
     missedOn s 4 8 = [(0, 0)] ∧ ({ witR .load (witPart (.slice 4) 0x400 8 (.missed 0)) with reuse := .stream } : Req).passes (witPart (.slice 4) 0x400 8 (.missed 0)) = true ∧
     (getSlice s 4).anyLine 8 = none ∧ (getSlice s 4).chute = [] ∧ s.poison.contains 8 = false ∧ spaceOf (8 * 128) = .global ∧ 0x400 % 128 + 8 ≤ 128) ∧
    (let s := witView [] [(0, { witR .load (witPart (.slice 320) 0x500000000000 8 (.missed 0)) with reuse := .stream })]
     missedOn s 320 witViewAddr = [(0, 0)] ∧ (homeOf s (witViewAddr * 128)).toOption = some (.slice 320) ∧ foreignTo s 0 0x500000000000 = none ∧ spaceOf (witViewAddr * 128) = .view ∧ findView s.fw witViewAddr = some (0, witFw, 0) ∧ witFw.trapen = false) ∧
    (let l : Line := { witLine with addr := witViewAddr, dirty := true }
     (getSlice (witView [(0, l)] []) 320).anyLine witViewAddr = some (0, l) ∧ l.dirty = true) ∧
    (spaceOf (8 * 128) = .global ∧ (getSlice { State.reset with slices := [(4, { chute := [{ addr := 8, part := 0, bytes := [(0, 7)] }] })] } 4).chute = [{ addr := 8, part := 0, bytes := [(0, 7)] }]) ∧
    (witPart (.slice 4) 0x400 8 (.replay 0 (.slice 5))).phase = .replay 0 (.slice 5) ∧
    (∀ v ∈ [0, 1], (getSlice (witMon v) 4).hit (partOf (witMon v) 0) 8 = some (0, witLine) ∧ (getSlice (witMon v) 4).monitors.length < 64 ∧
      (decide (leNat ((witLine.data.drop 0).take 8) = (BitVec.ofNat 128 v).toNat)) = decide (v = 0)) ∧
    (tfind witMerge.reqs 1).isSome = true ∧ witMerge.cycle < 1 ∧ partOf witMerge 0 = partOf witMerge 0 ∧ foreignTo witMerge 0 0x400 = none ∧
    tsLt (6 : Stamp) 5 = false := by decide

/-- An entry for 256 MiB of its own, and one that meets IDT0. -/
def witIdt (hi : Nat) : Quad := .ofNat 128 (2 ^ 72 + hi * 2 ^ 20 + hi)
def witChange (pending : List Nat) : State := { State.reset with
  idt := [(0, .ofNat 128 (resetIdt.toNat + 2 ^ 73))], change := some { lo := 0, hi := 2 ^ 28 - 1, pending := pending },
  slices := [(4, { lines := [(0, witLine)], chute := [{ addr := 9, part := 0, bytes := [(0, 7)] }] })] }
theorem witness_SchedulerWritesAndRenormalisation :
    idtOk (witIdt 0xFFFFF) (((State.reset.idt.filter fun e => e.1 ≠ 1)).map (·.2)) = true ∧ idtOk (witIdt 0) (((State.reset.idt.filter fun e => e.1 ≠ 1)).map (·.2)) = false ∧
    State.reset.change = none ∧ idtTableOk (holdRange (([] : List (Fin 16 × Quad)).foldl (fun t e => tput t e.1 e.2) State.reset.idt) 0 (2 ^ 28 - 1) true) = true ∧
    (witChange [4]).change = some { lo := 0, hi := 2 ^ 28 - 1, pending := [4] } ∧ [4].contains 4 = true ∧ (witChange []).change = some { lo := 0, hi := 2 ^ 28 - 1, pending := [] } ∧
    windowRefusal State.reset 0 witFw = none ∧ tfind State.reset.fw 0 = none ∧ windowRefusal State.reset 0 { witFw with nline := 0 } = some 0x2C2 ∧
    tfind (witView [] []).slices 320 = some { sctl := 0, fwStat := [(0, 0x7F)], fwSeed := [(0, 1)] } ∧
    tfind ({ sctl := 0, fwStat := [(0, 0x7F)], fwSeed := [(0, 1)] } : Slice).fwStat 0 = some 0x7F := by decide

/-! ### Tokens, waits and completions -/

/-- A token at the head of fe(0,0)'s OUT0, for fe(0,1)'s IN0 in a core. -/
def witTok : Token := ⟨9, 3⟩
def witPos : OutPos := { ticket := 0, tok := some witTok, since := 0, ts := 4 }
def witEdge (dst : Dest) : Edge := { src := .elem 0 0 0, dst := dst, launch := 0 }
def witTokens (e : Edge) : State := { State.reset with
  cores := [(0, { elems := [(0, { elemWith [] with outq := [(0, { q := [witPos] })] }), (1, elemWith [])] }), (1, { elems := [(1, elemWith [])] })], edges := [e],
  parts := [(0, { used := true, ring := some (0x800000000000, 6), ringSeq := 63, doorbells := [(63, { toks := [{ tok := witTok }] })] })] }
theorem witness_TokensMove :
    (let e := witEdge (.elem 0 1 0)
     findEdge (witTokens e) (.elem 0 0 0) = some e ∧ outHead (witTokens e) ⟨0, 0⟩ 0 = some (witTok, witPos) ∧ inputRoom (witTokens e) 0 1 0 = true) ∧
    (let e := { witEdge (.elem 1 1 0) with blocked := some 0 }
     let s := { witTokens e with cycle := 1024 }
     findEdge s (.elem 0 0 0) = some e ∧ e.crossCore = true ∧ (∃ c, e.blocked = some c ∧ c + 1024 ≤ s.cycle) ∧ (Machine.getElem s ⟨1, 1⟩).run ≠ 0 ∧
      ((Machine.getElem s ⟨1, 1⟩).inCh 0).ring.length < 64) ∧
    (let e := { witEdge (.elem 1 1 0) with spill := true }
     let s0 := witTokens e
     let s := setElem s0 ⟨1, 1⟩ { elemWith [] with inq := [(0, { ring := [⟨witTok, 7, 0⟩, ⟨witTok, 8, 0⟩] })] }
     findEdge s (.elem 0 0 0) = some e ∧ outHead s ⟨0, 0⟩ 0 = some (witTok, witPos) ∧ (⟨witTok, 7, 0⟩ : Spilled).at_ ≤ s.cycle ∧
      ((Machine.getElem s ⟨1, 1⟩).inCh 0).ring = ⟨witTok, 7, 0⟩ :: [⟨witTok, 8, 0⟩] ∧ inputRoom s 1 1 0 = true) ∧
    (let s := witTokens (witEdge (.egress 0 63))
     Memory.wf s.mem = true ∧ (getPart s 0).ring = some (0x800000000000, 6) ∧ (getPart s 0).ringSeq - (getPart s 0).ringFreed < 2 ^ 6 ∧ writesDone s 0 0 = true) ∧
    (let e : Edge := { src := .ingress 0 63, dst := .elem 0 1 3, launch := 0 }
     findEdge (witTokens e) (.ingress 0 63) = some e ∧ (tget {} (getPart (witTokens e) 0).doorbells 63 : Doorbell).toks = { tok := witTok } :: [] ∧ hostDone (witTokens e) 0 = true ∧
     inputRoom (witTokens e) 0 1 3 = true) := by
  refine ⟨by decide, ⟨by decide, by decide, ⟨0, by decide⟩, by decide, by decide⟩, by decide, by decide, by decide⟩

def witWaits (k : WaitKind) (b : Barrier) : State := { State.reset with
  cores := [(0, {
    elems := [(0, { elemWith [] with pendD := 8 }), (64, { elemWith [] with pendD := 8 })], waits := [(0, { unit := 0, kind := k, sink := .d 3 })],
    bars := [(2047, b)], tl := [(8, 5)], ctl := { sleep := some { mask := 3, limit := some 10, seen := 2, sink := .d 3, since := 0 } } })] }
theorem witness_WaitsComplete :
    (∀ k ∈ [WaitKind.barFull 2047 0 false, .barPar 2047 0 0, .timeline 8 5, .count 0, .fence .core [] 3 7 false, .arrive 2047 1 [], .signal 8 1 []],
      ((tfind (getCore (witWaits k { expected := 2, phase := 1 }) 0).waits 0).map (·.kind)) = some k) ∧
    (let b : Barrier := (getCore (witWaits (.barFull 2047 0 false) { expected := 2, phase := 1 }) 0).bar 2047
     1 ≤ (b.phase - 0).toNat ∧ (b.phase - 0).toNat ≤ 0x7FFF ∧ b.phase ≠ 0 ∧ b.arrived + 1 < b.expected ∧ b.arrived + 2 = b.expected ∧ 0 < b.expected) ∧
    (5 : Dword).toNat ≤ ((getCore (witWaits (.timeline 8 5) {}) 0).timeline 8).toNat ∧ openUpdates (getCore (witWaits (.count 0) {}) 0) 0 ≤ 0 ∧
    cwaitSum (getCore (witWaits (.count 0) {}) 0) 0 = (0, 0, false) ∧
    (let s := setCtl (witWaits (.count 0) {}) 0 { (getCtl (witWaits (.count 0) {}) 0) with own := some ⟨0x333, 0x20, 0, 0, 0, false⟩ }
     (getCtl s 0).own = some ⟨0x333, 0x20, 0, 0, 0, false⟩ ∧ (getCtl s 0).stopped = false ∧ (getCtl s 0).hnd = false ∧ (getCtl s 0).trbase.toNat ≤ 0x5FFC0 ∧
      (getCtl s 0).sleep = some { mask := 3, limit := some 10, seen := 2, sink := .d 3, since := 0 } ∧ s.cycle < 10) ∧
    (getCtl (witWaits (.count 0) {}) 0).sleep = some { mask := 3, limit := some 10, seen := 2, sink := .d 3, since := 0 } ∧
    (Machine.getElem (witWaits (.count 0) {}) ⟨0, 64⟩).run = 1 := by decide

/-- The reads that an engine has issued, each answered with its bytes. -/
def witGot (l : List (Nat × List Byte)) : List Fetch := l.map fun x => { va := x.1, n := x.2.length, ans := .got x.2 3 }

/-- A command at the head of a port's queue, its engine the actor; the core reads its scratchpad from virtual address 0. -/
def witEng (port : Nat) (m : Cmd) (c : Core) : State := { State.reset with
  cores := [(0, { c with part := some 0, ports := [(0, { wins := [(0, witWin), (1, { witWin with vbase := 0x200000, pbase := 0x430000000000 })] })], queues := [(port, { q := [m] })] })],
  parts := [(0, { used := true })], actor := .engine 0 port }
def witDone (n : Dword) : Completion := { unit := 0, reg := some 3, word := 77, tl := some 0, num := n, psb := some 8 }
theorem witness_CompletionsAndFabricCommands :
    (let s : State := { State.reset with cores := [(0, { elems := [(0, elemWith [])], comps := [(13, [witDone 1])], psb := [(8, 1)] })] }
     tget [] (getCore s 0).comps 13 = witDone 1 :: [] ∧ (witDone 1).due ≤ s.cycle ∧ (witDone 1).num = (getCore s 0).timeline 0 + 1 ∧
      tget [] (getCore s 0).tlDone 0 = [] ∧ tget 0 (getCore s 0).psb 8 = 1) ∧
    (let s := witEng 13 (witCmd [0x0C]) {}
     s.actor = .engine 0 13 ∧ headCmd s 0 13 = some (witCmd [0x0C])) ∧
    (let s := witEng 13 (witCmd [1]) { engines := [(13, { state := 2, cause := 0x214 })] }
     headCmd s 0 13 = some (witCmd [1]) ∧ (witCmd [1]).bad = none ∧ (getEng s 0 13).state = 2) ∧
    (let s := witEng 7 (witCmd [1]) { engines := [(7, { state := 1 })] }
     headCmd s 0 7 = some (witCmd [1]) ∧ (getEng s 0 7).state = 1) ∧
    (let m : Cmd := { witCmd [1] with unit := 64, conf := true }
     let s := witEng 20 m { elems := [(63, elemWith [])] }
     s.actor = .engine 0 20 ∧ headCmd s 0 20 = some m ∧ m.unit = ceIx ∧ (getEng s 0 20).state = 0 ∧ (1#64 <<< 63).getLsbD 63 = true ∧
      (Machine.getElem s ⟨0, 63⟩).run ≠ 0 ∧ (∀ i, i < 17 → tget 0 (getCore s 0).psb i = 0)) ∧
    tget 0 (getCore (witEng 20 (witCmd [0x101]) { psb := [(0, 1)] }) 0).psb 0 ≠ 0 := by decide
/-- A LOAD whose next record, of fe(0,0), has arrived, as its last and with another behind it. -/
def witLoadS (els : List Nat) : State := witEng 20 { witCmd [1] with unit := 64, conf := true }
  { engines := [(20, { state := 1, pos := 0 :: 0 :: els })], fetches := [(20, witGot [(0, leBytes 0x2B0 0)] ++ [{ va := 0x2B0, n := 16, ans := .waiting }])] }
theorem witness_CompletionsAndFabricCommands_record :
    (∀ els ∈ [[], [1]], (getEng (witLoadS els) 0 20).state = 1 ∧ (getEng (witLoadS els) 0 20).pos = 0 :: 0 :: els ∧
      wholeRecord (arrivedFrom 0 (fetchesOf (witLoadS els) 0 20)) = some (leBytes 0x2B0 0) ∧
      wholeRecord (arrivedFrom (0 + (leBytes 0x2B0 0).length) (fetchesOf (witLoadS els) 0 20)) = none ∧
      (firstOpen (fetchesOf (witLoadS els) 0 20)).map (·.ans) = some .waiting) ∧
    rd (leBytes 0x2B0 0) 2 1 = 0 / 8 ∧ rd (leBytes 0x2B0 0) 3 1 = 0 % 8 ∧ badTriggerOf (leBytes 0x2B0 0) = none := by decide +kernel

/-- A launch whose pattern reads one element of 16 bytes, its stream engine bound, its token's place empty. -/
def witStream (e : Engine) : State :=
  let s := witEng 0 (witCmd [1]) { launch := some 1, streams := [(witObject.drop 96).take 96], elems := [(0, elemWith [])], engines := [(0, e)],
                                      fetches := [(0, witGot [(0x1000, leBytes 16 5)])] }
  { s with launches := [(1, { object := witObject })], edges := [{ src := .eng 0 0, dst := .elem 0 0 0, launch := 1 }] }
def witBound : Engine := { state := 1, base := 0x1000, pos := [0, 0, 0, 0, 0, 0] }
/-- fe(0,0)'s OUT0 feeds an edge port with a word. -/
def witPort (d : Dest) (w : Quad) : State := { State.reset with
  cores := [(0, { elems := [(0, { elemWith [] with outq := [(0, { q := [{ witPos with tok := some ⟨w, 0⟩ }] })] })] })],
  edges := [{ src := .elem 0 0 0, dst := d, launch := 0 }] }
theorem witness_StreamsAndEdgePorts :
    (∀ e ∈ [({} : Engine), witBound], ∃ p, boundPattern (witStream e) 0 0 0 = some p ∧ p.addrMode = false ∧ p.ew = 16 ∧ 0 < p.ndim ∧
      (∀ x ∈ p.strides.take p.ndim, x % (p.ew : Int) = 0) ∧ p.base % p.ew = 0) ∧ (0x1001 : Dword) ≠ 0 ∧ 0x1001 % 16 ≠ 0 ∧
    headCmd (witStream witBound) 0 0 = some (witCmd [1]) ∧ attachRoom (witStream witBound) 0 0 = some (0, 0, 0) ∧
    takeFetch (fetchesOf (witStream witBound) 0 0) (walkAddr 0x1000 [16] [0, 0, 0, 0, 0, 0]) 16 = some (.got (leBytes 16 5) 3, []) ∧
    (edgeToken (witPort (.cp 0) 1) 0 (.cp 0)).map (fun x => (x.1, x.2.2.tok)) = some (⟨0, 0⟩, some ⟨1, 0⟩) ∧ cpWords 1 = 8 ∧ cpWords 0x0C = 1 ∧
    ((getCore (witPort (.cp 0) 0x0C) 0).queue 13).hasRoom (signalClass 13 0x0C) = true ∧ arbiter (witPort (.cp 0) 0x0C) 0 13 65 = true ∧
    (edgeToken (witPort (.mn 0) 0x1C) 0 (.mn 0)).map (fun x => (x.1, x.2.2.tok)) = some (⟨0, 0⟩, some ⟨0x1C, 0⟩) ∧
    ((getCore (witPort (.mn 0) 0x1C) 0).queue 12).hasRoom (signalClass 12 0x1C) = true ∧ arbiter (witPort (.mn 0) 0x1C) 0 12 65 = true := by
  refine ⟨?_, by decide, by decide, by decide, by decide, by decide, by decide, by decide, by decide, by decide, by decide, by decide, by decide, by decide⟩
  intro e he
  refine ⟨(boundPattern (witStream e) 0 0 0).getD ⟨0, 0, 0, 0, [], [], 0⟩, ?_⟩
  revert e; decide +kernel

/-- A copy of one element of 16 bytes within the scratchpad, and one from a window onto a hole. -/
def witCopy (sbase : Dword) : CopyCmd :=
  { seed := 0, trapf := false, tl := 0, ewl := 4, dmx := false, smx := false, rm := .rne, dfmt := 0, sfmt := 0, conv := false, ndim := 1, dbase := 0x100,
    sbase := sbase, counts := [1, 0, 0, 0, 0, 0], sstrides := [16, 0, 0, 0, 0, 0], dstrides := [16, 0, 0, 0, 0, 0], sscale := 0, dscale := 0 }
/-- The copy engine with its position, its reads, and how it ends. -/
def witCp (pos : List Nat) (fs : List Fetch) (st : Nat) (final : Option (Nat × Cause)) : State :=
  { witEng 13 (witCmd [1]) { engines := [(13, { state := st, pos := pos, final := final })], fetches := [(13, fs)] } with agenda := [.engine 0 13] }
def routed (x : Xlate) : Bool := match x with | .ok _ => true | .fault _ _ => false
theorem witness_CopyMovesAnElement :
    (copyDims (witCopy 0) = [1] ∧ (copySrc (witCopy 0)).mx = false ∧ (copySrc (witCopy 0)).ew = 16) ∧
    (∀ s ∈ [witCp [] [] 0 none, witCp [0] (witGot [(0, leBytes 16 5)]) 1 none, witCp [0] [{ va := 0, n := 16, ans := .fault (.stop 0x090 0) }] 1 none,
      witCp [0] [] 1 (some (1, 0))],
      s.actor = .engine 0 13 ∧ headCmd s 0 13 = some (witCmd [1]) ∧ (getEng s 0 13).count = 0 ∧ (getEng s 0 13).espf = 0 ∧ engLost s 0 13 = false ∧
      (tget {} (getCore s 0).engOut 13 : EngOut).toks = [] ∧ engBusy s 0 13 = false ∧ routed (lookUp s 0 (walkAddr 0 [16] [0]) 16 .read) = true ∧
      routed (lookUp s 0 (walkAddr 0x100 [16] [0]) 16 .write) = true) ∧
    takeFetch (fetchesOf (witCp [0] (witGot [(0, leBytes 16 5)]) 1 none) 0 13) (walkAddr 0 [16] [0]) 16 = some (.got (leBytes 16 5) 3, []) ∧
    takeFetch (fetchesOf (witCp [0] [{ va := 0, n := 16, ans := .fault (.stop 0x090 0) }] 1 none) 0 13) (walkAddr 0 [16] [0]) 16 =
      some (.fault (.stop 0x090 0), []) ∧
    (let s := witCp [0] [] 1 (some (1, 0))
     s.agenda = .engine 0 13 :: [] ∧ cutting s 0 = false ∧ (getCore s 0).engSaved.contains 13 = false ∧ (getEng s 0 13).final = some (1, 0) ∧
      ((getCore s 0).queue 13).q.tail = []) := by decide +kernel

def witGather (b : Dword) : GatherCmd := { nidx := 1, trapf := false, tlf := false, rc := .normal, ewl := 4, iwl := 0, dbase := 0x100, ibase := b }
def witScatter : ScatterCmd := { nidx := 1, trapf := false, tlf := false, op := .add, ewl := 3, iwl := 0, vbase := 0x200, ibase := 0, dbase := 0x100 }
def witMask : MaskCmd := { ibase := 0x10, len := 8, trapf := false, tlf := false, tree := 0, isOr := false, nm := 0, m0 := 0, m1 := 0, m2 := 0, m3 := 0 }
def witList : ListCmd := { nb := 1, na := 1, trapf := false, tlf := false, bbase := 0x20, abase := 0 }
/-- The partition network or the intersection unit at a position, with its reads answered. -/
def witNet (port : Nat) (pos tail : List Nat) (fs : List Fetch) : State :=
  witEng port (witCmd [1]) { engines := [(port, { state := 1, pos := pos, tail := tail })], fetches := [(port, fs)] }
theorem witness_NetworkAndIntersectionCommands :
    inNetwork (witNet 14 [] [] []) 0 = false ∧ inNetwork { witNet 14 [] [] [] with reqs := [(0, { witR .load (witPart (.cpad 0) 0 8 (.translating 9)) with unit := 114 })] } 0 = true ∧
    (∀ s ∈ [witNet 14 [] [] [], witNet 14 [0] [0, 0] (witGot [(0, leBytes 4 0), (0x100, leBytes 16 5)]), witNet 14 [0] [0, 0] (witGot [(0, leBytes 4 0xFFFFFFFF)]),
        witNet 14 [0] [] (witGot [(0, leBytes 4 0), (0x200, leBytes 8 5)])],
      s.actor = .engine 0 14 ∧ headCmd s 0 14 = some (witCmd [1]) ∧ (getEng s 0 14).count = 0 ∧ (getEng s 0 14).cause = 0 ∧ (getEng s 0 14).final = none ∧
      engLost s 0 14 = false ∧ (tget {} (getCore s 0).engOut 14 : EngOut).toks = [] ∧ routed (lookUp s 0 0 4 .read) = true) ∧
    (∀ s ∈ [witNet 15 [] [] [], witNet 15 [0] [0] (witGot [(0, [0x91])]), witNet 15 [0, 0] (Merge.nats { p := 0, q := 0, a := some 7 }) (witGot [(0x20, leBytes 4 7)])],
      s.actor = .engine 0 15 ∧ headCmd s 0 15 = some (witCmd [1]) ∧ (getEng s 0 15).count = 0 ∧ (getEng s 0 15).cause = 0 ∧ (getEng s 0 15).final = none ∧
      engLost s 0 15 = false ∧ (tget {} (getCore s 0).engOut 15 : EngOut).toks = [] ∧ routed (lookUp s 0 0 4 .read) = true ∧
      routed (lookUp s 0 0 1 .read) = true) := by decide +kernel
theorem witness_NetworkAndIntersectionCommands_reads :
    takeFetch (fetchesOf (witNet 14 [0] [0, 0] (witGot [(0, leBytes 4 0), (0x100, leBytes 16 5)])) 0 14) 0 4 = some (.got (leBytes 4 0) 3, witGot [(0x100, leBytes 16 5)]) ∧
    takeFetch (witGot [(0x100, leBytes 16 5)]) ((0x100 + 0 * 16) % 2 ^ 64) 16 = some (.got (leBytes 16 5) 3, []) ∧
    takeFetch (fetchesOf (witNet 14 [0] [0, 0] (witGot [(0, leBytes 4 0xFFFFFFFF)])) 0 14) 0 4 = some (.got (leBytes 4 0xFFFFFFFF) 3, []) ∧
    takeFetch (fetchesOf (witNet 14 [0] [] (witGot [(0, leBytes 4 0), (0x200, leBytes 8 5)])) 0 14) 0 4 = some (.got (leBytes 4 0) 3, witGot [(0x200, leBytes 8 5)]) ∧
    takeFetch (witGot [(0x200, leBytes 8 5)]) 0x200 8 = some (.got (leBytes 8 5) 3, []) ∧
    mustHold (witNet 14 [] [] []) 0 [lookUp (witNet 14 [] [] []) 0 0x100 8 (MemOp.use (scatterOp .add 8))] = false ∧
    takeFetch (fetchesOf (witNet 15 [0] [0] (witGot [(0, [0x91])])) 0 15) 0 1 = some (.got [0x91] 3, []) ∧
    (∀ x ∈ [7, 8], takeFetch (fetchesOf (witNet 15 [0, 0] (Merge.nats { p := 0, q := 0, a := some x }) (witGot [(0x20, leBytes 4 7)])) 0 15) 0x20 4 =
      some (.got (leBytes 4 7) 3, [])) ∧
    (witGather 0).nidx = 1 ∧ (witGather 0).ewl = 4 ∧ witScatter.nidx = 1 ∧ witMask.nm = 0 ∧ witMask.len.toNat = 8 ∧ witList.na = 1 ∧ witList.nb = 1 := by
  decide +kernel

/-! ### Walks -/

/-- A walk in slot 15 of core 0, with a record of 128 bytes of which 16 are loaded: at offset 0 the number 9, at 8 a null pointer. -/
def witW : Walk := { witWalk with record := leBytes 8 9 ++ leBytes 120 0, rload := 16, cur := 0x400, nrule := 31 }
def witWalkS (w : Walk) (c : Core) : State := { State.reset with
  cores := [(0, { c with walks := [(15, w)], part := some 0 })], actor := .walk 0 15, parts := [(0, { used := true })] }
theorem witness_WalkRulesCompute : (witWalkS witW {}).actor = .walk 0 15 ∧ tfind (getCore (witWalkS witW {}) 0).walks 15 = some witW ∧
    (8 : Fin 128).val % 8 = 0 ∧ (8 : Fin 128).val + 8 ≤ witW.rload ∧ (14 : Fin 128).val + 2 ≤ witW.rload ∧ witW.rp < (31 : Fin 32).val ∧
    (31 : Fin 32).val ≤ witW.nrule := by decide
/-- The same walk with a translation of its own slice cached for it, so that its record's address needs no page walk. -/
def witLeaf : Leaf := { vbase := 0, size := 0x10000, pbase := 0, r := true, w := true }
def witLoad (w : Walk) (ls : Tbl Line) : State := { witWalkS w {} with slices := [(4, { lines := ls, sctl := 0, tcache := [(0, witLeaf)] })] }
/-- Whether an address translates to a physical one, and whether it faults with a cause. -/
def maps (r : Except Cause (Nat × Option Leaf)) (pa : Nat) : Bool := match r with | .ok (a, none) => a = pa | _ => false
def rejects (r : Except Cause (Nat × Option Leaf)) (c : Cause) : Bool := match r with | .error x => x = c | .ok _ => false
theorem witness_WalkRulesMoveAndEnd :
    (∀ w ∈ [witW, { witW with step := 8 }, { witW with slice := 4 }, { witW with pol := 1 }, { witW with pol := 2 }],
      tfind (getCore (witLoad w []) 0).walks 15 = some w ∧ w.rmode = false ∧ w.tried = false ∧ w.record.length = 128) ∧
    (0 : Fin 128).val + 16 ≤ witW.rload ∧ witW.rload < (16 : Fin 128).val + 8 ∧ leNat ((witW.record.drop 0).take 8) ≠ 0 ∧ leNat ((witW.record.drop 8).take 8) = 0 ∧
    witW.step ≠ witW.slim ∧ ({ witW with step := 8 } : Walk).step = witW.slim := by decide +kernel
theorem witness_WalkRulesMoveAndEnd_ldr :
    (∀ st ∈ [0, 4], maps (aditTranslate { witLoad witW [] with slices := [(st, { tcache := [(0, witLeaf)] })] } 0 st 0x400 8) 0x400 = true) ∧
    sliceOf (witLoad witW []) 0x400 ≠ 0 ∧ sliceOf (witLoad witW []) 0x400 = 4 ∧ rejects (aditTranslate (witLoad witW []) 0 0 0x404 8) 0x287 = true ∧
    aditCycles (witLoad witW []) 0 0 0x404 8 = 0 ∧
    (((getSlice (witLoad witW [(0, witLine)]) 4).hit 0 (0x400 / 128)).map fun x => x.2.data.length) = some 128 := by decide +kernel
/-- A WALK command whose first address is no record's, and its packet with the place of its rules, a line of zeros of slice 0. -/
def witWalkCmd : WalkCmd :=
  { paddr := 0, slim := 8, nrule := 3, skipix := 1, loopix := 2, entry := 1, rmode := false, trapf := false, pol := .stop, w0 := 5, cur0 := 0x404,
    key := 7, w1 := 6, rbase := 0x1000 }
def witWalkM : Cmd := { witCmd [1] with pas := [{ home := .slice 0, pa := 0x80 }] }
def witParked : Walk := { witW with parked := true, cause := 0x287 }
theorem witness_WalksBeginArriveAndResume :
    (let s := witEng 16 witWalkM {}
     s.actor = .engine 0 16 ∧ headCmd s 0 16 = some witWalkM ∧ (∀ i < 0, (tfind (getCore s 0).walks i).isSome = true) ∧ (0 : Nat) < 16 ∧
      tfind (getCore s 0).walks 0 = none ∧ (getCore s 0).walks = [] ∧
      (witWalkM.pas.headD {}).home = .slice 0 ∧
      (let r := performRead (dropHead s 0 16) (.slice 0) (partOf s 0) 0x80 128 .normal false (tsMax (getCore s 0).clock 0)
       r.2.cause = 0 ∧ rejects (aditTranslate r.1 0 0 0x404 8) 0x287 = true) ∧
      (let m : Cmd := { witCmd [1] with pas := [{ home := .remote 7, pa := 0x80, inc := 3 }] }
       headCmd (witEng 16 m {}) 0 16 = some m ∧ (m.pas.headD {}).home = .remote 7)) ∧
    (let s := witWalkS { witW with waiting := 2, target := 4 } {}
     tfind (getCore s 0).walks (15 : Fin 16).val = some { witW with waiting := 2, target := 4 } ∧ witW.due ≤ s.cycle ∧ witW.load = none) ∧
    (let s := witWalkS { witW with waiting := 1, incoming := leBytes 8 1 } {}
     tfind (getCore s 0).walks (15 : Fin 16).val = some { witW with waiting := 1, incoming := leBytes 8 1 }) ∧
    parkedWalk (getCore (witWalkS witParked {}) 0) = some (15, witParked) ∧ witParked.rmode = false := by decide +kernel

/-! ### The matrix node -/

/-- The stores of a state are canonical if those of each core it lists are. -/
def nodeFine (n : Node) : Bool := Memory.wf n.acc0 && Memory.wf n.acc1 && Memory.wf n.fbuf && Memory.wf n.grm
theorem tget_all {α : Type} (p : α → Bool) (d : α) (hd : p d = true) (t : Tbl α) (h : t.all (fun e => p e.2) = true) (k : Nat) :
    p (tget d t k) = true := by
  induction t with
  | nil => exact hd
  | cons e t ih => 
    obtain ⟨j, v⟩ := e
    simp only [List.all_cons, Bool.and_eq_true] at h
    show p (if j = k then v else tget d t k) = true
    split
    · exact h.1
    · exact ih h.2
theorem matrixSafe_of (s : State) (h : s.cores.all (fun e => nodeFine e.2.mn) = true) : MatrixSafe s := fun core => by
  have := tget_all (fun c : Core => nodeFine c.mn) {} (by decide) s.cores h core
  simp only [nodeFine, Bool.and_eq_true, and_assoc] at this
  exact this
/-- How reads end: 0 with their values, 1 for data that has not come, 2 at a fault that stops the node, 3 at one that ends the token. -/
def endsAs {α : Type} (r : State × Except EngFault α) : Nat := match r.2 with
  | .ok _ => 0 | .error .wait => 1 | .error (.ask _ _ _) => 1 | .error (.stop _ _) => 2 | .error (.ends _) => 3
def witDesc (base pitch fmt sp lay : Nat) : BitVec 256 := .ofNat 256 (base + pitch * 2 ^ 192 + fmt * 2 ^ 224 + sp * 2 ^ 229 + lay * 2 ^ 231)
def witMnTok : MnTok :=
  { opf := 0, tl := 0, trapf := false, bank := 0, mdc := 2, mdb := 1, mda := 0, chain := false, acc := false, k := 2, n := 2, m := 2 }
/-- MD0 an FP32 matrix of the matrix scratchpad, MD1 bank 1, MD2 another matrix, MD3 a block-compressed one, MD4 a block. -/
def witNode : Node := { md := [(0, witDesc 0x1000 64 1 1 0), (1, witDesc 1 0 1 2 0), (2, witDesc 0x2000 64 1 1 0), (3, witDesc 0x3000 64 1 1 2), (4, witDesc 0x4000 0 1 1 0)],
                        acc0 := [(2, 0x80), (3, 0x3F)], acc1 := [(2, 0x80), (3, 0x3F)] }
/-- Core 0 at a command of its node, whose lines these are; the matrix scratchpad's addresses from 0 on. -/
def witLines (n : Node) (m : Cmd) (fs : List Fetch) : State := { State.reset with
  cores := [(0, { part := some 0, mn := n, ports := [(0, { wins := [(0, { witWin with pbase := 0x400000000000 })] })], queues := [(12, { q := [m] })],
                  fetches := [(12, fs)] })],
  parts := [(0, { used := true })], actor := .engine 0 12 }
def witMn (n : Node) (m : Cmd) : State := witLines n m []
/-- A line at an offset with its answer. -/
def witLineAt (off : Nat) (ans : FetchAns) : Fetch := { va := off, n := 128, ans := ans, pa := 0x400000000000 + off, home := some (.mpad 0) }
/-- The eight lines from 0x1000 and from 0x2000 on, not there, of zeros, or with a fault at the first. -/
def witAns (k : Nat) : List Fetch := match k with
  | 0 => (List.range 8).flatMap fun i => [witLineAt (0x1000 + 128 * i) (.got (leBytes 128 0) 3), witLineAt (0x2000 + 128 * i) (.got (leBytes 128 0) 3)]
  | 1 => []
  | _ => [witLineAt 0x1000 (.fault (.stop 0x187 0x1000)), witLineAt 0x2000 (.fault (.stop 0x187 0x2000))]
theorem witMn_safe : MatrixSafe (witMn witNode (witCmd [1])) := matrixSafe_of _ (by decide)
theorem witMn_begins : Begins (witMn witNode (witCmd [1])) 0 (witCmd [1]) := by unfold Begins Commanded; decide
theorem witness_StepKeepsMatrixStoresCanonical :
    MatrixSafe { witMn witNode (witCmd [1]) with agenda := [] } ∧ ∃ t, step { witMn witNode (witCmd [1]) with agenda := [] } = .next t :=
  ⟨matrixSafe_of _ (by decide), _, rfl⟩
/-- A node at the end of a part of its operation. -/
def witOver (n : Node) : Node := { n with active := true, part := true }
/-- The product of MD0 and bank 1, into bank 0. -/
def witProduct (n : Node) : Product :=
  let a := n.operand 0
  let b := n.operand 1
  { bank := 0, m := 2, n := 2, k := 2, acc := false, mode := 0, split := true, fmt := .fp .fp32, place := fun i j => (i, j),
    getA := fun s r c => fetchElem s 0 a r c, getB := fun s r c => fetchElem s 0 b r c,
    needs := fun blk => a.gridNeeds (32 * blk) (min 32 (2 - 32 * blk)) 0 2 ++ b.gridNeeds 0 2 (32 * blk) (min 32 (2 - 32 * blk)), count := id }
theorem witness_DenseProductsAddTheirBlocks :
    (∀ k ∈ [0, 1, 2], ∀ n ∈ [witNode, witOver witNode],
      let s := witLines n (witCmd [1]) (witAns k)
      let s0 := entered s 0 (witCmd [1])
      s.actor = .engine 0 12 ∧ headCmd s 0 12 = some (witCmd [1]) ∧ endsAs (productBlock (needParts 0 (witProduct n).needs 1 0 s0) (witProduct n) 0) = k ∧
      (getMn s0 0).base = 0 ∧ (getMn s0 0).work = 0 ∧ (getMn s0 0).next = 0 ∧ (getMn s0 0).busy ≤ s.cycle ∧ (getMn s0 0).part = n.part ∧
      engBusy s 0 12 = false) ∧
    MatrixSafe (witLines witNode (witCmd [1]) (witAns 0)) ∧ MatrixSafe (witLines (witOver witNode) (witCmd [1]) (witAns 0)) ∧
    DenseFits witNode (witNode.operand 0) (witNode.operand 1) 0 2 2 2 ∧ Within 0 (dRow witMnTok) (dCol witMnTok) 2 2 :=
  ⟨by decide +kernel, matrixSafe_of _ (by decide), matrixSafe_of _ (by decide), by unfold DenseFits; decide, by unfold Within; decide⟩
/-- Whether reads give these numbers. -/
def counts (r : State × Except EngFault (List Nat)) (ns : List Nat) : Bool := match r.2 with | .ok v => v = ns | .error _ => false
/-- A compressed operand of the matrix scratchpad: its values, its block pointers and its columns, in lines that hold lo, hi and a column. -/
def witSparse (lay : Nat) : BitVec 256 := .ofNat 256 (0x1000 + 0x3000 * 2 ^ 64 + 0x3100 * 2 ^ 128 + 2 ^ 224 + 2 ^ 229 + lay * 2 ^ 231)
def witRp (lo hi : Nat) : Fetch := witLineAt 0x3000 (.got (leBytes 4 lo ++ leBytes 124 hi) 3)
def witCol (c : Nat) : Fetch := witLineAt 0x3100 (.got (leBytes 128 c) 3)
def witCsr (lay : Nat) (fs : List Fetch) : State := witLines { witNode with md := [(0, witSparse lay), (1, witDesc 1 0 1 2 0)] } (witCmd [1]) fs
theorem witCsr_safe (lay : Nat) (fs : List Fetch) : MatrixSafe (witCsr lay fs) := matrixSafe_of _ (by rfl)
theorem witness_SparseAndCooperativeProducts : ∀ lay ∈ [2, 3],
    let s := witCsr lay []
    let a := (getMn s 0).operand 0
    let b := (getMn s 0).operand 1
    s.actor = .engine 0 12 ∧ headCmd s 0 12 = some (witCmd [1]) ∧ (getMn (entered s 0 (witCmd [1])) 0).next = 0 ∧ a.fmt = b.fmt ∧ blockFmt a.fmt = false ∧
    productMode a.fmt = some 0 ∧ a.lay = lay ∧ b.lay < 2 ∧ b.bankNo ≠ 0 ∧ b.badBank (getMn s 0) 8 2 = false ∧ (lay = 3 → a.bsz = 8) ∧ 0 + 8 ≤ 96 ∧
    0 + 2 ≤ bankWidth 0 := by decide +kernel
/-- The turns of a block row: the reads of its pointers, of its columns and of its values. -/
def witRun (lay lo hi : Nat) (c : Nat) : SparseRun :=
  let size := if lay = 3 then 8 else 1
  { brow := 0, first := true, last := true, terms := (List.range (hi - lo)).flatMap fun q => (List.range size).map fun k => (lo + q, c * size + k, k) }
def witReads (lay : Nat) (fs : List Fetch) : (State × Except EngFault (List Nat)) × (State × Except EngFault (List Nat)) × Nat :=
  let s := witCsr lay fs
  let a := (getMn s 0).operand 0
  let b := (getMn s 0).operand 1
  let r1 := mnNats 0 a.sp a.ix 2 a.aux1 (needLines (entered s 0 (witCmd [1])) 0 ((List.range 2).flatMap fun i => needNat a.sp (a.aux1 + i * a.ix) a.ix))
  let r2 := mnNats 0 a.sp a.ix 1 a.aux2 (needLines r1.1 0 (needNat a.sp a.aux2 a.ix))
  let u := witRun lay 0 1 0
  (r1, r2, endsAs (runValues (needParts 0 (fun i => if i = 0 then runNeeds a b (if lay = 3 then 8 else 1) 2 u else []) 1 0 r2.1) 0 a b (if lay = 3 then 8 else 1) 2 u))
theorem witness_SparseAndCooperativeProducts_turns : ∀ lay ∈ [2, 3],
    endsAs (witReads lay []).1 = 1 ∧ endsAs (witReads lay [witLineAt 0x3000 (.fault (.stop 0x187 0x3000))]).1 = 2 ∧
    (∀ p ∈ [(0, 0), (1, 0), (0, 2 ^ 24 + 1), (0, 1)], counts (witReads lay [witRp p.1 p.2]).1 [p.1, p.2] = true) ∧
    endsAs (witReads lay [witRp 0 1]).2.1 = 1 ∧ counts (witReads lay [witRp 0 1, witCol 9]).2.1 [9] = true ∧ 8 / 1 ≤ 9 ∧
    counts (witReads lay [witRp 0 1, witCol 0]).2.1 [0] = true ∧ (witRun lay 0 1 0).terms.length ≤ 32 ∧ (witRun lay 0 0 0).terms = [] ∧
    0 < runWork (if lay = 3 then 8 else 1) 2 (witRun lay 0 1 0) ∧
    (∀ k ∈ [0, 1, 2], (witReads lay ([witRp 0 1, witCol 0] ++ witAns k)).2.2 = k) := by decide +kernel
/-- Sixteen cores whose heads are an MMA.C of 4 × 4 × 2 with COOPID 7, from bank 1 into bank 0; core odd asks for 8 rows, core odd - 100 does not wait yet. -/
def witCoopM (mm : Nat) : Cmd := { witCmd [.ofNat 128 (5 + mm * 2 ^ 8 + 4 * 2 ^ 18 + 2 * 2 ^ 28 + 1 * 2 ^ 50 + 7 * 2 ^ 96)] with unit := 64 }
def witCoop (odd : Nat) (cycle : Nat) : State := { State.reset with
  cores := (List.range 16).map fun k => (k,
    { part := some 0, queues := [(12, { q := [witCoopM (if k = odd then 8 else 4)] })],
      mn := { md := [(0, witDesc 1 0 1 2 0), (1, witDesc 1 0 1 2 0)], coopSince := if k = 0 ∨ k + 100 = odd then none else some 0, active := !(k = 0 : Bool) } }),
  parts := [(0, { used := true })], actor := .engine 0 12, cycle := cycle }
def witCoopTok : MnTok := mnTok (pw (witCoopM 4).packet 0)
theorem witness_SparseAndCooperativeProducts_together :
    (∀ odd ∈ [5, 99], MatrixSafe (witCoop odd 0)) ∧ Begins (witCoop 99 0) 0 (witCoopM 4) ∧ (getMn (witCoop 99 0) 0).matched = false ∧
    coopId (witCoopM 4) = (7 : BitVec 32).toNat ∧ (pw (witCoopM 4).packet 0).toNat % 256 = 5 ∧ tget 0 (getMn (witCoop 99 0) 0).coop 7 = 0 ∧
    coopShape (witCoop 5 0) 5 (witCoopM 8) ≠ coopShape (witCoop 5 0) 0 (witCoopM 4) ∧
    0 < witCoopTok.k.toNat ∧ 0 < witCoopTok.m.toNat / 4 ∧ Within 0 0 0 1 1 ∧ coopWaiting (witCoop 101 0) 1 = none ∧
    (getMn (witCoop 99 (2 ^ 20)) 1).coopSince = some 0 ∧ 0 + 2 ^ 20 ≤ (witCoop 99 (2 ^ 20)).cycle := by
  refine ⟨?_, by unfold Begins Commanded; decide +kernel, by unfold Within; decide +kernel⟩
  intro odd h; exact matrixSafe_of _ (by revert odd; decide)
theorem witness_SparseAndCooperativeProducts_partners : ∀ odd ∈ [5, 99], ∀ k < 16,
    let n := getMn (witCoop odd 0) k
    headCmd (witCoop odd 0) k 12 = some (witCoopM (if k = odd then 8 else 4)) ∧ coopId (witCoopM (if k = odd then 8 else 4)) = 7 ∧
    tget 0 n.coop 7 = 0 ∧ (k ≠ 0 → coopWaiting (witCoop odd 0) k = some (witCoopM (if k = odd then 8 else 4)) ∧ n.active = true ∧ n.next = 0 ∧
      n.part = false ∧ n.base = 0 ∧ n.work = 0 ∧ n.opFlags = 0 ∧ n.opBytes = 0) := by decide +kernel
theorem witness_SparseAndCooperativeProducts_operands : ∀ k < 16,
    coopShape (witCoop 99 0) k (witCoopM 4) = coopShape (witCoop 99 0) 0 (witCoopM 4) ∧
    ((getMn (witCoop 99 0) k).operand witCoopTok.mda).sp = 2 ∧ ((getMn (witCoop 99 0) k).operand witCoopTok.mdb).sp = 2 ∧
    DenseFits (getMn (witCoop 99 0) k) ((getMn (witCoop 99 0) k).operand witCoopTok.mda) ((getMn (witCoop 99 0) k).operand witCoopTok.mdb) 0 4 4 2 := by
  unfold DenseFits; decide +kernel
/-- A core that goes on with its part of the cooperative product. -/
def witMatched (n : Node) (k : Nat) : State := witLines { n with matched := true, active := true } (witCoopM 4) (witAns k)
theorem witness_SparseAndCooperativeProducts_matched : ∀ k ∈ [0, 1, 2], ∀ n ∈ [witNode, witOver witNode],
    let s := witMatched n k
    let p : Product := { witProduct n with m := 1, n := 1 }
    s.actor = .engine 0 12 ∧ headCmd s 0 12 = some (witCoopM 4) ∧ mnTok (pw (witCoopM 4).packet 0) = witCoopTok ∧
    (getMn (entered s 0 (witCoopM 4)) 0).matched = true ∧ endsAs (productBlock (needParts 0 p.needs 1 0 (entered s 0 (witCoopM 4))) p 0) = k ∧
    (getMn s 0).busy ≤ s.cycle ∧ (getMn s 0).part = n.part := by decide +kernel
/-- MD5 is an FP32 matrix of the matrix scratchpad stored by columns, MD6 one without a pitch, MD7 one at addresses that nothing maps. -/
def witOpsN : Node := { witNode with md := witNode.md ++ [(5, witDesc 0x5000 64 1 1 1), (6, witDesc 0x6000 0 1 1 0), (7, witDesc 0x200000 64 1 1 0)] }
def witOps (k : Nat) : State := witLines witOpsN (witCmd [1]) (witAns k)
theorem witOps_safe (k : Nat) : MatrixSafe (witOps k) := matrixSafe_of _ (by rfl)
theorem witOps_begins : Begins (witOps 0) 0 (witCmd [1]) := by unfold Begins Commanded; decide +kernel
/-- A state in which an operation of the node is at the end of its part. -/
theorem witOps_over : PartOver (witLines (witOver witOpsN) (witCmd [1]) (witAns 0)) 0 ∧ Commanded (witLines (witOver witOpsN) (witCmd [1]) (witAns 0)) 0 12 (witCmd [1]) := by
  unfold PartOver Commanded; decide +kernel
/-- A grid of an operand's elements, read once its lines have been asked for. -/
def witGrid (o : Operand) (flip : Bool) (w h : Nat) : State → State × Except EngFault (List (List Num.Val) × Num.Flags) :=
  fetchGrid (fun s r c => if flip then fetchElem s 0 o c r else fetchElem s 0 o r c) 0 w h 0
theorem witness_SoftmaxScanAndEpilogue :
    let n := witOpsN
    Within (n.mode 0) 0 0 8 2 ∧ n.mode 0 = 0 ∧ n.mode 1 = 0 ∧ epiFault n 0 (epiOf witMnTok) = false ∧
    (n.operand 0).fmt = .fp .fp32 ∧ (n.operand 1).fmt = .fp .fp32 ∧ (n.operand 2).fmt = .fp .fp32 ∧ (n.operand 0).lay < 2 ∧ (n.operand 1).lay < 2 ∧
    (n.operand 1).bankNo ≠ 0 ∧ (n.operand 1).badBank n 8 2 = false ∧ (n.operand 1).badBank n 2 2 = false ∧ (n.operand 0).sp ≠ 2 ∧ (n.operand 2).sp ≠ 2 ∧
    DenseFits n (n.operand 0) (n.operand 2) 0 8 2 2 ∧ witMnTok.opf.toNat % 256 = 0 ∧
    ∀ k ∈ [0, 1, 2],
      let s0 := entered (witOps k) 0 (witCmd [1])
      let a := n.operand 0
      let b := n.operand 2
      endsAs (fetchPair (witGrid a true 8 2) (witGrid b true 8 2) (needLines s0 0 (a.gridNeeds 0 2 0 8 ++ b.gridNeeds 0 2 0 8))) = k ∧
      endsAs (fetchPair (witGrid a false 2 8) (witGrid b true 2 2) (needLines s0 0 (a.gridNeeds 0 2 0 8 ++ b.gridNeeds 0 2 0 2))) = k ∧
      endsAs (witGrid b true 2 2 (needParts 0 (fun _ => b.gridNeeds 0 2 0 2) 1 0 s0)) = k := by unfold Within DenseFits; decide +kernel
/-- The node with its position behind the last row, and with a store that has not been acknowledged. -/
def witStored (busy : Bool) : State := { witLines { witOpsN with active := true, next := 2 } (witCmd [1]) [] with
  reqs := if busy then [(0, { witR .store (witPart (.mpad 0) 0x400000001000 8 (.travelling 0)) with unit := engUnit 12, update := true, posted := true })] else [] }
/-- The writes of row 0 of a 2 × 2 store, and what the node says of issuing the first. -/
def witRow (x : Operand) (cols : Nat) : List MnWrite := (rowWrites x 0 (storeRm witMnTok) 0 0 0 (epiRow witOpsN witMnTok 0 cols { sr := 1 }).1 (epiRow witOpsN witMnTok 0 cols { sr := 1 }).2).1
theorem witness_LoadsStoresAndBankOperations :
    let n := witOpsN
    let x := n.operand 2
    loadMode (n.operand 0).fmt = some (n.mode 0) ∧ (n.operand 0).lay < 2 ∧ (n.operand 0).sp ≠ 2 ∧ Within (n.mode 0) 0 0 8 8 ∧
    (∀ k ∈ [0, 1, 2], endsAs (witGrid (n.operand 0) false 2 2 (needLines (entered (witOps k) 0 (witCmd [1])) 0 ((n.operand 0).gridNeeds 0 2 0 2))) = k) ∧
    storeAllowed (n.mode 0) x.fmt = true ∧ epiFault n 0 (epiOf witMnTok) = false ∧ x.sp ≠ 2 ∧ x.lay < 2 ∧ blockFmt x.fmt = false ∧ n.mode 0 = 0 ∧
    runLength x.fmt 2 ≤ x.pitch ∧ dxStray (witOps 0) 0 x 2 2 0 0 = false ∧ x.sp < 2 ∧ x.base % 64 = 0 ∧ n.mode 0 = n.mode 1 ∧ storeRm witMnTok ≠ .sr ∧ epiOf witMnTok = 0 := by
  unfold Within; decide +kernel
theorem witness_LoadsStoresAndBankOperations_rows :
    (∀ b ∈ [true, false], engBusy (witStored b) 0 12 = b ∧ (getMn (entered (witStored b) 0 (witCmd [1])) 0).next = 2) ∧
    (firstStore (witRow (witOpsN.operand 2) 2)).isSome = true ∧
    (((firstStore (witRow (witOpsN.operand 2) 2)).map fun p => (mnStore (entered (witOps 0) 0 (witCmd [1])) 0 1 p.1).2.isNone) = some true) ∧
    (((firstStore (witRow (witOpsN.operand 7) 1)).map fun p => (p.2, match (mnStore (entered (witOps 0) 0 (witCmd [1])) 0 1 p.1).2 with | some (.stop _ _) => true | _ => false))
      = some (1, true)) ∧
    (mnStore (entered (witOps 0) 0 (witCmd [1])) 0 1 { va := 0x2000, bytes := statusBlock witOpsN }).2.isNone = true ∧
    (let x := witOpsN.operand 6
     let img := groupImage (groupSegments witOpsN witMnTok x.fmt 8 8 0 { sr := 1 }).1
     x.fmt = .fp .fp32 ∧ x.lay = 0 ∧ x.pitch = 0 ∧ x.base % 32 = 0 ∧ 8 * x.eb % 32 = 0 ∧ 0 < img.length ∧ img.length ≤ 3 * 32 ∧ witOpsN.opBytes = 0) := by
  decide +kernel
theorem witness_ResidentTileOperations :
    let n := witOpsN
    feedMode (n.operand 0).fmt = some (n.mode 0) ∧ n.mode 0 = 0 ∧ n.mode 1 = 0 ∧ Within 0 0 0 2 2 ∧ (n.operand 0).lay < 2 ∧ (n.operand 0).sp ≠ 2 ∧
    (∀ k ∈ [0, 1, 2],
      let s0 := entered (witOps k) 0 (witCmd [1])
      endsAs (witGrid (n.operand 0) true 2 2 (needLines (setMn s0 0 (((getMn s0 0).latch 0 2 (2 * cellBytes 0)).begin 0x14)) 0 ((n.operand 0).gridNeeds 0 2 0 2))) = k) ∧
    (∀ next ∈ [0, 1, 2], (getMn (entered (witLines { witOver witOpsN with next := next } (witCmd [1]) []) 0 (witCmd [1])) 0).next = next ∧
      PartOver (witLines { witOver witOpsN with next := next } (witCmd [1]) []) 0) ∧
    0 < (0x10 : Nat) / 2 ^ 4 % 16 ∧ (getMn (entered (witOps 0) 0 (witCmd [1])) 0).part = false := by unfold Within PartOver; decide +kernel
/-- A node whose bank 0 holds the 1 × 1 matrix x, with its lines. -/
def witTileN (x : Nat) : Node :=
  { md := [(0, witDesc 0x1000 64 1 1 0)], acc0 := (leBytes 4 x).zipIdx.map (fun e => (e.2, e.1)) |>.filter (fun e => e.2 ≠ 0) }
def witTile (x : Nat) (stop : Nat) (cause : Cause) : State := witMn { witTileN x with stopped := stop, cause := cause } (witCmd [0x11])
def witIter (o : Nat) : MnTok := { witMnTok with m := 1, n := 1, mdb := 0, mdc := 0, opf := .ofNat 64 o }
/-- The residual of X·Xᵀ − I for X = (x). -/
def witRes (x : Nat) : Num.Val := (residual false [(add32 (chainDot true posZero [val32 x] [val32 x] {}).1 (unitVal 0 0).negate {}).1] {}).1
theorem witness_IterationsConvergeStopAndResume :
    (∀ x ∈ [0x3F800000, 0x40000000, 0x7FC00000], (witTile x 0 0).actor = .engine 0 12 ∧ headCmd (witTile x 0 0) 0 12 = some (witCmd [0x11]) ∧
      (getMn (witTile x 0 0) 0).active = false ∧ (getMn (witTile x 0 0) 0).mode 0 = 0 ∧ (getMn (witTile x 0 0) 0).val 0 0 0 = val32 x) ∧
    Within 0 0 0 1 1 ∧ (iterTok (witIter 0)).cont = false ∧
    ((witRes 0x3F800000).isNaN = false ∧ witRes 0x3F800000 ≠ .inf false ∧ withinTol (val32 (bits32 (witRes 0x3F800000) % 2 ^ 32)) (iterTok (witIter 0)).tol = true) ∧
    ((witRes 0x40000000).isNaN = false ∧ witRes 0x40000000 ≠ .inf false ∧ withinTol (val32 (bits32 (witRes 0x40000000) % 2 ^ 32)) (iterTok (witIter 0)).tol = false) ∧
    (witRes 0x7FC00000).isNaN = true ∧
    (∀ p ∈ [(1, 0x187), (2, 0x191), (2, 0x190), (3, 0x182)], headCmd (witTile 0 p.1 p.2) 0 12 = some (witCmd [0x11]) ∧ (getMn (witTile 0 p.1 p.2) 0).stopped = p.1 ∧
      (getMn (witTile 0 p.1 p.2) 0).cause = p.2) ∧ iterToken (witCmd [0x11]) = true := by unfold Within; decide +kernel
/-- A running form at its test of the tolerance, in PHASE 0 after a residual of 1, and in PHASE 1. -/
def witRunning (tol : Bool) (phase : Nat) : State :=
  witMn { witTileN 0x40000000 with active := true, next := 1, tolerance := tol, part := !tol, itstat := .ofNat 32 (0x11000100 + phase), itres := 0x3F800000 } (witCmd [0x11])
theorem witness_IterationsConvergeStopAndResume_phases :
    (getMn (witRunning true 0) 0).tolerance = true ∧ (getMn (witRunning true 0) 0).next ≠ 0 ∧ (getMn (witRunning false 0) 0).stat 1 0 = 0 ∧
    (getMn (witRunning false 1) 0).stat 1 0 ≠ 0 ∧ (∀ p ∈ [0, 1], PartOver (witRunning false p) 0) ∧
    Num.lt (val32 0x3F800000) (witRes 0x40000000) = true ∧ (iterTok (witIter (2 ^ 7))).divw ≠ 0 ∧ (iterTok (witIter (2 ^ 7))).divw ≤ 1 := by unfold PartOver; decide +kernel
/-- The residual of the next X of MITER.GEN over the old, for X = (x), B = C = (0) and coefficients of zero. -/
def witGenRes (x : Nat) : Num.Val :=
  let y := (sumTerms [(posZero, val32 x), (posZero, (chainDot true posZero [val32 x] [val32 0] {}).1), (posZero, val32 0)] {}).1
  (residual false [(add32 y (val32 x).negate {}).1] {}).1
theorem witness_IterationsConvergeStopAndResume_general :
    (∀ x ∈ [0, 0x3F800000, 0x7FC00000], ∀ k ∈ [0, 1, 2],
      let s := witLines (witTileN x) (witCmd [0x11]) (witAns k)
      let s0 := entered s 0 (witCmd [0x11])
      let s1 := setMn s0 0 (iterBegin (getMn s0 0) (witIter (2 ^ 16)) 0x12)
      let o := (getMn s0 0).operand 0
      o.fmt = .fp .fp32 ∧ o.lay < 2 ∧ o.sp ≠ 2 ∧
      endsAs (fetchPair (witGrid o true 1 1) (witGrid o false 1 1) (needLines s1 0 (o.gridNeeds 0 1 0 1 ++ o.gridNeeds 0 1 0 1))) = k) ∧
    (iterTok (witIter (2 ^ 16))).cap = 1 ∧ (iterTok (witIter (2 ^ 16))).dtrap = false ∧
    ((witGenRes 0).isNaN = false ∧ witGenRes 0 ≠ .inf false ∧ withinTol (witGenRes 0) (val32 0) = true) ∧
    ((witGenRes 0x3F800000).isNaN = false ∧ witGenRes 0x3F800000 ≠ .inf false ∧ withinTol (witGenRes 0x3F800000) (val32 0) = false) ∧
    (witGenRes 0x7FC00000).isNaN = true := by decide +kernel

/-! ### Ports, barriers and peers -/

/-- A memory-port command at the head of port 0's queue, entry 0 valid, in a partition that owns the core. -/
def witPortS (dirty : Option (Nat × Nat)) (reqs : Tbl Req) : State :=
  let port : Port := { wins := [(0, witWin)], dirty := dirty.toList.map fun d => (0, some d), repairs := [(0, { state := 1, req := 3, va := 0x200000, n := 8 })] }
  { State.reset with
    cores := [(0, { part := some 0, ports := [(0, port)], queues := [(8, { q := [witCmd [1]] })] })],
    reqs := reqs, parts := [(0, { used := true, cores := [0], units := [0], logBase := 0x10000 })], actor := .engine 0 8 }
/-- WSET words of an entry at a virtual and a physical address, and of 64 KiB unless it has no size. -/
def witW1 (v : Nat) : Quad := .ofNat 128 (0x420000000000 * 2 ^ 64 + v)
def witW2 (valid size : Nat) : Quad := .ofNat 128 (valid * 2 ^ 57 + size)
def witBusyReq : Req := { witR .store { witPart (.cpad 0) 0 8 (.travelling 0) with win := some (0, 0) } with update := true }
theorem witness_MemoryPortCommands :
    Commanded (witPortS none []) 0 8 (witCmd [1]) ∧ winBusy (witPortS none []) 0 0 0 = false ∧ tget none ((getCore (witPortS none []) 0).port 0).dirty 0 = none ∧
    winRefusal (clearWin (witPortS none []) 0 0 0) 0 0 (winOf (witW1 0) (witW2 1 0x10000)) = none ∧ (winOf (witW1 0) (witW2 1 0x10000)).valid = true ∧
    winRefusal (clearWin (witPortS none []) 0 0 0) 0 0 (winOf (witW1 8) (witW2 1 0x10000)) = some 0x0A2 ∧ (winOf (witW1 8) (witW2 1 0x10000)).vbase % 16 ≠ 0 ∧
    (winOf (witW1 0) (witW2 1 0)).size = 0 ∧ (winOf (witW1 0) (witW2 0 0x10000)).valid = false ∧
    winBusy (witPortS none [(0, witBusyReq)]) 0 0 0 = true ∧
    Safe (witPortS (some (0x100, 0x1FF)) []) ∧ tget none ((getCore (witPortS (some (0x100, 0x1FF)) []) 0).port 0).dirty 0 = some (0x100, 0x1FF) ∧
    winBusy (witPortS (some (0x100, 0x1FF)) []) 0 0 0 = false ∧
    (getPart (witPortS (some (0x100, 0x1FF)) []) 0).logTail - (getPart (witPortS (some (0x100, 0x1FF)) []) 0).logHead < 2 ^ (getPart (witPortS (some (0x100, 0x1FF)) []) 0).logK ∧
    (tget {} ((getCore (witPortS none []) 0).port 0).repairs 1 : Repair).state ≠ 1 := by unfold Commanded Safe; decide +kernel
/-- A repair entry's store to an address outside every entry, or within one that may not be written. -/
def witRelS (va : Nat) : State :=
  let port : Port := { wins := [(0, { witWin with wr := false })], repairs := [(0, { state := 1, req := 3, va := va, n := 8 })] }
  { witPortS none [(3, witBusyReq)] with cores := [(0, { part := some 0, ports := [(0, port)], queues := [(8, { q := [witCmd [1]] })] })] }
theorem witness_MemoryPortCommands_release :
    (∀ va ∈ [0x200000, 0x100], Commanded (witRelS va) 0 8 (witCmd [1]) ∧ (tget {} ((getCore (witRelS va) 0).port 0).repairs 0 : Repair).state = 1 ∧
      tfind (witRelS va).reqs 3 = some witBusyReq) ∧
    walkCycles (witRelS 0x200000) 0 0x200000 (MemOp.use .store) ≠ 0 ∧ walkCycles (witRelS 0x100) 0 0x100 (MemOp.use .store) = 0 ∧
    (match lookUp (witRelS 0x100) 0 0x100 8 (MemOp.use .store) with | .fault p c => decide (p = 0 ∧ c = 0x091) | .ok _ => false) = true := by
  unfold Commanded; decide +kernel

/-- A barrier of core 1 with a count of 4, 3 arrived, in phase 5; a command of core 0 about it. -/
def witBarS (b : Barrier) (m : Cmd) : State := { State.reset with
  cores := [(0, { part := some 0, queues := [(20, { q := [m] })], elems := [(0, elemWith [])] }), (1, { part := some 0, bars := [(3, b)] })],
  parts := [(0, { used := true, ring := some (0x1000, 6) })], actor := .engine 0 20 }
def witBar (n : Nat) : Barrier := { expected := n, arrived := 3, phase := 5 }
theorem witness_BarrierHostAndPeerCommands :
    (∀ n ∈ [0, 4, 8], Commanded (witBarS (witBar n) (witCmd [1])) 0 20 (witCmd [1]) ∧ ((getCore (witBarS (witBar n) (witCmd [1])) 1).bar 3) = witBar n) ∧
    (witCmd [1]).updates = [] ∧ 3 + (1 : BitVec 12).toNat = 4 ∧ ({ witCmd [1] with updates := [(9, 0)] } : Cmd).updates ≠ [] ∧
    Commanded (witBarS (witBar 4) { witCmd [1] with updates := [(9, 0)] }) 0 20 { witCmd [1] with updates := [(9, 0)] } ∧
    phasePassed 5 4 = true ∧ phasePassed 5 5 = false ∧ Safe (witBarS (witBar 4) (witCmd [1])) ∧
    (getPart (witBarS (witBar 4) (witCmd [1])) 0).ring = some (0x1000, 6) ∧ writesDone (witBarS (witBar 4) (witCmd [1])) 0 (witCmd [1]).joined = true ∧
    (getPart (witBarS (witBar 4) (witCmd [1])) 0).ringSeq - (getPart (witBarS (witBar 4) (witCmd [1])) 0).ringFreed < 2 ^ 6 ∧
    writesDone { witBarS (witBar 4) (witCmd [1]) with reqs := [(0, { witBusyReq with core := 0 })], nextReq := 1 } 0 1 = false ∧
    ([7] : List Quad) ≠ [] ∧ (∀ r ∈ (witBarS (witBar 4) (witCmd [1])).reqs, r.2.core = 0 → r.2.unit ≠ peerUnit) ∧
    (∃ r ∈ [(0, { witBusyReq with unit := peerUnit })], r.2.core = 0 ∧ r.2.unit = peerUnit) ∧ ({ ring := some (0, 0), ringSeq := 1 } : Partition).ringRoom = false := by
  unfold Commanded Safe; decide +kernel

/-! ### The scheduler, the kerf and rewires -/

/-- A launch of one core in a partition of two, in some stage, placed on core 1 or on none. -/
def witSched (x : Launch) (p : Partition) : State := { State.reset with
  launches := [(1, x)], parts := [(0, { p with used := true, cores := [0, 1], units := [0] })],
  cores := [(0, { part := some 0 }), (1, { part := some 0, launch := if x.cores = [1] then some 1 else none, elems := if x.stage = .ready ∧ x.placed then [(0, {}), (64, {})] else [] })] }
def placed? (r : Placed) (p : State → Bool) : Bool := match r with | .ok s => p s | .error _ => false
theorem witness_SchedulerMovesLaunches :
    (let s := witSched { object := witObject, stage := .waiting } {}
     (getLaunch s 1).stage = .waiting ∧ rd witObject (launchOff witObject + 0xA) 1 = 0) ∧
    (∀ q < 64, candidates (witSched { object := witObject, stage := .waiting } {}) q = []) ∧
    (let s := witSched { object := witObject, stage := .ready } { rem := 9 }
     serviceOrder s = [0] ∧ 0 < (getPart s 0).rem ∧ candidates s 0 = [1] ∧ (getLaunch s 1).part = 0 ∧ (getLaunch s 1).stage = .ready ∧
      (fitCores witObject (launchCores s 0)).isSome = true ∧ fitCores witObject (freeCores s 0) = some [1] ∧
      placed? (placeLaunch s 1 [1]) (fun t => 0 < (getPart t 0).rem) = true) ∧
    (let s := witSched { object := witObject, stage := .ready, placed := true, cores := [1] } {}
     (getLaunch s 1).stage = .ready ∧ (getLaunch s 1).placed = true ∧ (getLaunch s 1).ran = false ∧ (getLaunch s 1).cores.Nodup ∧
      (tfind (getCore s 1).elems 0).isSome = true) ∧
    (let s := witSched { object := witObject, stage := .draining, cores := [1] } {}
     (getLaunch s 1).stage = .draining ∧ drained s (getLaunch s 1) = true ∧ (∀ k ∈ (getLaunch s 1).cores, (getCore s k).elems = []) ∧
      0 < rd witObject (launchOff witObject + 0xB) 1 ∧ (getCtl s (getPart s 0).lead).sleep = none ∧ (∀ k ∈ (getLaunch s 1).cores, k ≠ (getPart s 0).lead)) ∧
    (∀ budget ∈ [0, 5], ∀ p ∈ [({ rem := 0 } : Partition), { rem := 7 }],
      let s := witSched { object := witObject, stage := .running, cores := [1], budget := budget, charged := 8 } p
      (getLaunch s 1).part = 0 ∧ (getLaunch s 1).stage = .running ∧ (getLaunch s 1).kerf = none ∧ (getLaunch s 1).rewire = none ∧ (getLaunch s 1).broke = false ∧
      (p.rem = 0 → (getPart s 0).canBorrow = false ∧ 4 * (getPart s 0).q < (getPart s 0).debt + 1)) := by
  decide +kernel

/-- A launch of core 1 in a kerf; fe(0,0) and its control element, in a run state. -/
def witKerf (run : Nat) (c : Core) (e : Edge) : State := { State.reset with
  launches := [(1, { object := witObject, stage := .running, cores := [1], kerf := some { begun := 0, status := 0x31A } })], parts := [(0, { used := true, cores := [0, 1] })],
  cores := [(0, { part := some 0 }), (1, { c with part := some 0, launch := some 1, elems := [(0, (elemWith []).setRun run), (64, (elemWith []).setRun run)] })], edges := [e] }
def witMark (m : Bool) : Edge := { src := .eng 1 0, dst := .elem 1 0 0, launch := 1, gated := true, marker := m }
def witSaved : Core := { part := some 0, engSaved := savingPorts }
def witImage : State := { witSched { object := witObject, stage := .suspended, imaged := true, saved := [(0, {})] } {} with cores := [(0, { part := some 0 }), (1, { part := some 0 })] }
/-- Core 1 with its node in some operation, in a kerf. -/
def witCut (n : Node) (packet : List Quad) : State :=
  { witKerf 1 { mn := n, queues := [(12, { q := [witCmd packet] })] } (witMark false) with actor := .none }
theorem witness_KerfFreezesCutsAndRestores :
    findEdge (witKerf 1 {} (witMark true)) (.eng 1 0) = some (witMark true) ∧
    (∀ run ∈ [1, 2], let s := witKerf run {} (witMark false)
     (getCore s 1).launch = some 1 ∧ (getLaunch s 1).kerf.isSome = true ∧ (Machine.getElem s ⟨1, 0⟩).run = run ∧ (Machine.getElem s ⟨1, 0⟩).flights = [] ∧
      (∀ e ∈ s.edges, e.gated = true ∧ e.marker = false) ∧ cloneSettled s (getLaunch s 1) ⟨1, 0⟩ = true) ∧
    (let s := witKerf 1 {} (witMark false)
     (Machine.getElem s ⟨1, ceIx⟩).run = 1 ∧ (Machine.getElem s ⟨1, ceIx⟩).flights = [] ∧ (getCtl s 1).own = none ∧ (∀ p ∈ savingPorts, p ∉ (getCore s 1).engSaved) ∧
      midReply s 1 = false ∧ (∀ w ∈ (getCore s 1).walks, w.2.waiting = 0)) ∧
    (let s := witKerf 1 { walks := [(0, { witW with waiting := 3 }), (1, { witW with waiting := 5 })] } (witMark false)
     midReply s 1 = false ∧ ∀ w ∈ (getCore s 1).walks, (w.2.waiting = 3 ∨ w.2.waiting = 5) ∧ w.2.rmode = false) := by decide +kernel
theorem witness_KerfFreezesCutsAndRestores_node :
    (∀ n ∈ [({} : Node), { active := true, stopped := 2 }, { active := true }], (getMn (witCut n [1]) 1).matched = false ∧ headCmd (witCut n [1]) 1 12 = some (witCmd [1]) ∧
      12 ∉ (getCore (witCut n [1]) 1).engSaved ∧ (n.active = false ∨ n.stopped ≠ 0 ∨ (n.part = false ∧ n.tolerance = false))) ∧
    (∀ n ∈ [({ active := true, part := true } : Node), { active := true, tolerance := true }], (getMn (witCut n [0x11]) 1).active = true ∧
      (getMn (witCut n [0x11]) 1).stopped = 0 ∧ (n.part = true ∨ n.tolerance = true)) ∧
    ((pw (witCmd [1]).packet 0).toNat % 256 = 1 ∧ (pw (witCmd [6]).packet 0).toNat % 256 = 6) := by decide +kernel
theorem witness_KerfFreezesCutsAndRestores_cut :
    (let s := witKerf 3 witSaved (witMark false)
     (getLaunch s 1).kerf = some { begun := 0, status := 0x31A } ∧ (getLaunch s 1).cores.Nodup ∧
      (∀ k ∈ (getLaunch s 1).cores, (∀ e ∈ (getCore s k).elems, e.2.run = 3) ∧ (∀ p ∈ savingPorts, p ∈ (getCore s k).engSaved) ∧ (∀ c ∈ (getCore s k).comps, c.2 = []) ∧
        (getEng s k fabricPort).state = 0) ∧
      (∀ e ∈ s.edges, e.launch = 1 → e.gated = true ∧ e.marker = false) ∧ asksElsewhere s 1 (getLaunch s 1) = false ∧ s.reqs = []) ∧
    mayStay { witBusyReq with sink := .word none, op := .load } = true ∧
    ((getLaunch witImage 1).stage = .suspended ∧ (getLaunch witImage 1).held = false ∧ (getLaunch witImage 1).broke = false ∧ (getLaunch witImage 1).imaged = true ∧
      fitCores witObject (freeCores witImage 0) = some [1] ∧ (reserveAgain witImage 1 [1]).isSome = true) := by decide +kernel

theorem witness_KerfFreezesCutsAndRestores_save (s : State) (h : s.slices = []) (x : Launch) : saveLost s x = false := by
  unfold saveLost
  exact List.any_eq_false.2 fun n _ => by unfold getSlice; rw [h]; exact Bool.false_ne_true
/-- An object with a graph of two one-element operators and a launch record; its operators at fe(0,1) and fe(0,2) of core 1, fed by
fe(0,0) and feeding fe(0,3). -/
def witGraph : List Byte :=
  leBytes 12 0 ++ leBytes 4 2 ++ leBytes 8 32 ++ leBytes 8 0 ++
  (leBytes 4 1 ++ leBytes 4 2 ++ leBytes 8 96 ++ leBytes 8 32 ++ leBytes 4 16 ++ leBytes 4 0) ++
  (leBytes 4 8 ++ leBytes 4 1 ++ leBytes 8 128 ++ leBytes 8 256 ++ leBytes 4 256 ++ leBytes 4 0) ++
  (leBytes 8 0 ++ leBytes 8 1) ++ (leBytes 8 0 ++ leBytes 8 1) ++
  (leBytes 6 0 ++ leBytes 1 2 ++ leBytes 4 0 ++ leBytes 1 8 ++ leBytes 88 0 ++ leBytes 4 1 ++ leBytes 152 0)
def witRewS (ops : List Op) (rw : Option Rewire) (run : Nat) (gated : Bool) : State := { State.reset with
  launches := [(1, { object := witGraph, stage := .running, cores := [1], ops := ops, rewire := rw })], parts := [(0, { used := true, cores := [0, 1] })],
  cores := [(0, { part := some 0 }), (1, { part := some 0, launch := some 1, elems := [0, 1, 2, 3, 4, 5].map fun i => (i, (elemWith []).setRun run) })],
  edges := [0, 1, 2].map fun i => { src := .elem 1 i 0, dst := .elem 1 (i + 1) 0, launch := 1, gated := gated } }
def witOps2 : List Op := [{ host := (0, 1) }, { host := (0, 2) }]
/-- A clone of operator 0, its dealer at fe(0,1), its joiner at fe(0,3); a fold of operators 0 and 1. -/
def witCloned : List Op := [{ mode := 1, nrep := 2, host := (0, 2), dealer := some (0, 1), joiner := some (0, 3), reps := [(0, 4)] }]
def witFolded : List Op := [{ mode := 2, host := (0, 1), partner := some 1 }, { mode := 2, host := (0, 1), partner := some 0, upper := true, bases := [1, 0, 1, 0, 0, 1, 1] }]
def witRw (k : Nat) : Rewire := match k with
  | 1 => { kind := 1, opa := 0, repl := 2, drun := 1, asker := none } | 3 => { kind := 3, opa := 0, opb := 1, asker := none } | k => { kind := k, opa := 0, asker := none }
def witRwOps (k : Nat) : List Op := match k with | 2 => witCloned | 4 => witFolded | _ => witOps2
theorem witness_RewiresGateMoveAndRepoint :
    (∀ k ∈ [1, 2, 3, 4], let s := witRewS (witRwOps k) none 1 false
      rewireMalformed (getLaunch s 1) (witRw k) = false ∧ (getLaunch s 1).stage = .running ∧ (getLaunch s 1).kerf = none ∧ rewireReason s (getLaunch s 1) (witRw k) = none) ∧
    rewireMalformed (getLaunch (witRewS witOps2 none 1 false) 1) { witRw 2 with opa := 7 } = true ∧
    rewireReason (witRewS witOps2 none 1 false) (getLaunch (witRewS witOps2 none 1 false) 1) (witRw 2) = some 6 ∧
    (getLaunch (witRewS witOps2 (some (witRw 3)) 1 false) 1).rewire.isSome = true ∧
    (let s := witRewS witOps2 (some { witRw 3 with els := [(0, 1), (0, 2)], gated := true }) 1 true
     (getCore s 1).launch = some 1 ∧ (getLaunch s 1).unit (0, 1) = ⟨1, 1⟩ ∧ (Machine.getElem s ⟨1, 1⟩).run = 1 ∧ (Machine.getElem s ⟨1, 1⟩).flights = [] ∧
      (∀ e ∈ s.edges, e.gated = true ∧ e.marker = false) ∧ ∀ k ∈ [2, 3], (witRw k).kind ≠ 2 ∨ ((getLaunch s 1).op (witRw k).opa).between = []) ∧
    (∀ k ∈ [1, 2, 3, 4], let s0 := witRewS (witRwOps k) none 1 false
      let r := { witRw k with els := rewired (getLaunch s0 1) (witRw k), gated := true }
      let s := witRewS (witRwOps k) (some r) 3 true
      (getLaunch s 1).rewire = some r ∧ r.gated = true ∧ (∀ c ∈ r.els, (Machine.getElem s ((getLaunch s 1).unit c)).run = 3) ∧ (moveRewire s 1 r).isSome = true) := by
  decide +kernel

/-! ### The root, the host and service -/

/-- The smallest object: an empty graph, one code word, and a launch record of one core under policy 5, with its digest. -/
def witLoadable (digest : List Byte) : List Byte :=
  let sec (ty count off size entsz : Nat) : List Byte := leBytes 4 ty ++ leBytes 4 count ++ leBytes 8 off ++ leBytes 8 size ++ leBytes 4 entsz ++ leBytes 4 0
  leBytes 4 0x1A4F5850 ++ leBytes 4 1 ++ leBytes 4 0 ++ leBytes 4 5 ++ leBytes 8 64 ++ leBytes 8 1280 ++ leBytes 4 0x00090001 ++ leBytes 28 0 ++
  sec 1 0 224 0 48 ++ sec 2 0 224 0 0 ++ sec 4 0 224 0 16 ++ sec 3 1 224 32 0 ++ sec 8 1 256 1024 1024 ++
  (leBytes 8 0 ++ leBytes 8 1 ++ leBytes 16 0xCC000) ++
  (leBytes 4 0x48434E4C ++ leBytes 2 1 ++ leBytes 1 2 ++ leBytes 5 0x0800000000 ++ leBytes 4 1 ++ leBytes 4 3 ++ leBytes 12 0 ++ leBytes 8 5 ++ leBytes 24 0 ++
    leBytes 32 (2 ^ 32) ++ leBytes 32 (1 + 256 + 2 ^ 32) ++ leBytes 192 0 ++ digest ++ leBytes 640 0)
def witDigest : List Byte := leBytes 64 9812732461154050949447142403364154939598197891191414879206586132905343890785931768058062559888436056845670269713595878681423425381986507497703466970237044
def witObj : List Byte := witLoadable witDigest
/-- A policy block that lists the object's digest, allows every flag, and has quotas of its own; its signature is zeros. -/
def witPol (flags maxq : Nat) : List Byte :=
  leBytes 4 1 ++ leBytes 4 128 ++ leBytes 40 0 ++ (leBytes 4 1 ++ leBytes 2 1 ++ leBytes 2 0 ++ leBytes 4 flags ++ leBytes 4 maxq ++ leBytes 4 100 ++ leBytes 4 8 ++ leBytes 40 0 ++ witDigest) ++
  List.replicate 3309 0
def witC (session : Nat) : RootCmd := { session := session, seq := 5, auth := true }
def witRoot (flags maxq : Nat) (x : Launch) (p : Partition) : State := { State.reset with
  root := { stage := 3, featack := 0x109, sessions := [(0, 0), (7, 4)], nextHandle := 20, policies := [(5, { session := 7, block := witPol flags maxq })],
            objects := [(9, { session := 7, object := witObj })] },
  launches := [(11, { x with session := 7 })], parts := [(0, { p with used := true, policy := 5, handle := 13 })] }
def witSpec : CreateSpec :=
  { policy := 5, cores := [4, 5], lead := 4, secure := true, channel := 2, reply := 3, units := [3], ptroot := 0x10000, keyix := 0, logBase := 0x20000, logK := 8 }
/-- The object loads: its checks pass, and its digest, found here by the machine's own SHAKE256, is the one it carries. -/
theorem witness_RootCommandsAnswer_load :
    objectCause witObj = none ∧ sec? witObj 0x0E = none ∧ graphDigest witObj = (witObj.drop (launchOff witObj + 0x140)).take 64 ∧ graphDigest witObj = witDigest := by decide +kernel
/-- The policy block passes every check but the signature's, which is the configuration's to answer. -/
theorem witness_RootCommandsAnswer_policy :
    (Config.mlDsaVerify (((witPol 7 9).drop 8).take 32) ((witPol 7 9).take (0x30 + 128)) (((witPol 7 9).drop (0x30 + 128)).take 3309) = true → sigCause (witPol 7 9) = none) ∧
    sigCause [] = some 0x343 := by
  refine ⟨fun h => ?_, by decide +kernel⟩
  have n : polPlen (witPol 7 9) = 128 := by decide +kernel
  unfold sigCause
  rw [n]
  dsimp only
  rw [h]
  decide +kernel
theorem witness_RootCommandsAnswer :
    (∀ q ∈ [0, 7], Accepted (witRoot 7 9 {} {}) (witC q) True) ∧ (∀ o ∈ [objectCause [], objectCause witObj], o = none ∨ o = some 0x312) ∧ commandsOpen State.reset = false ∧
    tfind (witRoot 7 9 {} {}).root.sessions 8 = none ∧ tfind (witRoot 7 9 {} {}).root.sessions 7 = some 4 ∧ ({ witC 7 with seq := 4 } : RootCmd).seq ≤ (4 : Dword) ∧
    tfind (witRoot 7 9 {} {}).root.policies 6 = none ∧ (tfind (witRoot 7 9 {} {}).root.policies 5).map (fun q => decide (q.block = witPol 7 9)) = some true ∧
    (tfind (witRoot 7 9 {} {}).root.policies 5).map (fun q => decide (q.block ≠ witPol 6 9)) = some true ∧ tfind (witRoot 7 9 {} {}).root.objects 8 = none ∧
    (tfind (witRoot 7 9 {} {}).root.objects 9).map (·.session) = some 7 ∧ policyHandle witObj = 5 ∧
    ((witRoot 7 9 {} {}).parts.find? fun e => e.2.used && e.2.policy = policyHandle witObj).map (·.1) = some 0 ∧ polMaxB (witPol 7 9) = 100 ∧
    rd witObj (launchOff witObj + 0x10) 4 ≤ 100 ∧ polDigests (witPol 7 9) = [witDigest] ∧ recordBroken witObj = false ∧
    tfind (witRoot 7 9 {} {}).launches 12 = none ∧ (tfind (witRoot 7 9 {} {}).launches 11).map (·.session) = some 7 ∧ polFlag (witPol 7 9) 0 = true ∧ polFlag (witPol 6 9) 0 = false ∧
    polFlag (witPol 7 9) 1 = true ∧ polFlag (witPol 5 9) 1 = false ∧ polFlag (witPol 3 9) 2 = false ∧ polMaxC (witPol 7 9) = 8 ∧ feature (witRoot 7 9 {} {}) 3 = true ∧
    createOk (witRoot 7 9 {} {}) witSpec = true ∧ createOk (witRoot 7 9 {} {}) { witSpec with lead := 6 } = false ∧
    (getCore (witRoot 7 9 {} {}) 4).launch = none ∧ (let s := { witRoot 7 9 {} { cores := [1], lead := 1 } with cores := [(1, { part := some 0 })] }; (getPart s 0).cores = [1] ∧ (getCore s 1).part = some 0) ∧ freePart (witRoot 7 9 {} {}) = some 1 ∧
    namedPart (witRoot 7 9 {} {}) (witC 0) 13 = some 0 ∧ namedPart (witRoot 7 9 {} {}) (witC 7) 14 = none ∧ polMaxQ (witPol 7 9) = 9 ∧
    (witRoot 7 9 {} {}).root.harvests = [] ∧ writesPending (witRoot 7 9 {} {}) ⟨0, 0, 0, 0⟩ = false ∧ (getPart (witRoot 7 9 {} {}) 0).secure = true := by
  refine ⟨?_, by decide +kernel⟩
  intro q hq
  simp only [List.mem_cons, List.not_mem_nil, or_false] at hq
  obtain rfl | rfl := hq
  · exact ⟨by decide +kernel, rfl, trivial, 0, by decide +kernel⟩
  · exact ⟨by decide +kernel, rfl, trivial, 4, by decide +kernel⟩
def witServe (q : List Nat) (bad : Byte) (parts : Tbl Partition) (idt : Tbl Quad) : State := { State.reset with
  root := { stage := 3, featack := 0x101, badstk := bad, quiesced := q, created := false }, parts := parts, idt := idt }
theorem witness_BringUpAndService :
    (State.reset.root.booted = false ∧ ({ State.reset.root with booted := true } : Root).booted = true ∧ State.reset.root.stage = 1 ∧ State.reset.root.created = false) ∧
    ((0 : BitVec 256) &&& ~~~(Config.featdev &&& 0x1FF) = 0 ∧ (0x200 : BitVec 256) &&& ~~~(Config.featdev &&& 0x1FF) ≠ 0) ∧
    Accepted (witServe [] 0 [] []) (witC 0) True ∧ feature (witServe [] 0 [] []) 8 = true ∧ feature (witRoot 7 9 {} {}) 8 = true ∧ feature State.reset 8 = false ∧
    (witServe [2] 0 [] []).root.quiesced.contains (2 : Fin 8).val = true ∧ (witServe [] 0 [] []).root.quiesced.contains (2 : Fin 8).val = false ∧
    (witServe [] 4 [] []).root.badstk.getLsbD (2 : Fin 8).val = true ∧ (witServe [] 0 [] []).root.badstk.getLsbD (2 : Fin 8).val = false ∧
    (∃ e ∈ (witServe [] 0 [(0, { used := true, cores := [512] })] []).parts, e.2.used = true ∧ ∃ k ∈ e.2.cores, k / 256 = (2 : Fin 8).val) ∧
    (∀ e ∈ (witServe [] 0 [] []).idt, idtValid e.2 = true → ∀ n ∈ idtSlices e.2, stackOfRouter (routerOfSlice n) ≠ (2 : Fin 8).val) ∧
    (∀ e ∈ (witServe [] 0 [] []).parts, e.2.used = true → ∀ k ∈ e.2.cores, k / 256 ≠ (2 : Fin 8).val) ∧
    (getCore (witServe [] 0 [] []) 3).spares < 2 ∧ (tget 0 (witServe [] 0 [] []).root.spareChannels (7 / 128) : Nat) < 8 ∧
    (7 : BitVec 14).toNat < 9216 ∧ 9216 ≤ (10000 : BitVec 14).toNat ∧
    (∀ n ∈ [0, 1, 2], (getPart (witRoot 7 9 {} { tdi := n }) 0).used = true ∧ feature (witRoot 7 9 {} { tdi := n }) 3 = true ∧ (getPart (witRoot 7 9 {} { tdi := n }) 0).tdi = n) ∧
    (1, 7) ∉ State.reset.root.keyed := by
  refine ⟨by decide, ⟨by simp, fun h => ?_⟩, ⟨by decide, rfl, trivial, 0, by decide⟩, by decide +kernel⟩
  have : ((0x200 : BitVec 256) &&& ~~~(Config.featdev &&& 0x1FF)).getLsbD 9 = (0 : BitVec 256).getLsbD 9 := by rw [h]
  simp at this

/-- A module whose partition 0, secure or not, owns unit 1 and core 0, and that asks or hears something. -/
def witHost (secure : Bool) (tdi : Nat) (d : Doorbell) (edge : Bool) : State := { State.reset with
  cores := [(0, { part := some 0 })],
  parts := [(0, { used := true, secure := secure, tdi := tdi, cores := [0], units := [1], ringSeq := 4, ringFreed := 1, doorbells := [(3, d)], policy := 5 })],
  edges := if edge then [{ src := .ingress 0 3, dst := .elem 0 0 0, launch := 0 }] else [],
  root := { policies := [(5, { session := 7, block := leBytes 48 0 ++ leBytes 4 1 ++ leBytes 2 0 ++ leBytes 2 1 ++ leBytes 56 0 ++ leBytes 2 9 })] } }
theorem witness_HostPeersAndErrors :
    (secureOwner (witHost true 0 {} false) 0x10000000 = some 0 ∧ secureOwner (witHost false 0 {} false) 0x420000000000 = none ∧ (0 < 8 ∧ 0x420000000000 % 128 + 8 ≤ 128) ∧
      IsExplicit (.cpad 0) ∧ Safe (witHost false 0 {} false)) ∧
    (match homeOf (witHost false 0 {} false) 0x420000000000 with | .ok h => decide (h = .cpad 0) | .error _ => false) = true ∧
    (∀ n ∈ [1, 2], (getPart (witHost true n {} false) 0).used = true ∧ (getPart (witHost true n {} false) 0).tdi = n) ∧
    (let s := witHost true 0 {} true; (tget {} (getPart s 0).doorbells 3 : Doorbell).toks.length < 64 ∧ ingressUsed s 0 3 = true) ∧
    (let s := witHost true 0 { toks := List.replicate 64 { tok := ⟨1, 0⟩ } } true; 64 ≤ (tget {} (getPart s 0).doorbells 3 : Doorbell).toks.length) ∧
    ingressUsed (witHost true 0 {} false) 0 3 = false ∧ (getPart (witHost true 0 {} false) 1).used = false ∧
    (0x800000001000 % 4096 = 0 ∧ 6 ≤ 16 ∧ spaceOf 0x800000001000 = .host ∧ spaceOf (0x800000001000 + 32 * 2 ^ 16 - 1) = .host) ∧
    ((getPart (witHost true 0 {} false) 0).ringFreed ≤ 4 ∧ 4 ≤ (getPart (witHost true 0 {} false) 0).ringSeq ∧ 0 < (getPart (witHost true 0 {} false) 0).ringFreed) ∧
    ((1 : BitVec 16) ≠ State.reset.inc ∧ peerTarget (witHost true 0 {} false) 0x420000000000 (.load 8) = some 0 ∧ peerTarget (witHost true 0 {} false) 0x420000000000 (.store [7]) = some 0 ∧
      peerAllowed (witHost true 0 {} false) 0 9 = true ∧ peerAllowed (witHost true 0 {} false) 0 8 = false) ∧
    (tget {} State.reset.links 9 : Link).up = true ∧
    (let s : State := { State.reset with links := [(9, { up := false })], reqs := [(0, witR .load { witPart (.remote 9) 0 8 (.travelling 40) with n := 8 })] }
     (tget {} s.links 9 : Link).up = false ∧ (∀ r ∈ s.reqs, r.2.awaits 9 = 1) ∧ (∀ r ∈ s.reqs, r.2.awaits 8 = 0)) ∧
    ((getPart (witHost true 0 {} false) 0).cores = [0] ∧ (getCore (witHost true 0 {} false) 0).part = some 0) ∧
    (let p : Partition := { used := true, cores := [0] }; 100 ∉ networkOf { State.reset with parts := [(0, p)] } p) := by
  unfold IsExplicit Safe; decide +kernel

/-- A host request on its way from port 1 to its home, alone or behind an earlier write that has not been performed. -/
def witSent (secure : Bool) (op : MemOp) (ph : Phase) (c : Cause) (behind : Bool) : State :=
  let r : Req := { witR op { witPart (.cpad 0) 0x420000000000 8 ph with cause := c } with core := 4096, link := some 1, tag := 64 }
  { witHost secure 0 {} false with reqs := (if behind then [(0, { r with op := .store, parts := [witPart (.cpad 0) 0x420000000000 8 (.travelling 9)] })] else []) ++ [(1, r)], nextReq := 2 }
theorem witness_HostPeersAndErrors_travels :
    (∀ pa ∈ [0x420000000000, 0x10000000], spaceOf pa ≠ .host ∧ (match homeOf (witHost true 0 {} false) pa with | .ok (.cpad _) | .ok (.slice _) => true | _ => false) = true) ∧
    spaceOf 0x800000001000 = .host := by decide +kernel
theorem witness_HostPeersAndErrors_performed :
    (∀ sec ∈ [true, false], ∀ b ∈ [true, false], let s := witSent sec .store (.travelling 0) 0 b
      let q := witPart (.cpad 0) 0x420000000000 8 (.travelling 0)
      tfind s.reqs 1 = some { witR .store q with core := 4096, link := some 1, tag := 64 } ∧ ({ witR .store q with core := 4096 } : Req).part q.lane = some q ∧ s.cycle = 0 ∧
      q.home = .cpad 0 ∧ hostDone s 1 = !b ∧ q.bulk = [] ∧ (foreignTo s 64 q.pa).isSome = sec) := by decide +kernel
theorem witness_HostPeersAndErrors_replies :
    (∀ op ∈ [MemOp.store, .load], ∀ c ∈ [0, 0x34A], let s := witSent false op (.replied 0) c false
      (tfind s.reqs 1).map (fun r => (r.link, r.posted, r.ready s.cycle, r.replyCause.map (·.1))) = some (some 1, false, true, if c = 0 then none else some c)) := by
  decide +kernel
/-- A peer whose request finds a barrier of core 0. -/
def witPeer (n : Nat) : State := { witHost true 0 {} false with cores := [(0, { part := some 0, bars := [(3, witBar n)] })] }
theorem witness_HostPeersAndErrors_peers :
    (∀ n ∈ [0, 8], peerTarget (witPeer n) 0 (.barArrive 0 3 1 5) = some 0 ∧ peerTarget (witPeer n) 0 (.barWait 0 3 5) = some 0 ∧
      peerHeld (raisePeer (witPeer n) 9 4) ⟨9, 0, 0, 4, .barArrive 0 3 1 5⟩ = false ∧ ((getCore (witPeer n) 0).bar 3).expected = n ∧ (n = 8 → 3 + 1 < n)) ∧
    peerHeld (raisePeer { witPeer 0 with peerAsks := [⟨9, 0, 0, 4, .load 8⟩] } 9 4) ⟨9, 0, 0, 4, .load 8⟩ = true ∧
    (State.reset.inc = 0 ∧ foreignTo (witHost false 0 {} false) 0 0x420000000000 = none ∧ peerHeld (raisePeer (witHost false 0 {} false) 9 4) ⟨9, 0, 0x420000000000, 4, .load 8⟩ = false) ∧
    (let s : State := { State.reset with links := [(9, { up := false })], reqs := [(0, witR .load { witPart (.remote 9) 0 8 (.travelling 40) with n := 8 })] }
     (match exec (.replyArrival 0 (some .lost)) (remark s 9 fun _ => false) with | .next _ => true | _ => false) = true) := by
  decide +kernel

/-- R348: a Ready launch of a partition with budget pre-empts a Running one of a partition without, for a core that both sets hold. -/
theorem test_preemption :
    let s : State := { State.reset with
      parts := [(0, { used := true, cores := [0, 1], lead := 0 }), (1, { used := true, cores := [2, 1], lead := 2, rem := 5 })]
      cores := [(1, { part := some 0, launch := some 1 })]
      launches := [(1, { part := 0, stage := .running, cores := [1] }), (2, { part := 1, stage := .ready, object := witObject })] }
    preempts s (getLaunch s 2) = [1] ∧ preempts s (getLaunch s 1) = [] := by decide +kernel

end Sys2Proof.Tests
end

section
/-! SUPPORT. Host requests: how one is cut, sent on its way, performed at an explicit home, and answered (R313, R318, R414, R425, R439). -/

namespace Sys2Proof.Machine

open Sys2Proof Sys2Proof.Claims

/-! ## Bytes and lines -/

/-- The number that bytes hold gives them back. -/
theorem leBytes_leNat (bs : List Byte) : leBytes bs.length (leNat bs) = bs := by
  induction bs with
  | nil => rfl
  | cons b bs ih =>
    have hb : b.toNat < 256 := b.isLt
    simp only [leNat, List.length_cons, leBytes]
    rw [show (b.toNat + 256 * leNat bs) / 256 = leNat bs by omega, ih]
    congr 1
    apply BitVec.eq_of_toNat_eq
    simp only [BitVec.toNat_ofNat]
    omega

theorem leNat_lt (bs : List Byte) : leNat bs < 256 ^ bs.length := by
  induction bs with
  | nil => simp [leNat]
  | cons b bs ih =>
    have hb : b.toNat < 256 := b.isLt
    simp only [leNat, List.length_cons, Nat.pow_succ]
    omega

theorem linePieces_nil (fuel pa : Nat) : linePieces fuel pa [] = [] := by cases fuel <;> rfl

/-- Bytes within one line are one piece. -/
theorem linePieces_inLine {pa : Nat} {bs : List Byte} (h0 : 0 < bs.length) (h : pa % 128 + bs.length ≤ 128) :
    linePieces bs.length pa bs = [(pa, bs)] := by
  cases bs with
  | nil => simp at h0
  | cons b bs =>
    have hl : (b :: bs).length ≤ 128 - pa % 128 := by omega
    show (pa, (b :: bs).take _) :: linePieces bs.length _ ((b :: bs).drop _) = _
    rw [List.take_of_length_le hl, List.drop_of_length_le hl, linePieces_nil]

/-! ## Sending -/

theorem hostOwn_elsewhere (s : State) {pa : Nat} (bs : List Byte) (h : spaceOf pa ≠ .host) : hostOwn s [(pa, bs)] = s := by
  simp [hostOwn, h]

theorem hostOwn_mem (s : State) {pa : Nat} (bs : List Byte) (h : spaceOf pa = .host) :
    (hostOwn s [(pa, bs)]).mem = Memory.writeN s.mem pa bs := by
  simp [hostOwn, h]

@[simp] theorem hostSend_mem (s : State) (port : Nat) (w : Option Nat) (op : MemOp) (ps : List (Nat × List Byte)) :
    (hostSend s port w op ps).mem = s.mem := rfl

/-- The way from one of the two host ports to a home (R439). -/
theorem hostTravel_port (port : Fin 2) (h : Home) :
    hostTravel port h = 30 + 12 * hops (if port = 0 then 0 else 64) (routerOfHome h) := by
  simp only [hostTravel, Fin.val_eq_zero_iff]

/-- The access that a host port makes of bytes within a line whose home performs it. -/
def hostAccess (s : State) (port pa : Nat) (h : Home) (bs : List Byte) : Part :=
  { lane := 0, va := pa, pa := pa, n := bs.length, home := h, data := .ofNat 128 (leNat bs), bulk := if bs.length > 16 then bs else [],
    phase := .travelling (s.cycle + hostTravel port h) }

/-- The bytes it carries are the host's, whether they fit into its word or not. -/
theorem hostAccess_operand (s : State) (port pa : Nat) (h : Home) (bs : List Byte) : (hostAccess s port pa h bs).operand = bs := by
  by_cases hl : bs.length > 16
  · have hb : bs ≠ [] := by rintro rfl; simp at hl
    simp [Part.operand, hostAccess, hl, hb]
  · have hlt : leNat bs < 2 ^ 128 := calc
      leNat bs < 256 ^ bs.length := leNat_lt bs
      _ ≤ 256 ^ 16 := Nat.pow_le_pow_right (by omega) (by omega)
      _ = 2 ^ 128 := rfl
    have hw : (BitVec.ofNat 128 (leNat bs)).toNat = leNat bs := by rw [BitVec.toNat_ofNat, Nat.mod_eq_of_lt hlt]
    simp only [Part.operand, hostAccess, hl, ↓reduceIte, List.isEmpty_nil, hw, leBytes_leNat]

/-- A request of one piece goes on its way to its home, and nothing else changes. -/
theorem hostSend_travels {s : State} {pa : Nat} {h : Home} (port : Nat) (w : Option Nat) (op : MemOp) (bs : List Byte)
    (hh : homeOf s pa = .ok h) (hx : IsExplicit h ∨ ∃ j, h = .slice j) :
    let t := hostSend s port w op [(pa, bs)]
    t = { s with reqs := t.reqs, nextReq := s.nextReq + 1 } ∧ ∃ r, tfind t.reqs s.nextReq = some r ∧ r.link = some port ∧ r.op = op ∧
      r.tag = w.getD noPart ∧ r.posted = false ∧ r.parts = [hostAccess s port pa h bs] := by
  refine ⟨rfl, _, tfind_tput_same .., rfl, rfl, rfl, rfl, ?_⟩
  obtain hx | ⟨j, rfl⟩ := hx
  · cases h <;> simp_all [IsExplicit, hostAccess]
  · simp [hh, hostAccess]

theorem execHostWrite_line {s : State} {pa : Nat} (via : HostVia) {bs : List Byte} (hn : spaceOf pa ≠ .host) (h0 : 0 < bs.length)
    (hl : pa % 128 + bs.length ≤ 128) :
    execHostWrite via (.memory pa bs) s = .next (hostSend s via.port (hostWorld s via.tdi) .store [(pa, bs)]) := by
  simp only [execHostWrite, linePieces_inLine h0 hl, hostOwn_elsewhere s bs hn]

theorem execHostRead_line {s : State} {pa n : Nat} (via : HostVia) (h0 : 0 < n) (hl : pa % 128 + n ≤ 128) :
    execHostRead via (.memory pa n) s = .next (hostSend s via.port (hostWorld s via.tdi) .load [(pa, List.replicate n 0)]) := by
  have hp := linePieces_inLine (pa := pa) (bs := List.replicate n (0 : Byte)) (by simpa using h0) (by simpa using hl)
  rw [List.length_replicate] at hp
  simp only [execHostRead, hp]

/-- What the host writes to its own memory is there at once (R318). -/
theorem execHostWrite_own {s : State} {pa : Nat} (via : HostVia) {bs : List Byte} (hn : spaceOf pa = .host) (h0 : 0 < bs.length)
    (hl : pa % 128 + bs.length ≤ 128) :
    ∃ t, execHostWrite via (.memory pa bs) s = .next t ∧ t.mem = Memory.writeN s.mem pa bs := by
  refine ⟨_, rfl, ?_⟩
  rw [hostSend_mem, linePieces_inLine h0 hl, hostOwn_mem s bs hn]

/-! ## Performing at an explicit home -/

/-- A write to a byte of a secure partition that is not the requester's changes nothing (R414). -/
theorem performWrite_foreign {s : State} {h : Home} {p pa : Nat} {new : List Byte} {rc : Reuse} {na : Bool} {pts : Stamp}
    (hf : foreignTo s p pa ≠ none) : performWrite s h p pa new rc na pts = (s, { cause := 0x34A, ts := pts }) := by
  simp [performWrite, Option.isSome_iff_ne_none.mpr hf]

/-- A write that an explicit home performs (R313). -/
theorem performWrite_explicit {s : State} {h : Home} {p pa : Nat} {new : List Byte} {rc : Reuse} {na : Bool} {pts : Stamp}
    (hx : IsExplicit h) (hf : foreignTo s p pa = none) :
    ∃ hs a, performWrite s h p pa new rc na pts = ({ s with homes := hs, mem := Memory.writeN s.mem pa new }, a) ∧ a.cause = 0 := by
  cases h <;> simp [IsExplicit] at hx <;> exact ⟨_, _, by simp only [performWrite, hf]; rfl, rfl⟩

/-- A read that an explicit home performs (R313). -/
theorem performRead_explicit {s : State} {h : Home} {p pa len : Nat} {rc : Reuse} {na : Bool} {pts : Stamp}
    (hx : IsExplicit h) (hf : foreignTo s p pa = none) :
    ∃ hs a, performRead s h p pa len rc na pts = ({ s with homes := hs }, a) ∧ a.cause = 0 ∧ a.value = Memory.readN s.mem pa len := by
  cases h <;> simp [IsExplicit] at hx <;> exact ⟨_, _, by simp only [performRead, hf]; rfl, rfl, rfl⟩

/-- What a write at an explicit home comes to, whoever owns the byte: the homes' clocks and memory alone can change, memory only where the
requester may write. -/
theorem performWrite_explicit_cases {s : State} {h : Home} {p pa : Nat} {new : List Byte} {rc : Reuse} {na : Bool} {pts : Stamp}
    (hx : IsExplicit h) :
    ∃ hs m a, performWrite s h p pa new rc na pts = ({ s with homes := hs, mem := m }, a) ∧
      (foreignTo s p pa = none → a.cause = 0 ∧ m = Memory.writeN s.mem pa new) ∧ (foreignTo s p pa ≠ none → a.cause = 0x34A ∧ m = s.mem) := by
  by_cases hf : foreignTo s p pa = none
  · obtain ⟨hs, a, he, hc⟩ := performWrite_explicit (new := new) (rc := rc) (na := na) (pts := pts) hx hf
    exact ⟨hs, _, a, he, fun _ => ⟨hc, rfl⟩, fun hn => absurd hf hn⟩
  · exact ⟨s.homes, s.mem, _, performWrite_foreign hf, fun hn => absurd hn hf, fun _ => ⟨rfl, rfl⟩⟩

/-! ## Accesses of a request -/

/-- What a change of one access leaves of a request's accesses, where it keeps the access's number. -/
theorem Req.part_answer {r : Req} {lane : Nat} {p : Part} (f : Part → Part) (hf : ∀ p, (f p).lane = p.lane) (hp : r.part lane = some p) :
    (r.answer lane f).part lane = some (f p) := by
  have hl : p.lane = lane := by simpa using List.find?_some hp
  have hk : ((fun q : Part => decide (q.lane = lane)) ∘ fun q => if q.lane = lane then f q else q) = fun q => decide (q.lane = lane) := by
    funext q
    by_cases hq : q.lane = lane <;> simp [hq, hf]
  have hm : r.parts.find? (fun q => decide (q.lane = lane)) = some p := hp
  simp only [Req.part, Req.answer, List.find?_map, hk, hm, Option.map_some, hl, ↓reduceIte]

theorem setPart_reqs {s : State} {id lane : Nat} {r : Req} {p : Part} (f : Part → Part) (hf : ∀ p, (f p).lane = p.lane)
    (hr : tfind s.reqs id = some r) (hp : r.part lane = some p) :
    ∃ r', setPart s id lane f = setReq s id r' ∧ r'.part lane = some (f p) :=
  ⟨r.answer lane f, by simp [setPart, hr], Req.part_answer f hf hp⟩

/-- An access with what its home has answered, to reach the requester in a cycle. -/
def Part.withAnswer (p : Part) (due : Nat) (a : Answer) : Part :=
  { p with value := .ofNat 128 (leNat a.value), seq := a.seq, ts := a.ts, rts := a.rts, wts := a.wts, line := a.line ++ a.side,
           bulk := if a.value.length > 16 then a.value ++ a.side else [], cause := a.cause, phase := .replied due }

theorem answered_eq (s : State) (id lane back : Nat) (a : Answer) :
    answered s id lane back a = setPart s id lane (·.withAnswer (s.cycle + back) a) := rfl

@[simp] theorem tfind_setReq_same (s : State) (id : Nat) (r : Req) : tfind (setReq s id r).reqs id = some r := tfind_tput_same ..

/-- A host's request meets no view trap: it is performed with the link's clock, and the link hears of it (R312, R318). -/
theorem performPart_ofLink {s : State} {id port : Nat} {r : Req} (p : Part) (hl : r.link = some port) :
    performPart s id r p =
      linkPerformed (performAccess s id { r with pts := s.hostClock } p) id { r with pts := s.hostClock } p.lane := by
  cases hh : p.home <;> simp [performPart, hl, hh]

/-- The link's clock takes in the performance, and requests, memory and homes stand. -/
theorem linkPerformed_eq {s : State} {id lane port : Nat} {r r' : Req} {p : Part} (hl : r.link = some port)
    (hr : tfind s.reqs id = some r') (hp : r'.part lane = some p) :
    ∃ ps, linkPerformed s id r lane = { s with hostClock := tsMax s.hostClock p.ts, parts := ps } :=
  ⟨(linkPerformed s id r lane).parts, by simp only [linkPerformed, hl, Option.isSome_some, ↓reduceIte, hr, Option.bind_some, hp]⟩

/-- The performance of a host's write at its explicit home (R312, R414). -/
theorem performPart_hostStore {s : State} {id port : Nat} {r : Req} {p : Part} (hr : tfind s.reqs id = some r)
    (hp : r.part p.lane = some p) (hl : r.link = some port) (ho : r.op = .store) (hx : IsExplicit p.home) :
    ∃ r' q, tfind (performPart s id r p).reqs id = some r' ∧ r'.part p.lane = some q ∧
      q.phase = .replied (s.cycle + hostTravel port p.home) ∧ (performPart s id r p).hostClock = tsMax s.hostClock q.ts ∧
      (foreignTo s r.tag p.pa = none → q.cause = 0 ∧ (performPart s id r p).mem = Memory.writeN s.mem p.pa p.operand) ∧
      (foreignTo s r.tag p.pa ≠ none → q.cause = 0x34A ∧ (performPart s id r p).mem = s.mem) := by
  obtain ⟨hs, m, a, hw, hmine, hforeign⟩ := performWrite_explicit_cases (s := s) (p := r.tag) (pa := p.pa) (new := p.operand)
    (rc := r.reuse) (na := r.passes p) (pts := s.hostClock) hx
  obtain ⟨r', hset, hpart⟩ := setPart_reqs (s := { s with homes := hs, mem := m })
    (·.withAnswer (s.cycle + hostTravel port p.home) a) (fun _ => rfl) hr hp
  have hacc : performAccess s id { r with pts := s.hostClock } p = setReq { s with homes := hs, mem := m } id r' := by
    rw [← hset]
    simp only [performAccess, ho, Req.own, hl, Req.travel, Req.passes] at hw ⊢
    rw [hw]
    cases hh : p.home <;> simp_all [IsExplicit, answered_eq]
  obtain ⟨ps, hlink⟩ := linkPerformed_eq (r := { r with pts := s.hostClock }) hl (tfind_setReq_same { s with homes := hs, mem := m } id r') hpart
  rw [performPart_ofLink p hl, hacc, hlink]
  exact ⟨r', _, tfind_setReq_same .., hpart, rfl, rfl, hmine, hforeign⟩

/-! ## Arrival at an explicit home -/

/-- An access that reaches an explicit home is performed there. -/
theorem arriveHome_performs {s : State} {id : Nat} {r : Req} {p : Part} (ha : Arriving s id r p) (hx : IsExplicit p.home)
    (hb : behindHost s id r = false) : arriveHome s id p.lane = performPart s id r p := by
  obtain ⟨hr, hp, due, hph, hdue⟩ := ha
  cases hh : p.home <;> simp_all [IsExplicit, arriveHome]

/-- An access that waits at its home, in its place since it first came there. -/
def Part.enqueued (p : Part) (place : Nat) : Part := { p with phase := match p.phase with | .queued k => .queued k | _ => .queued place }

/-- A host's write behind one that the link received before it waits at its home (R318). -/
theorem arriveHome_waits {s : State} {id : Nat} {r : Req} {p : Part} (ha : Arriving s id r p) (hx : IsExplicit p.home)
    (hb : behindHost s id r = true) :
    arriveHome s id p.lane = { setPart s id p.lane (·.enqueued s.stamps) with stamps := s.stamps + 1 } := by
  obtain ⟨hr, hp, due, hph, hdue⟩ := ha
  cases hh : p.home <;> simp only [hh, IsExplicit] at hx <;>
    simp only [arriveHome, hr, hp, hph, hdue, decide_true, Bool.not_true, Bool.false_eq_true, ↓reduceIte, hh, hb] <;> rfl

theorem behindHost_store {s : State} {id port : Nat} {r : Req} (hl : r.link = some port) (ho : r.op = .store) :
    behindHost s id r = !hostDone s id := by
  simp [behindHost, hl, ho]

/-- A host's write that reaches its explicit home after the link's earlier writes is performed there: its answer is on its way back, and the
link's clock takes it in. -/
theorem arriveHome_hostStore {s : State} {id port : Nat} {r : Req} {p : Part} (ha : Arriving s id r p) (hl : r.link = some port)
    (ho : r.op = .store) (hx : IsExplicit p.home) (hd : hostDone s id = true) :
    let t := arriveHome s id p.lane
    ∃ r' q, tfind t.reqs id = some r' ∧ r'.part p.lane = some q ∧ q.phase = .replied (s.cycle + hostTravel port p.home) ∧
      t.hostClock = tsMax s.hostClock q.ts ∧
      (foreignTo s r.tag p.pa = none → q.cause = 0 ∧ t.mem = Memory.writeN s.mem p.pa p.operand) ∧
      (foreignTo s r.tag p.pa ≠ none → q.cause = 0x34A ∧ t.mem = s.mem) := by
  rw [arriveHome_performs ha hx (by simp [behindHost_store hl ho, hd])]
  obtain ⟨hr, hp, -⟩ := ha
  exact performPart_hostStore hr hp hl ho hx

/-- What a host's write that waits at its explicit home leaves: its access queued there, memory as it was. -/
theorem arriveHome_hostWaits {s : State} {id port : Nat} {r : Req} {p : Part} (ha : Arriving s id r p) (hl : r.link = some port)
    (ho : r.op = .store) (hx : IsExplicit p.home) (hd : hostDone s id = false) :
    ∃ r' q, tfind (arriveHome s id p.lane).reqs id = some r' ∧ r'.part p.lane = some q ∧ q.phase = .queued s.stamps ∧
      (arriveHome s id p.lane).mem = s.mem := by
  have hw := arriveHome_waits ha hx (by simp [behindHost_store hl ho, hd])
  obtain ⟨hr, hp, due, hph, -⟩ := ha
  obtain ⟨r', hset, hpart⟩ := setPart_reqs (·.enqueued s.stamps) (fun _ => rfl) hr hp
  rw [hw, hset]
  exact ⟨r', _, tfind_setReq_same .., hpart, by simp [Part.enqueued, hph], rfl⟩

/-! ## Answers to the host -/

/-- A host's request whose answers are there is over, and the host hears of it (R414). -/
theorem execReplyArrival_host {s : State} {id port : Nat} {r : Req} (hr : tfind s.reqs id = some r) (hl : r.link = some port)
    (hp : r.posted = false) (hd : r.ready s.cycle = true) :
    execReplyArrival id none s = .next (hostReply { s with reqs := tdel (tput s.reqs id r) id } r) := by
  have hd' : r.ready (setReq s id r).cycle = true := hd
  simp only [execReplyArrival, hr, hp, hd', Bool.false_eq_true, ↓reduceIte, replyWhole, hl, Option.isSome_some]
  rfl

theorem replyCause_ne_zero {r : Req} {c : Cause} {va : Nat} (h : r.replyCause = some (c, va)) : c ≠ 0 := by
  simp only [Req.replyCause, Option.map_eq_some_iff, Prod.mk.injEq] at h
  obtain ⟨p, hp, rfl, -⟩ := h
  have := List.find?_some hp
  simp_all

/-- A refusal is told to the host. -/
theorem hostReply_refused (s : State) {r : Req} {c : Cause} {va : Nat} (h : r.replyCause = some (c, va)) :
    hostReply s r = tell s { code := c } := by
  simp [hostReply, h, replyCause_ne_zero h, tell]

/-- A write that was performed is not told. -/
theorem hostReply_written (s : State) {r : Req} (h : r.replyCause = none) (ho : r.op = .store) : hostReply s r = s := by
  simp [hostReply, h, ho]

/-- The host gets the bytes it read. -/
theorem hostReply_read (s : State) {r : Req} {q : Part} (h : r.replyCause = none) (ho : r.op = .load) (hq : r.parts = [q]) (hb : q.bulk = []) :
    hostReply s r = tell s { code := 0, data := leBytes q.n q.value.toNat } := by
  simp [hostReply, h, ho, hq, hb, tell]

/-! ## Doorbells (R426) -/

theorem hostWorld_ofTdi {s : State} {part : Nat} (hu : (getPart s part).used = true) (ht : (getPart s part).tdi = 1 ∨ (getPart s part).tdi = 2) :
    hostWorld s (some part) = some part := by
  simp [hostWorld, hu, ht]

/-- The doorbell behind a locked or running TDI (R426). -/
theorem bellOf_ofTdi {s : State} {part : Nat} (d : Nat) (hu : (getPart s part).used = true)
    (ht : (getPart s part).tdi = 1 ∨ (getPart s part).tdi = 2) :
    bellOf s (hostWorld s (some part)) d = some (part, tget {} (getPart s part).doorbells d) := by
  rw [hostWorld_ofTdi hu ht]
  rfl

section
variable {s : State} {part : Nat} (port : Fin 2) (d : Nat) (hu : (getPart s part).used = true)
  (ht : (getPart s part).tdi = 1 ∨ (getPart s part).tdi = 2)
include hu ht

theorem execHostWrite_staging (w : Quad) (hd : d < 64) :
    execHostWrite ⟨port, some part⟩ (.staging d w) s = .next (setPart' s part { getPart s part with
      doorbells := tput (getPart s part).doorbells d { (tget {} (getPart s part).doorbells d : Doorbell) with staging := w } }) := by
  simp only [execHostWrite, bellOf_ofTdi d hu ht, hd, ↓reduceIte]

theorem execHostRead_doorbell :
    execHostRead ⟨port, some part⟩ (.doorbell d) s =
      let x : Doorbell := tget {} (getPart s part).doorbells d
      .next (tell s { code := 0, data := leBytes 4 (64 - x.toks.length) ++ leBytes 4 x.dropped }) := by
  simp only [execHostRead, bellOf_ofTdi d hu ht]

/-- The write-only words of a doorbell read zero. -/
theorem execHostRead_payload :
    execHostRead ⟨port, some part⟩ (.payload d) s = .next (tell s { code := 0, data := leBytes 16 0 }) := by
  simp only [execHostRead, bellOf_ofTdi d hu ht]
  rfl

theorem execHostRead_trigger :
    execHostRead ⟨port, some part⟩ (.trigger d) s = .next (tell s { code := 0, data := leBytes 8 0 }) := by
  simp only [execHostRead, bellOf_ofTdi d hu ht]
  rfl

end

@[simp] theorem getPart_setPart'_same (s : State) (p : Nat) (x : Partition) : getPart (setPart' s p x) p = x := by
  simp [getPart, setPart']

theorem getPart_setPart' (s : State) (p q : Nat) (x : Partition) : getPart (setPart' s p x) q = if p = q then x else getPart s q := by
  simp [getPart, setPart', tget_tput]

/-- An event for a sleeping control element changes cores and agenda alone. -/
theorem sleepEvent_eq (s : State) (core bit : Nat) :
    sleepEvent s core bit = { s with cores := (sleepEvent s core bit).cores, agenda := (sleepEvent s core bit).agenda } := by
  simp only [sleepEvent]
  repeat' split
  all_goals rfl

/-- Steps that each leave some reading of the state alone leave it alone one after another. -/
theorem foldl_keeps {α β σ : Type} (get : σ → β) (f : σ → α → σ) (hf : ∀ s a, get (f s a) = get s) (l : List α) (s : σ) :
    get (l.foldl f s) = get s := by
  induction l generalizing s with
  | nil => rfl
  | cons a l ih => rw [List.foldl_cons, ih, hf]

theorem foldl_sleepEvent_mem (l : List Nat) (bit : Nat) (s : State) : (l.foldl (fun s k => sleepEvent s k bit) s).mem = s.mem :=
  foldl_keeps State.mem _ (fun s k => by rw [sleepEvent_eq]) l s

theorem foldl_sleepEvent_parts (l : List Nat) (bit : Nat) (s : State) : (l.foldl (fun s k => sleepEvent s k bit) s).parts = s.parts :=
  foldl_keeps State.parts _ (fun s k => by rw [sleepEvent_eq]) l s

/-- A doorbell after a trigger: a token of what was staged where there is room and an attachment hears it, and otherwise a count. -/
def rung (s : State) (part source : Nat) (tag : BitVec 3) (d : Doorbell) : Doorbell :=
  if 64 ≤ d.toks.length ∨ !ingressUsed s part source then { d with dropped := min (2 ^ 32 - 1) (d.dropped + 1) }
  else { d with toks := d.toks ++ [⟨⟨d.staging, tag⟩, s.nextReq, s.hostClock⟩] }

/-- A trigger of a partition's doorbell changes that doorbell, and no memory. -/
theorem execDoorbellTrigger_rings {s : State} {part source : Nat} (tag : BitVec 3) (hu : (getPart s part).used = true) (hs : source < 64) :
    ∃ t, execDoorbellTrigger part source tag s = .next t ∧ t.mem = s.mem ∧ getPart t part = { getPart s part with
      doorbells := tput (getPart s part).doorbells source (rung s part source tag (tget {} (getPart s part).doorbells source)) } := by
  have hg : ¬ (!(getPart s part).used ∨ 64 ≤ source) := by simp [hu, hs]
  refine ⟨_, by simp only [execDoorbellTrigger, hg, ↓reduceIte]; rfl, ?_, ?_⟩
  · exact foldl_sleepEvent_mem ..
  · simp only [getPart, foldl_sleepEvent_parts, setPart', tget_tput_same]
    rfl

theorem rung_heard {s : State} {part source : Nat} (tag : BitVec 3) {d : Doorbell} (hr : d.toks.length < 64)
    (hi : ingressUsed s part source = true) :
    rung s part source tag d = { d with toks := d.toks ++ [⟨⟨d.staging, tag⟩, s.nextReq, s.hostClock⟩] } := by
  simp [rung, hi, hr]

theorem rung_dropped {s : State} {part source : Nat} (tag : BitVec 3) {d : Doorbell}
    (h : 64 ≤ d.toks.length ∨ ingressUsed s part source = false) :
    rung s part source tag d = { d with dropped := min (2 ^ 32 - 1) (d.dropped + 1) } := by
  simp [rung, h]

theorem execDoorbellTrigger_elsewhere {s : State} {part source : Nat} (tag : BitVec 3) (h : (getPart s part).used = false ∨ 64 ≤ source) :
    execDoorbellTrigger part source tag s = .next s := by
  simp [execDoorbellTrigger, h]

/-! ## The egress ring (R427) -/

theorem execEgressRingSetup_sets {s : State} {part base k : Nat} (hu : (getPart s part).used = true) (hb : base % 4096 = 0) (h6 : 6 ≤ k)
    (h16 : k ≤ 16) (hlo : spaceOf base = .host) (hhi : spaceOf (base + 32 * 2 ^ k - 1) = .host) :
    execEgressRingSetup part base k s =
      .next (setPart' s part { getPart s part with ring := some (base, k), ringSeq := 0, ringFreed := 0 }) := by
  simp only [execEgressRingSetup, hu, hb, h6, h16, hlo, hhi, and_self, ↓reduceIte]

theorem execEgressRingSetup_refuses (s : State) {base k : Nat} (part : Nat) (h : k < 6 ∨ 16 < k ∨ base % 4096 ≠ 0) :
    execEgressRingSetup part base k s = .next s := by
  simp only [execEgressRingSetup]
  rw [if_neg]
  omega

theorem execEgressHeadWrite_frees {s : State} {part rel : Nat} (hlo : (getPart s part).ringFreed ≤ rel) (hhi : rel ≤ (getPart s part).ringSeq) :
    execEgressHeadWrite part rel s = .next (setPart' s part { getPart s part with ringFreed := rel }) := by
  simp only [execEgressHeadWrite, hlo, hhi, and_self, ↓reduceIte]

theorem execEgressHeadWrite_refuses {s : State} {part rel : Nat} (h : rel < (getPart s part).ringFreed ∨ (getPart s part).ringSeq < rel) :
    execEgressHeadWrite part rel s = .next s := by
  simp only [execEgressHeadWrite]
  rw [if_neg]
  omega

end Sys2Proof.Machine
end

section
/-! SUPPORT. Peers: what becomes of a request of another module (R168, R305, R312, R379, R412, R418), and what the loss and return of its link do
to the entries that name it (R412). -/

namespace Sys2Proof.Machine

open Sys2Proof Sys2Proof.Claims

/-! ## Requests of peers -/

/-- The clock of a peer's port is no part of where its request goes. -/
theorem peerTarget_raisePeer (s : State) (mod pa : Nat) (ts : Stamp) (op : PeerOp) :
    peerTarget (raisePeer s mod ts) pa op = peerTarget s pa op := by cases op <;> rfl

/-- What asks for more than the largest MTS is taken up once the port's clock has taken on its timestamp. -/
theorem execRemoteRequest_takes {op : PeerOp} (h : op ≠ .largestMts) (s : State) (mod : BitVec 14) (inc : BitVec 16) (place : PeerPlace) :
    execRemoteRequest mod inc place op s =
      .next (takePeer (raisePeer s mod.toNat place.ts) ⟨mod.toNat, inc, place.pa.toNat, place.ts, op⟩) := by
  simp [execRemoteRequest, h]

theorem takePeer_held {s : State} {q : PeerAsk} (h : peerHeld s q = true) : takePeer s q = { s with peerAsks := s.peerAsks ++ [q] } := by
  simp [takePeer, h]

theorem takePeer_free {s : State} {q : PeerAsk} (h : peerHeld s q = false) : takePeer s q = peerRequest s q := by
  simp [takePeer, h]

/-- A request with an old incarnation (R412). -/
theorem peerRequest_stale {s : State} {q : PeerAsk} (h : q.inc ≠ s.inc) :
    peerRequest s q = answerPeer s q.mod { code := 0x3A2, ts := tget 0 s.peerClock (peerPort q.mod) } := by
  simp [peerRequest, h]

/-- A request of a module that the partition's policy does not list (R418). -/
theorem peerRequest_unlisted {s : State} {q : PeerAsk} {part : Nat} (h : q.inc = s.inc) (ht : peerTarget s q.pa q.op = some part)
    (ha : peerAllowed s part q.mod = false) :
    peerRequest s q = answerPeer s q.mod { code := 0x345, ts := tget 0 s.peerClock (peerPort q.mod) } := by
  simp [peerRequest, h, ht, ha]

/-- A request that is performed for its partition. -/
theorem peerRequest_listed {s : State} {q : PeerAsk} {part : Nat} (h : q.inc = s.inc) (ht : peerTarget s q.pa q.op = some part)
    (ha : peerAllowed s part q.mod = true) :
    peerRequest s q = performPeer s q.mod part q.pa (tget 0 s.peerClock (peerPort q.mod)) q.op := by
  simp [peerRequest, h, ht, ha]

/-- A peer's write at an explicit home. -/
theorem performPeer_store {s : State} {h : Home} {mod part pa : Nat} {ts : Stamp} (bs : List Byte) (hh : homeOf s pa = .ok h)
    (hx : IsExplicit h) (hf : foreignTo s part pa = none) :
    ∃ x, (performPeer s mod part pa ts (.store bs)).mem = Memory.writeN s.mem pa bs ∧
      (performPeer s mod part pa ts (.store bs)).sent = s.sent ++ [(mod, x)] ∧ x.code = 0 := by
  obtain ⟨hs, a, hw, hc⟩ := performWrite_explicit (rc := .normal) (na := false) (pts := ts) (new := bs) hx hf
  have he : performPeer s mod part pa ts (.store bs) = peerReply { s with homes := hs, mem := Memory.writeN s.mem pa bs } mod a := by
    cases h <;> simp only [IsExplicit] at hx <;> simp only [performPeer, hh, peerAccess, hw]
  rw [he]
  exact ⟨_, rfl, rfl, hc⟩

/-- A peer's read at an explicit home. -/
theorem performPeer_load {s : State} {h : Home} {mod part pa : Nat} {ts : Stamp} (n : Nat) (hh : homeOf s pa = .ok h)
    (hx : IsExplicit h) (hf : foreignTo s part pa = none) :
    ∃ x, (performPeer s mod part pa ts (.load n)).mem = s.mem ∧
      (performPeer s mod part pa ts (.load n)).sent = s.sent ++ [(mod, x)] ∧ x.code = 0 ∧ x.data = Memory.readN s.mem pa n := by
  obtain ⟨hs, a, hr, hc, hv⟩ := performRead_explicit (len := n) (rc := .normal) (na := false) (pts := ts) hx hf
  have he : performPeer s mod part pa ts (.load n) = peerReply { s with homes := hs } mod a := by
    cases h <;> simp only [IsExplicit] at hx <;> simp only [performPeer, hh, peerAccess, hr]
  rw [he]
  exact ⟨_, rfl, rfl, hc, hv⟩

/-- An arrival at a barrier without an expected count is dropped, and the home core's control element traps (R168, R379). -/
theorem peerArrive_unset {s : State} {core bar : Nat} (mod count sender : Nat) (ts : Stamp) (h : ((getCore s core).bar bar).expected = 0) :
    (peerArrive s mod core bar count sender ts).sent = s.sent ++ [(mod, { code := 0, ts := ts })] ∧
      (getCore (peerArrive s mod core bar count sender ts) core).trapq = raiseInto (getCore s core).trapq
        { kind := 2, src := 19, cause := 0x140, detail := .ofNat 128 (bar + sender * 2 ^ 16), since := s.cycle } := by
  simp only [peerArrive, h, ↓reduceIte]
  exact ⟨rfl, by simp [answerPeer, raiseTrap, getCore, setCore]⟩

theorem advancePhase_short (fuel : Nat) {b : Barrier} (h : b.arrived < b.expected) : advancePhase fuel b = b := by
  cases fuel with
  | zero => rfl
  | succ n => simp [advancePhase, h]

/-- Arrivals short of the expected count are counted, and the phase stands. -/
theorem Barrier.arrive_short {b : Barrier} {n : Nat} (ts : Stamp) (h : b.arrived + n < b.expected) :
    b.arrive n ts = { b with arrived := b.arrived + n, ts := tsMax b.ts ts } :=
  advancePhase_short _ h

theorem countArrivals_short {s : State} {core bar n : Nat} (ts : Stamp)
    (h : ((getCore s core).bar bar).arrived + n < ((getCore s core).bar bar).expected) :
    (countArrivals s core bar n ts).1 =
      pollWaits (setCore s core ((getCore s core).setBar bar
        { (getCore s core).bar bar with arrived := ((getCore s core).bar bar).arrived + n, ts := tsMax ((getCore s core).bar bar).ts ts })) core := by
  simp [countArrivals, Barrier.arrive_short ts h]

theorem peerArrive_short {s : State} {core bar count : Nat} (mod sender : Nat) (ts : Stamp)
    (h : ((getCore s core).bar bar).arrived + count < ((getCore s core).bar bar).expected) :
    (peerArrive s mod core bar count sender ts).sent = s.sent ++ [(mod, { code := 0, ts := ts })] ∧
      ((getCore (peerArrive s mod core bar count sender ts) core).bar bar).arrived = ((getCore s core).bar bar).arrived + count := by
  have he : ((getCore s core).bar bar).expected ≠ 0 := by omega
  simp only [peerArrive, he, ↓reduceIte, countArrivals_short ts h]
  refine ⟨rfl, ?_⟩
  show ((getCore (setCore s core _) core).bar bar).arrived = _
  rw [getCore_setCore_same, Core.bar_setBar_same]

theorem peerWait_unset {s : State} {core bar : Nat} (mod : Nat) (ph : BitVec 16) (ts : Stamp) (h : ((getCore s core).bar bar).expected = 0) :
    peerWait s mod core bar ph ts = answerPeer s mod { code := 0x140, ts := ts } := by
  simp [peerWait, h]

theorem execRemoteRequest_held {op : PeerOp} {s : State} {mod : BitVec 14} {inc : BitVec 16} {place : PeerPlace} (h : op ≠ .largestMts)
    (hh : peerHeld (raisePeer s mod.toNat place.ts) ⟨mod.toNat, inc, place.pa.toNat, place.ts, op⟩ = true) :
    ∃ t, execRemoteRequest mod inc place op s = .next t ∧ t = { raisePeer s mod.toNat place.ts with
      peerAsks := s.peerAsks ++ [⟨mod.toNat, inc, place.pa.toNat, place.ts, op⟩] } := by
  rw [execRemoteRequest_takes h, takePeer_held hh]
  exact ⟨_, rfl, rfl⟩

/-- A request of a peer that is taken up is answered from the state with the port's clock raised. -/
theorem execRemoteRequest_free {op : PeerOp} {s : State} {mod : BitVec 14} {inc : BitVec 16} {place : PeerPlace} (h : op ≠ .largestMts)
    (hh : peerHeld (raisePeer s mod.toNat place.ts) ⟨mod.toNat, inc, place.pa.toNat, place.ts, op⟩ = false) :
    execRemoteRequest mod inc place op s =
      .next (peerRequest (raisePeer s mod.toNat place.ts) ⟨mod.toNat, inc, place.pa.toNat, place.ts, op⟩) := by
  rw [execRemoteRequest_takes h, takePeer_free hh]

/-! ## Links -/

/-- A lookup in a table whose values are changed in place. -/
theorem tfind_mapVal {α β : Type} (f : Nat → α → β) (t : Tbl α) (i : Nat) :
    tfind (t.map fun e => (e.1, f e.1 e.2)) i = (tfind t i).map (f i) := by
  induction t with
  | nil => rfl
  | cons e t ih =>
    obtain ⟨k, v⟩ := e
    by_cases hk : k = i
    · subst hk; simp [tfind]
    · simpa [tfind, hk] using ih

/-- A change of every listed value that leaves the default as it is changes every value. -/
theorem tget_mapVal {α : Type} {d : α} (f : Nat → α → α) (hd : ∀ k, f k d = d) (t : Tbl α) (i : Nat) :
    tget d (t.map fun e => (e.1, f e.1 e.2)) i = f i (tget d t i) := by
  rw [tget_eq_tfind, tget_eq_tfind, tfind_mapVal]
  cases tfind t i <;> simp [hd]

theorem getCore_mapCores {s : State} (f : Nat → Core → Core) (hf : ∀ k, f k {} = {}) (k : Nat) :
    getCore { s with cores := s.cores.map fun e => (e.1, f e.1 e.2) } k = f k (getCore s k) := tget_mapVal f hf s.cores k

/-- An entry of MP0 to MP3 as a change of the marks of a module's entries leaves it. -/
def Win.remark (w : Win) (mod : Nat) (ok : Win → Bool) : Win := if w.rem ∧ w.mod = mod then { w with mark := ok w } else w

theorem Port.remark_wins (p : Port) (mod : Nat) (ok : Win → Bool) :
    (p.remark mod ok).wins = p.wins.map fun w => (w.1, w.2.remark mod ok) := by
  refine List.map_congr_left fun w _ => ?_
  simp only [Win.remark]
  split <;> rfl

/-- An entry that names a module has the mark that is given, and every other entry is as it was (R412). -/
theorem remark_wins {s : State} (mod : Nat) (ok : Win → Bool) {c q i : Nat} {v : Win} (h : tfind ((getCore s c).port q).wins i = some v) :
    tfind ((getCore (remark s mod ok) c).port q).wins i = some (v.remark mod ok) := by
  have hc : getCore (remark s mod ok) c =
      { getCore s c with ports := (getCore s c).ports.map fun p => (p.1, p.2.remark mod ok) } :=
    getCore_mapCores (fun _ c => { c with ports := c.ports.map fun p => (p.1, p.2.remark mod ok) }) (fun _ => rfl) c
  have hp : (getCore (remark s mod ok) c).port q = ((getCore s c).port q).remark mod ok := by
    rw [hc]
    exact tget_mapVal (fun _ p => Port.remark p mod ok) (fun _ => rfl) _ q
  rw [hp, Port.remark_wins, tfind_mapVal fun _ w => Win.remark w mod ok, h]
  rfl

/-- Where nothing waits for the module, the timeout ends nothing. -/
theorem foldl_awaitsNone (mod : Nat) (l : List (Nat × Req)) (h : ∀ r ∈ l, r.2.awaits mod = 0) (s : State) :
    l.foldl (fun s r => (List.range (r.2.awaits mod)).foldl (fun s _ => onward s (execReplyArrival r.1 (some .lost) s)) s) s = s := by
  induction l with
  | nil => rfl
  | cons r l ih =>
    rw [List.foldl_cons, h r List.mem_cons_self]
    exact ih fun r hr => h r (List.mem_cons_of_mem _ hr)

theorem execLinkTimeout_up {s : State} {mod : BitVec 14} (h : (tget {} s.links mod.toNat : Link).up = true) :
    execLinkTimeout mod s = .next s := by
  simp [execLinkTimeout, h]

theorem execLinkTimeout_idle {s : State} {mod : BitVec 14} (h : (tget {} s.links mod.toNat : Link).up = false)
    (ha : ∀ r ∈ s.reqs, r.2.awaits mod.toNat = 0) : execLinkTimeout mod s = .next (remark s mod.toNat fun _ => false) := by
  simp only [execLinkTimeout, h, Bool.false_eq_true, ↓reduceIte, foldl_awaitsNone _ _ ha]

/-- A single access that waits for the module is answered as lost. -/
theorem execLinkTimeout_one {s : State} {mod : BitVec 14} {id : Nat} {r : Req} (h : (tget {} s.links mod.toNat : Link).up = false)
    (hr : s.reqs = [(id, r)]) (ha : r.awaits mod.toNat = 1) :
    execLinkTimeout mod s =
      .next (onward (remark s mod.toNat fun _ => false) (execReplyArrival id (some .lost) (remark s mod.toNat fun _ => false))) := by
  simp [execLinkTimeout, h, hr, ha]

end Sys2Proof.Machine
end

section
/-! SUPPORT. Partition reset (R415): its steps never give a core a launch, never make an element run, and leave what a partition is; it is
these facts, step by step, that say where a reset leaves the partition's cores and launches. -/

namespace Sys2Proof.Machine

open Sys2Proof

/-! ## What the steps of a reset keep -/

/-- A core that has lost something: it has no launch and no configured element that it did not have. -/
structure Core.Quieter (c d : Core) : Prop where
  launch : c.launch = none → d.launch = none
  run : ∀ i, i ≠ ceIx → (tget {} c.elems i : Elem).run = 0 → (tget {} d.elems i : Elem).run = 0

/-- No core has gained a launch or a configured element, and no partition's cores or resets have changed. -/
structure Quiets (s t : State) : Prop where
  core : ∀ k, (getCore s k).Quieter (getCore t k)
  cores : ∀ p, (getPart t p).cores = (getPart s p).cores
  resets : ∀ p, (getPart t p).resets = (getPart s p).resets

/-- Such a step that leaves the launches alone. -/
structure Clears (s t : State) : Prop extends Quiets s t where
  launches : t.launches = s.launches

/-- Such a step after which a launch that has failed has failed still. -/
structure Fails (s t : State) : Prop extends Quiets s t where
  failed : ∀ l, (getLaunch s l).stage = .failed → (getLaunch t l).stage = .failed

theorem Core.Quieter.of_eq {c d : Core} (hl : d.launch = c.launch) (he : d.elems = c.elems) : c.Quieter d :=
  ⟨fun h => hl.trans h, fun i _ h => by rwa [he]⟩

theorem Core.Quieter.trans {c d e : Core} (h : c.Quieter d) (h' : d.Quieter e) : c.Quieter e :=
  ⟨fun x => h'.launch (h.launch x), fun i hi x => h'.run i hi (h.run i hi x)⟩

theorem Quiets.trans {s t u : State} (h : Quiets s t) (h' : Quiets t u) : Quiets s u :=
  ⟨fun k => (h.core k).trans (h'.core k), fun p => (h'.cores p).trans (h.cores p), fun p => (h'.resets p).trans (h.resets p)⟩

theorem Clears.trans {s t u : State} (h : Clears s t) (h' : Clears t u) : Clears s u :=
  ⟨h.toQuiets.trans h'.toQuiets, h'.launches.trans h.launches⟩

theorem Fails.trans {s t u : State} (h : Fails s t) (h' : Fails t u) : Fails s u :=
  ⟨h.toQuiets.trans h'.toQuiets, fun l x => h'.failed l (h.failed l x)⟩

theorem Clears.fails {s t : State} (h : Clears s t) : Fails s t :=
  ⟨h.toQuiets, fun l x => by rwa [getLaunch, h.launches]⟩

/-- Where cores, partitions and launches stand, nothing is lost. -/
theorem Clears.of_eq {s t : State} (hc : t.cores = s.cores) (hp : t.parts = s.parts) (hl : t.launches = s.launches) : Clears s t :=
  ⟨⟨fun k => .of_eq (by simp [getCore, hc]) (by simp [getCore, hc]), fun p => by simp [getPart, hp], fun p => by simp [getPart, hp]⟩, hl⟩

/-- What lies outside cores, partitions and launches may change. -/
theorem outside_clears (s : State) (ag : List Action) (m : Tbl Byte) (po : List Nat) (sl : Tbl Slice) (rq : Tbl Req) (es : List Edge) (r : Root) :
    Clears s { s with agenda := ag, mem := m, poison := po, slices := sl, reqs := rq, edges := es, root := r } := .of_eq rfl rfl rfl

theorem Clears.refl (s : State) : Clears s s := .of_eq rfl rfl rfl

theorem Clears.setCore (s : State) {k : Nat} {c : Core} (h : (getCore s k).Quieter c) : Clears s (setCore s k c) := by
  refine ⟨⟨fun j => ?_, fun _ => rfl, fun _ => rfl⟩, rfl⟩
  rw [getCore_setCore]
  split
  · next hk => rwa [← hk]
  · exact .of_eq rfl rfl

/-- A core changed in what is neither its launch nor its elements. -/
theorem Clears.setCore_of_eq (s : State) {k : Nat} {c : Core} (hl : c.launch = (getCore s k).launch)
    (he : c.elems = (getCore s k).elems) : Clears s (Machine.setCore s k c) :=
  .setCore s (.of_eq hl he)

/-- Every core changed in place, one that is not listed by nothing. -/
theorem Clears.of_mapCores {s t : State} {f : Nat × Core → Core} (hc : t.cores = s.cores.map fun e => (e.1, f e))
    (hp : t.parts = s.parts) (hl : t.launches = s.launches) (hf : ∀ k, f (k, {}) = {}) (h : ∀ e : Nat × Core, e.2.Quieter (f e)) :
    Clears s t := by
  refine ⟨⟨fun k => ?_, fun p => by simp [getPart, hp], fun p => by simp [getPart, hp]⟩, hl⟩
  have ht : getCore t k = f (k, getCore s k) := by
    rw [getCore, hc]
    exact tget_mapVal (fun k c => f (k, c)) hf s.cores k
  rw [ht]
  exact h (k, _)

theorem Clears.setElem (s : State) {u : UnitId} {e : Elem} (h : e.estat = (Machine.getElem s u).estat) :
    Clears s (setElem s u e) := by
  refine .setCore s ⟨id, fun i _ hr => ?_⟩
  rw [tget_tput]
  split
  · next hi => subst hi; rwa [Elem.run, h]
  · exact hr

theorem Clears.setPart' (s : State) {p : Nat} {x : Partition} (hc : x.cores = (getPart s p).cores)
    (hr : x.resets = (getPart s p).resets) :
    Clears s (setPart' s p x) := by
  refine ⟨⟨fun _ => .of_eq rfl rfl, fun q => ?_, fun q => ?_⟩, rfl⟩
  all_goals
    rw [getPart_setPart']
    split
  · next hq => rw [hc, hq]
  · rfl
  · next hq => rw [hr, hq]
  · rfl

theorem Fails.setLaunch (s : State) {l : Nat} {x : Launch} (h : (getLaunch s l).stage = .failed → x.stage = .failed) :
    Fails s (setLaunch s l x) := by
  refine ⟨⟨fun _ => .of_eq rfl rfl, fun _ => rfl, fun _ => rfl⟩, fun j hj => ?_⟩
  simp only [getLaunch, Machine.setLaunch, tget_tput]
  split
  · next hl => exact h (hl ▸ hj)
  · exact hj

theorem Clears.foldl {α : Type} {f : State → α → State} (hf : ∀ s a, Clears s (f s a)) (l : List α) (s : State) : Clears s (l.foldl f s) := by
  induction l generalizing s with
  | nil => exact .refl s
  | cons a l ih => exact (hf s a).trans (ih _)

theorem Fails.foldl {α : Type} {f : State → α → State} (hf : ∀ s a, Fails s (f s a)) (l : List α) (s : State) : Fails s (l.foldl f s) := by
  induction l generalizing s with
  | nil => exact (Clears.refl s).fails
  | cons a l ih => exact (hf s a).trans (ih _)

/-- What one step of a row of steps brings about and every step keeps holds at the end. -/
theorem foldl_establishes {α σ : Type} {f : σ → α → σ} {P : σ → Prop} {a : α} (hest : ∀ s, P (f s a)) (hkeep : ∀ s b, P s → P (f s b))
    {l : List α} (ha : a ∈ l) (s : σ) : P (l.foldl f s) := by
  have keep (l : List α) (s : σ) (h : P s) : P (l.foldl f s) := by
    induction l generalizing s with
    | nil => exact h
    | cons b l ih => exact ih _ (hkeep s b h)
  induction l generalizing s with
  | nil => simp at ha
  | cons b l ih =>
    rcases List.mem_cons.mp ha with rfl | hm
    · exact keep l _ (hest s)
    · exact ih hm _

/-! ## Elements become Unconfigured -/

theorem cancelFlight_estat (e : Elem) (f : Flight) : (cancelFlight e f).estat = e.estat := by
  have hin (e : Elem) : (([0, 1, 2, 3] : List (Fin 4)).foldl (fun (e : Elem) (n : Fin 4) =>
      if f.consume.getLsbD n then let c := e.inCh n; e.setIn n { c with reserved := c.reserved - 1 } else e) e).estat = e.estat :=
    foldl_keeps Elem.estat _ (fun e n => by dsimp only; split <;> rfl) _ e
  have hout (e : Elem) : (f.outs.foldl (fun (e : Elem) o =>
      let c := e.outCh o.1; e.setOut o.1 { c with q := c.q.filter (·.ticket ≠ o.2) }) e).estat = e.estat :=
    foldl_keeps Elem.estat (fun (e : Elem) (o : Fin 4 × Nat) =>
      let c := e.outCh o.1; e.setOut o.1 { c with q := c.q.filter (·.ticket ≠ o.2) }) (fun _ _ => rfl) _ e
  exact (hout _).trans (hin e)

theorem giveUpEntries_quieter (c : Core) (f : Flight) : c.Quieter (giveUpEntries c f) := by
  have hl : (giveUpEntries c f).launch = c.launch := foldl_keeps Core.launch _ (fun c a => by cases a <;> rfl) _ c
  have he : (giveUpEntries c f).elems = c.elems := foldl_keeps Core.elems _ (fun c a => by cases a <;> rfl) _ c
  exact .of_eq hl he

theorem cancelAll_clears (s : State) (u : UnitId) : Clears s (cancelAll s u) := by
  have hr (fs : List Flight) (e : Elem) : (fs.foldl cancelFlight e).estat = e.estat :=
    foldl_keeps Elem.estat _ cancelFlight_estat fs e
  have hq (fs : List Flight) (c : Core) : c.Quieter (fs.foldl giveUpEntries c) := by
    induction fs generalizing c with
    | nil => exact .of_eq rfl rfl
    | cons f fs ih => exact (giveUpEntries_quieter c f).trans (ih _)
  have he : Clears s (Machine.setElem s u { (Machine.getElem s u).flights.reverse.foldl cancelFlight (Machine.getElem s u) with flights := [] }) :=
    .setElem s (hr _ _)
  exact he.trans (.setCore _ (hq _ _))

theorem unconfigure_clears (s : State) (u : UnitId) : Clears s (unconfigure s u) := by
  have hgone (c : Core) : c.Quieter { c with elems := tdel c.elems u.ix } := by
    refine ⟨id, fun i _ hr => ?_⟩
    by_cases hi : u.ix = i
    · subst hi; rw [tget_tdel_same]; rfl
    · rwa [tget_tdel_of_ne _ _ hi]
  refine (cancelAll_clears s u).trans ((Clears.setCore _ (k := u.core) (hgone _)).trans ?_)
  exact Clears.of_mapCores (hc := rfl) rfl rfl (fun _ => rfl) fun _ => .of_eq rfl rfl

/-! ## Cores leave their launch -/

/-- A log entry moves its partition's log on, and no more of the partition. -/
theorem appendLog_clears (s : State) (part lo hi core src : Nat) : Clears s (appendLog s part lo hi core src) := by
  simp only [appendLog]
  split
  · exact .setPart' s rfl rfl
  · generalize Memory.writeN _ _ _ = m
    refine .trans ?_ (.setPart' _ rfl rfl)
    exact outside_clears ..

theorem depositWin_clears (s : State) (core port k : Nat) : Clears s (depositWin s core port k) := by
  simp only [depositWin]
  split
  · refine .trans ?_ (appendLog_clears ..)
    exact .setCore_of_eq s rfl rfl
  · exact .refl s

theorem depositWins_clears (s : State) (core : Nat) (ps ks : List Nat) :
    Clears s (ps.foldl (fun s p => ks.foldl (fun s k => depositWin s core p k) s) s) :=
  .foldl (fun _ _ => .foldl (fun _ _ => depositWin_clears ..) _ _) _ _

theorem depositCore_clears (s : State) (core : Nat) : Clears s (depositCore s core) := by
  have hw := depositWins_clears s core (List.range 4) (List.range 16)
  unfold depositCore
  generalize List.foldl _ s (List.range 4) = t at hw ⊢
  dsimp only
  split
  · refine .trans ?_ (appendLog_clears ..)
    exact hw.trans (.setCore_of_eq _ rfl rfl)
  · exact hw

theorem clearWindows_clears (s : State) (core : Nat) : Clears s (clearWindows s core) := by
  have hp (ns : List Nat) (c : Core) : c.Quieter (ns.foldl (fun c n => c.setPort n { c.port n with wins := [] }) c) :=
    .of_eq (foldl_keeps Core.launch (fun c n => c.setPort n { c.port n with wins := [] }) (fun _ _ => rfl) ns c)
      (foldl_keeps Core.elems (fun c n => c.setPort n { c.port n with wins := [] }) (fun _ _ => rfl) ns c)
  exact (depositCore_clears s core).trans (.setCore _ (hp _ _))

/-- A core that has left its launch. -/
theorem leave_quieter (c : Core) (bars : Tbl Barrier) (ports : Tbl Port) :
    c.Quieter { c with launch := none, lte := none, bars := bars, ports := ports } := ⟨fun _ => rfl, fun _ _ => id⟩

theorem leaveCore_clears (s : State) (core : Nat) : Clears s (leaveCore s core) := by
  have hw := clearWindows_clears s core
  unfold leaveCore
  generalize clearWindows s core = t at hw ⊢
  refine .trans ?_ (.setCore _ (leave_quieter ..))
  exact hw.trans (.of_eq rfl rfl rfl)

/-- A core as a reset leaves it: without a launch, every element Unconfigured. -/
def Core.Quiet (c : Core) : Prop := c.launch = none ∧ ∀ i, i ≠ ceIx → (tget {} c.elems i : Elem).run = 0

theorem Core.Quiet.mono {c d : Core} (h : c.Quiet) (hq : c.Quieter d) : d.Quiet := ⟨hq.launch h.1, fun i hi => hq.run i hi (h.2 i hi)⟩

theorem clearCore_clears (s : State) (core : Nat) : Clears s (clearCore s core) := by
  have hout (c : Core) (n : Node) : c.Quieter { freshCore c 0 0 with launch := none, mn := n } := ⟨fun _ => rfl, fun _ _ _ => rfl⟩
  have hel : Clears s (((getCore s core).elems.map (·.1)).foldl (fun s u => unconfigure s ⟨core, u⟩) s) :=
    .foldl (fun _ _ => unconfigure_clears ..) _ s
  simp only [clearCore]
  refine .trans ?_ (.setCore _ (hout _ _))
  refine .trans ?_ (leaveCore_clears ..)
  exact hel.trans (.of_eq rfl rfl rfl)

theorem clearCore_quiet (s : State) (core : Nat) : (getCore (clearCore s core) core).Quiet := by
  simp only [clearCore, getCore_setCore_same]
  exact ⟨rfl, fun _ _ => rfl⟩

/-! ## Translations and dirty lines -/

theorem dropLeaves_clears (s : State) (part : Nat) (f : Leaf → Bool) : Clears s (dropLeaves s part f) := by
  refine Clears.of_mapCores (f := fun k => if k.2.part = some part then
    k.2.setPort 0 { k.2.port 0 with tlb := (k.2.port 0).tlb.filter fun l => !f l } else k.2) ?_ rfl rfl (fun _ => rfl) fun e => ?_
  · refine List.map_congr_left fun k _ => ?_
    split <;> rfl
  · dsimp only
    split <;> exact .of_eq rfl rfl

theorem storeLine_clears (s : State) (n addr : Nat) (data side : List Byte) : Clears s (storeLine s n addr data side) := by
  simp only [storeLine]
  repeat' split
  all_goals exact .of_eq rfl rfl rfl

theorem setSlice_clears (s : State) (n : Nat) (x : Slice) : Clears s (setSlice s n x) := .of_eq rfl rfl rfl

theorem evict_clears (s : State) (n key : Nat) : Clears s (evict s n key) := by
  simp only [evict]
  split
  · exact .refl s
  · split
    · exact (storeLine_clears ..).trans (setSlice_clears ..)
    · exact setSlice_clears ..

theorem flushPart_clears (s : State) (part : Nat) (failing : Option Nat) : Clears s (flushPart s part failing) := by
  refine .foldl (fun s n => ?_) _ s
  dsimp only
  split
  · exact .of_eq rfl rfl rfl
  · exact .foldl (fun _ _ => evict_clears ..) _ _

/-! ## Launches fail -/

theorem writeSink_clears (s : State) (u : UnitId) (k : Sink) (v : Quad) : Clears s (writeSink s u k v) := by
  simp only [writeSink]
  split
  case h_7 | h_8 | h_9 => exact .refl s
  all_goals exact .setElem s (by simp)

theorem refuseRewire_clears (s : State) (r : Rewire) (reason : Nat) (version : Word) : Clears s (refuseRewire s r reason version) := by
  simp only [refuseRewire]
  repeat' split
  · exact .refl s
  · exact writeSink_clears ..
  · exact .refl s

theorem dropRewires_fails (s : State) (l : Nat) : Fails s (dropRewires s l) :=
  (Clears.foldl (fun _ _ => refuseRewire_clears ..) _ s).fails.trans (.setLaunch _ id)

theorem unconfigureLaunch_clears (s : State) (l : Nat) : Clears s (unconfigureLaunch s l) := by
  simp only [unconfigureLaunch]
  refine .trans ?_ (outside_clears ..)
  refine .foldl (fun s core => ?_) _ s
  refine .trans ?_ (.setCore_of_eq _ rfl rfl)
  exact .foldl (fun _ _ => unconfigure_clears ..) _ _

theorem reapLaunch_fails (s : State) (l : Nat) : Fails s (reapLaunch s l) := by
  refine (Clears.foldl (fun s core => ?_) _ s).fails.trans (.setLaunch _ id)
  split
  · exact leaveCore_clears ..
  · exact .refl s

theorem nextUp_clears (s : State) (is : List Instr) : Clears s (nextUp s is) := .of_eq rfl rfl rfl

theorem tell_clears (s : State) (st : Status) : Clears s (tell s st) := .of_eq rfl rfl rfl

/-- A launch of a partition that is reset as it stands when it has failed. -/
def Launch.asFailed (x : Launch) : Launch :=
  { x.untabled with stage := .failed, kerf := none, saved := [], pads := [], clus := [], monitors := [], imaged := false }

/-- The steps of a failing launch before and after its stage is set. -/
theorem failLaunch_eq (s : State) (l : Nat) (cause : Cause) (detail : Quad) :
    ∃ t, Fails s t ∧ Fails (setLaunch t l (getLaunch t l).asFailed) (failLaunch s l cause false detail) := by
  refine ⟨unconfigureLaunch (dropRewires s l) l, (dropRewires_fails s l).trans (unconfigureLaunch_clears ..).fails, ?_⟩
  simp only [failLaunch, Bool.false_eq_true, ↓reduceIte]
  refine .trans ?_ (nextUp_clears ..).fails
  refine .trans ?_ (reapLaunch_fails ..)
  refine .trans ?_ (tell_clears ..).fails
  refine Clears.fails (.foldl (fun s core => ?_) _ _)
  exact .setCore_of_eq s rfl rfl

theorem failLaunch_fails (s : State) (l : Nat) (cause : Cause) (detail : Quad) : Fails s (failLaunch s l cause false detail) := by
  obtain ⟨t, h, h'⟩ := failLaunch_eq s l cause detail
  exact h.trans ((Fails.setLaunch t fun _ => rfl).trans h')

theorem failLaunch_failed (s : State) (l : Nat) (cause : Cause) (detail : Quad) :
    (getLaunch (failLaunch s l cause false detail) l).stage = .failed := by
  obtain ⟨t, -, h⟩ := failLaunch_eq s l cause detail
  refine h.failed l ?_
  simp [getLaunch, setLaunch, Launch.asFailed]

/-! ## The reset (R415) -/

theorem mem_of_tfind {α : Type} {t : Tbl α} {i : Nat} {x : α} (h : tfind t i = some x) : (i, x) ∈ t := by
  induction t with
  | nil => simp [tfind] at h
  | cons e t ih =>
    obtain ⟨k, v⟩ := e
    simp only [tfind] at h
    split at h
    · next hk => simp_all
    · exact List.mem_cons_of_mem _ (ih h)

/-- The launches of a partition that have not ended. -/
def openLaunches (s : State) (part : Nat) : List Nat := (s.launches.filter fun e => e.2.part = part && !ended e.2).map (·.1)

theorem mem_openLaunches {s : State} {part l : Nat} {x : Launch} (hf : tfind s.launches l = some x) (hp : x.part = part)
    (hc : x.stage ≠ .complete) (hn : x.stage ≠ .failed) : l ∈ openLaunches s part :=
  List.mem_map.mpr ⟨(l, x), List.mem_filter.mpr ⟨mem_of_tfind hf, by simp [hp, ended, hc, hn]⟩, rfl⟩

/-- A reset clears the partition's cores, drops its translations and writes back its lines; then its launches fail, and it is counted. -/
theorem resetPartition_eq (s : State) (part : Nat) (cause : Cause) (failing : Option Nat) :
    ∃ t, Clears ((partCores s part).foldl clearCore s) t ∧
      resetPartition s part cause failing =
        (let u := (openLaunches t part).foldl (fun s l => failLaunch s l cause false 0) t
         tellCode (setPart' u part { getPart u part with resets := min 0xFFFF ((getPart u part).resets + 1) }) cause) :=
  ⟨_, (dropLeaves_clears ..).trans (flushPart_clears ..), rfl⟩

/-- What a reset comes to for the partition, its cores and its launches. -/
theorem resetPartition_resets (s : State) (part : Nat) (cause : Cause) (failing : Option Nat) :
    let t := resetPartition s part cause failing
    (getPart t part).resets = min 0xFFFF ((getPart s part).resets + 1) ∧ (getPart t part).cores = (getPart s part).cores ∧
      (∀ c ∈ partCores s part, (getCore t c).Quiet) ∧ (∀ l ∈ openLaunches s part, (getLaunch t l).stage = .failed) := by
  obtain ⟨t, ht, he⟩ := resetPartition_eq s part cause failing
  have hcores : Clears s ((partCores s part).foldl clearCore s) := .foldl clearCore_clears _ s
  have hopen : openLaunches t part = openLaunches s part := by simp [openLaunches, (hcores.trans ht).launches]
  have hfail : Fails t ((openLaunches t part).foldl (fun s l => failLaunch s l cause false 0) t) :=
    .foldl (fun _ _ => failLaunch_fails ..) _ t
  have hall := (hcores.trans ht).fails.trans hfail
  rw [he, ← hopen]
  refine ⟨?_, ?_, fun c hc => ?_, fun l hl => ?_⟩
  · show (getPart (setPart' _ part _) part).resets = _
    rw [getPart_setPart'_same, hall.resets]
  · show (getPart (setPart' _ part _) part).cores = _
    rw [getPart_setPart'_same]
    exact hall.cores part
  · have hq : (getCore ((partCores s part).foldl clearCore s) c).Quiet :=
      foldl_establishes (P := fun s => (getCore s c).Quiet) (fun s => clearCore_quiet s c)
        (fun s k h => Core.Quiet.mono h ((clearCore_clears s k).core c)) hc s
    exact hq.mono ((ht.fails.trans hfail).core c)
  · exact foldl_establishes (f := fun s l => failLaunch s l cause false 0) (P := fun s => (getLaunch s l).stage = .failed)
      (fun s => failLaunch_failed s l cause 0) (fun s k h => (failLaunch_fails s k cause 0).failed l h) hl t

/-! ## A failed slice (R225) -/

theorem endWalk_slices (s : State) (core slot : Nat) (w : Walk) (status cause ucode : Nat) (record : List Byte) :
    (endWalk s core slot w status cause ucode record).slices = s.slices := by
  unfold endWalk
  extract_lets
  split <;> rfl

theorem loseWalks_slices (s : State) (n : Nat) : (loseWalks s n).slices = s.slices := by
  refine foldl_keeps State.slices _ (fun s k => foldl_keeps State.slices _ (fun s w => ?_) _ s) _ s
  split
  · exact endWalk_slices ..
  · rfl

/-! ## Errors (R415) -/

theorem execSoftError_one {s : State} {part : Nat} (h : (getPart s part).used = true) :
    execSoftError [part] s = .next (setPart' s part { getPart s part with soft := (getPart s part).soft + 1 }) := by
  simp [execSoftError, h]

/-- An uncorrectable error in what only a partition uses resets that partition. -/
theorem execUncorrectableError_part {s : State} {part : Nat} (h : (getPart s part).used = true) :
    execUncorrectableError (.part part) s = .next (resetPartition s part 0x3C0 none) := by
  simp [execUncorrectableError, h]

theorem execUncorrectableError_unused {s : State} {part : Nat} (h : (getPart s part).used = false) :
    execUncorrectableError (.part part) s = .next s := by
  simp [execUncorrectableError, h]

theorem execUncorrectableError_slice (s : State) (n : Nat) :
    ∃ t, execUncorrectableError (.slice n) s = .next t ∧ (getSlice t n).failed = true := by
  refine ⟨_, rfl, ?_⟩
  rw [getSlice, loseWalks_slices]
  exact congrArg Slice.failed (getSlice_setSlice_same ..)

/-- A router that no partition's network crosses takes nothing with it (log entry 51). -/
theorem execUncorrectableError_router {s : State} {n : Nat} (h : ∀ e ∈ s.parts, e.2.used = true → n ∉ networkOf s e.2) :
    execUncorrectableError (.router n) s = .next s := by
  have hp : (s.parts.filter fun e => e.2.used && (networkOf s e.2).contains n) = [] :=
    List.filter_eq_nil_iff.mpr fun e he => by
      simp only [Bool.and_eq_true, List.contains_iff_mem, not_and]
      exact h e he
  simp only [execUncorrectableError, hp, List.map_nil, List.foldl_nil]

end Sys2Proof.Machine
end

section
/-! PROOF. What comes in from outside: the host, peers and errors. -/

open Sys2Proof Sys2Proof.Machine Sys2Proof.Claims

/-- Settles O60, clause by clause: the host's requests by what a link's access does on its way and at an explicit home, peers by the order of
R412 and R418, links by the entries' marks, and errors by what every step of a partition's reset keeps. -/
theorem hostPeersAndErrors : Obligations.HostPeersAndErrors := by
  unfold Obligations.HostPeersAndErrors
  intro s port tdi pa n k bs part src base rel w tag mod inc a ts op ps h id r q p d told bell inLine trip way port' now ask replied marks
  have htrip (h : Home) : hostTravel port h = trip h := hostTravel_port port h
  refine ⟨?_, ?_, ?_, ?_, ?_, ?_, ?_, ?_, ?_, ?_, ?_, ?_, ?_, ?_, ?_, ?_, ?_, ?_, ?_, ?_, ?_, ?_, ?_⟩
  -- HOST_WRITE and HOST_READ of memory
  · intro hh hx hn
    refine ⟨fun ⟨h0, hl⟩ => ?_, fun ⟨h0, hl⟩ => ?_⟩
    · obtain ⟨ht, r, hr, hlk, ho, htag, hp, hq⟩ := hostSend_travels port (hostWorld s tdi) .store bs hh hx
      exact ⟨_, execHostWrite_line _ hn h0 hl, ht, r, _, hr, hlk, ho, htag, hp, hq, rfl, rfl, rfl,
        congrArg (Phase.travelling <| s.cycle + ·) (htrip h), fun _ => hostAccess_operand ..⟩
    · obtain ⟨ht, r, hr, hlk, ho, htag, hp, hq⟩ := hostSend_travels port (hostWorld s tdi) .load (List.replicate n 0) hh hx
      exact ⟨_, execHostRead_line _ h0 hl, ht, r, _, hr, hlk, ho, htag, hp, hq, rfl, List.length_replicate, rfl,
        congrArg (Phase.travelling <| s.cycle + ·) (htrip h), nofun⟩
  · rintro hn ⟨h0, hl⟩
    exact execHostWrite_own _ hn h0 hl
  -- at an explicit home
  · intro ha hlk ho hx
    refine ⟨fun hd hb => ?_, fun hd => ?_⟩
    · have hp : q.operand = leBytes q.n q.data.toNat := by simp [Part.operand, hb]
      obtain ⟨r', q', h⟩ := arriveHome_hostStore ha hlk ho hx hd
      rw [← hp, ← htrip]
      exact ⟨_, r', q', rfl, h⟩
    · obtain ⟨r', q', h⟩ := arriveHome_hostWaits ha hlk ho hx hd
      exact ⟨_, r', q', rfl, h⟩
  -- the answer
  · intro hr hlk hp hd
    have he := execReplyArrival_host hr hlk hp hd
    refine ⟨fun c va hc => ?_, fun hc ho => ?_, fun hc ho hq hb => ?_⟩
    · rw [hostReply_refused _ hc] at he
      exact ⟨_, he, ⟨tfind_tdel_same .., rfl, rfl⟩, rfl⟩
    · rw [hostReply_written _ hc ho] at he
      exact ⟨_, he, ⟨tfind_tdel_same .., rfl, rfl⟩, rfl⟩
    · rw [hostReply_read _ hc ho hq hb] at he
      exact ⟨_, he, ⟨tfind_tdel_same .., rfl, rfl⟩, rfl⟩
  -- doorbells
  · rintro rfl hu ht hs
    exact ⟨⟨_, execHostWrite_staging port src hu ht w hs, getPart_setPart'_same .., rfl⟩, fun v => rfl,
      ⟨_, execHostRead_doorbell port src hu ht, rfl, rfl⟩, ⟨_, execHostRead_payload port src hu ht, rfl, rfl⟩,
      ⟨_, execHostRead_trigger port src hu ht, rfl, rfl⟩⟩
  · intro hu hs
    obtain ⟨t, he, hm, hp⟩ := execDoorbellTrigger_rings tag hu hs
    refine ⟨fun hr hi => ?_, fun hn => ?_⟩
    · rw [rung_heard tag hr hi] at hp
      exact ⟨t, he, hm, hp⟩
    · rw [rung_dropped tag hn] at hp
      exact ⟨t, he, hm, hp⟩
  · exact execDoorbellTrigger_elsewhere tag
  -- the egress ring
  · intro hu hb h6 h16 hlo hhi
    exact ⟨_, execEgressRingSetup_sets hu hb h6 h16 hlo hhi, getPart_setPart'_same ..⟩
  · exact execEgressRingSetup_refuses s part
  · intro hlo hhi
    exact ⟨_, execEgressHeadWrite_frees hlo hhi, getPart_setPart'_same ..⟩
  · exact execEgressHeadWrite_refuses
  -- peers
  · intro ho hh
    exact execRemoteRequest_held (place := ⟨a, ts⟩) ho hh
  · intro ho hh
    have he := execRemoteRequest_free (place := ⟨a, ts⟩) ho hh
    refine ⟨fun hi => ?_, fun hi ht ha => ?_, fun hi ht ha => ?_⟩
    · exact ⟨_, he.trans (congrArg Host.Outcome.next (peerRequest_stale hi)), rfl⟩
    · exact ⟨_, he.trans (congrArg Host.Outcome.next (peerRequest_unlisted hi ((peerTarget_raisePeer ..).trans ht) ha)), rfl⟩
    · have hp := he.trans (congrArg Host.Outcome.next (peerRequest_listed hi ((peerTarget_raisePeer ..).trans ht) ha))
      refine ⟨fun hm hx hf => ⟨?_, ?_⟩, ?_, ?_⟩
      · rintro rfl
        obtain ⟨x, h⟩ := performPeer_store (s := port') bs hm hx hf
        exact ⟨_, x, hp, h⟩
      · rintro rfl
        obtain ⟨x, h⟩ := performPeer_load (s := port') n hm hx hf
        exact ⟨_, x, hp, h⟩
      · rintro core bar count sender rfl
        refine ⟨fun hb => ⟨_, hp, ?_⟩, fun hb => ⟨_, hp, ?_⟩⟩
        · exact peerArrive_unset (s := port') _ _ _ _ hb
        · exact peerArrive_short (s := port') _ _ _ hb
      · rintro core bar ph rfl hb
        exact ⟨_, hp, peerWait_unset (s := port') _ _ _ hb⟩
  -- links
  · exact ⟨_, rfl, congrArg Link.up (tget_tput_same ..), rfl, fun c q i v hv => remark_wins _ _ hv⟩
  · exact execLinkTimeout_up
  · intro hd ha
    exact ⟨_, execLinkTimeout_idle hd ha, rfl, fun c q i v hv => remark_wins _ _ hv⟩
  · intro id r t hd hr ha he
    exact (execLinkTimeout_one hd hr ha).trans (by rw [← exec_replyArrival, he]; rfl)
  · exact ⟨_, rfl, tget_tput_same .., rfl, fun c q i v hv => remark_wins _ _ hv⟩
  -- errors
  · rintro rfl hu
    exact ⟨_, execSoftError_one hu, getPart_setPart'_same .., rfl⟩
  · intro hu
    obtain ⟨hn, hc, hq, hl⟩ := resetPartition_resets s part 0x3C0 none
    refine ⟨_, execUncorrectableError_part hu, hn, hc, fun c hc hp => ?_, fun l x hf hp h1 h2 => ?_⟩
    · exact hq c (List.mem_filter.mpr ⟨hc, decide_eq_true hp⟩)
    · exact hl l (mem_openLaunches hf hp h1 h2)
  · exact execUncorrectableError_unused
  · exact execUncorrectableError_slice s n
  · exact execUncorrectableError_router
end

section
/-! SUPPORT. The root's checks of a command (R416, R440): its session, its authentication and its number, before anything of its own happens. -/

namespace Sys2Proof.RootCommands

open Sys2Proof
open Sys2Proof.Machine hiding Accepted numbered

/-! ## The checks -/

section
variable {s : State} {c : RootCmd} {may : Bool} {q : Prop} (act : State → State)

theorem command_closed (h : commandsOpen s = false) : command s c may act = .next s := by simp [command, h]

theorem command_unknown (ho : commandsOpen s = true) (h : tfind s.root.sessions c.session = none) :
    command s c may act = .next (tellCode s 0x347) := by
  simp [command, ho, h]

theorem command_stale {n : Dword} (ho : commandsOpen s = true) (hs : tfind s.root.sessions c.session = some n) (ha : c.auth = true)
    (hm : may = true) (hn : c.seq ≤ n) : command s c may act = .next (tellCode s 0x348) := by
  simp [command, ho, hs, ha, hm, hn]

theorem command_unauthentic (ho : commandsOpen s = true) (ha : c.auth = false) : command s c may act = .next (tellCode s 0x347) := by
  simp only [command, ho, ha]
  cases tfind s.root.sessions c.session <;> simp

theorem command_forbidden (ho : commandsOpen s = true) (hm : may = false) : command s c may act = .next (tellCode s 0x347) := by
  simp only [command, ho, hm]
  cases tfind s.root.sessions c.session <;> simp

theorem accepted_open (h : Accepted s c q) : commandsOpen s = true := h.1

/-- The session of an accepted command may give it. -/
theorem accepted_may (h : Accepted s c q) : q := h.2.2.1

/-- A command that passes the checks acts on the state in which its number is taken. -/
theorem command_accepted (h : Accepted s c q) (hm : may = true) : command s c may act = .next (act (numbered s c)) := by
  obtain ⟨ho, ha, -, n, hs, hn⟩ := h
  have hn' : ¬ c.seq ≤ n := BitVec.not_le.mpr hn
  simp [command, ho, ha, hs, hm, hn', numbered]

theorem command_ofTenant (h : Accepted s c (c.session ≠ 0)) : command s c (tenant c) act = .next (act (numbered s c)) :=
  command_accepted act h (decide_eq_true (accepted_may h))

theorem command_ofHypervisor (h : Accepted s c (c.session = 0)) : command s c (hypervisor c) act = .next (act (numbered s c)) :=
  command_accepted act h (decide_eq_true (accepted_may h))

theorem command_ofAny (h : Accepted s c q) : command s c true act = .next (act (numbered s c)) := command_accepted act h rfl

end

/-! ## The commands -/

section
variable {s : State} {c : RootCmd} {h : Nat} {o sig : List Byte} {args : List Dword} {v : Dword} {budget : BitVec 32} {peer : Bool}
  {spec : CreateSpec} {i : Instr}

/-- A tenant's commands. -/
theorem tenantCommand_isCommand (hi : i = .rootLoad c o ∨ i = .launch c h args ∨ i = .resumeBudget c h budget ∨ i = .policyRegister c h sig) :
    ∃ act, exec i s = command s c (tenant c) act := by
  obtain rfl | rfl | rfl | rfl := hi
  · exact ⟨_, exec_rootLoad ..⟩
  · exact ⟨_, exec_launch ..⟩
  · exact ⟨_, exec_resumeBudget ..⟩
  · exact ⟨_, exec_policyRegister ..⟩

/-- The hypervisor's commands on partitions. -/
theorem hypervisorCommand_isCommand
    (hi : i = .create c spec ∨ i = .destroy c h ∨ i = .qset c h v ∨ i = .harvest c h ∨ i = .keyExport c h peer) :
    ∃ act, exec i s = command s c (hypervisor c) act := by
  obtain rfl | rfl | rfl | rfl | rfl := hi
  · exact ⟨_, exec_create ..⟩
  · exact ⟨_, exec_destroy ..⟩
  · exact ⟨_, exec_qset ..⟩
  · exact ⟨_, exec_harvest ..⟩
  · exact ⟨_, exec_keyExport ..⟩

/-- Every command passes the checks before it acts. -/
theorem given_isCommand
    (hi : i = .rootLoad c o ∨ i = .launch c h args ∨ i = .resumeBudget c h budget ∨ i = .policyRegister c h sig ∨ i = .create c spec ∨
      i = .destroy c h ∨ i = .pause c h ∨ i = .launchResume c h ∨ i = .evict c h ∨ i = .qset c h v ∨ i = .harvest c h ∨
      i = .keyExport c h peer) :
    ∃ may act, exec i s = command s c may act := by
  obtain rfl | rfl | rfl | rfl | rfl | rfl | rfl | rfl | rfl | rfl | rfl | rfl := hi
  · exact ⟨_, _, exec_rootLoad ..⟩
  · exact ⟨_, _, exec_launch ..⟩
  · exact ⟨_, _, exec_resumeBudget ..⟩
  · exact ⟨_, _, exec_policyRegister ..⟩
  · exact ⟨_, _, exec_create ..⟩
  · exact ⟨_, _, exec_destroy ..⟩
  · exact ⟨_, _, exec_pause ..⟩
  · exact ⟨_, _, exec_launchResume ..⟩
  · exact ⟨_, _, exec_evict ..⟩
  · exact ⟨_, _, exec_qset ..⟩
  · exact ⟨_, _, exec_harvest ..⟩
  · exact ⟨_, _, exec_keyExport ..⟩

end

/-! ## The state once a number is taken -/

section
variable (s : State) (c : RootCmd)

@[simp] theorem numbered_mem : (numbered s c).mem = s.mem := rfl
@[simp] theorem numbered_parts : (numbered s c).parts = s.parts := rfl
@[simp] theorem numbered_launches : (numbered s c).launches = s.launches := rfl
@[simp] theorem numbered_objects : (numbered s c).root.objects = s.root.objects := rfl
@[simp] theorem numbered_policies : (numbered s c).root.policies = s.root.policies := rfl
@[simp] theorem numbered_harvests : (numbered s c).root.harvests = s.root.harvests := rfl
@[simp] theorem getPart_numbered (p : Nat) : getPart (numbered s c) p = getPart s p := rfl
@[simp] theorem partCores_numbered (p : Nat) : partCores (numbered s c) p = partCores s p := rfl
@[simp] theorem policyOf_numbered (h : Nat) : policyOf (numbered s c) h = policyOf s h := rfl
@[simp] theorem foreignPolicy_numbered (n h : Nat) : foreignPolicy (numbered s c) n h = foreignPolicy s n h := rfl
@[simp] theorem launchPolicy_numbered (x : Launch) : launchPolicy (numbered s c) x = launchPolicy s x := rfl
@[simp] theorem namedPart_numbered (d : RootCmd) (h : Nat) : namedPart (numbered s c) d h = namedPart s d h := rfl
@[simp] theorem feature_numbered (n : Nat) : feature (numbered s c) n = feature s n := rfl
@[simp] theorem createOk_numbered (x : CreateSpec) : createOk (numbered s c) x = createOk s x := rfl
@[simp] theorem freePart_numbered : freePart (numbered s c) = freePart s := rfl

end

/-! ## Statuses -/

@[simp] theorem tell_mem (s : State) (st : Status) : (tell s st).mem = s.mem := rfl
@[simp] theorem getPart_tell (s : State) (st : Status) (p : Nat) : getPart (tell s st) p = getPart s p := rfl

end Sys2Proof.RootCommands
end

section
/-! SUPPORT. Objects, policies and submissions at the root (R81, R82, R416 to R418): ROOT_LOAD, POLICY_REGISTER, LAUNCH and RESUME_BUDGET. -/

namespace Sys2Proof.RootCommands

open Sys2Proof
open Sys2Proof.Machine hiding Accepted numbered

/-! ## Policies (R81, R417) -/

theorem foreignPolicy_of_ne {s : State} {session h : Nat} {q : Policy} (hf : tfind s.root.policies h = some q) (hq : q.session ≠ session) :
    foreignPolicy s session h = true := by simp [foreignPolicy, hf, hq]

theorem foreignPolicy_of_none {s : State} {h : Nat} (session : Nat) (hf : tfind s.root.policies h = none) :
    foreignPolicy s session h = false := by simp [foreignPolicy, hf]

theorem foreignPolicy_of_eq {s : State} {session h : Nat} {q : Policy} (hf : tfind s.root.policies h = some q) (hq : q.session = session) :
    foreignPolicy s session h = false := by simp [foreignPolicy, hf, hq]

section
variable {s : State} {session h : Nat}

theorem bindPolicy_foreign (b : List Byte) (hf : foreignPolicy s session h = true) : bindPolicy s session h b = .error 0x349 := by
  simp [bindPolicy, hf]

theorem bindPolicy_unsigned {b : List Byte} {e : Cause} (hf : foreignPolicy s session h = false) (he : sigCause b = some e) :
    bindPolicy s session h b = .error e := by
  simp [bindPolicy, hf, he]

/-- The state with a policy bound to a free handle. -/
def bound (s : State) (session h : Nat) (b : List Byte) : State :=
  { s with root := { s.root with policies := tput s.root.policies h { session := session, block := b } } }

theorem bindPolicy_free {b : List Byte} (hs : sigCause b = none) (hf : tfind s.root.policies h = none) :
    bindPolicy s session h b = .ok (bound s session h b) := by
  simp [bindPolicy, foreignPolicy_of_none session hf, hs, hf, bound]

theorem bindPolicy_taken {b : List Byte} {q : Policy} (hs : sigCause b = none) (hf : tfind s.root.policies h = some q)
    (hq : q.session = session) (hb : q.block ≠ b) : bindPolicy s session h b = .error 0x344 := by
  simp [bindPolicy, foreignPolicy_of_eq hf hq, hs, hf, hb]

/-- A policy that is bound is the only thing that changes. -/
theorem bindPolicy_cases {b : List Byte} {t : State} (ht : bindPolicy s session h b = .ok t) : t = s ∨ t = bound s session h b := by
  unfold bindPolicy at ht
  split at ht
  · cases ht
  · split at ht
    · cases ht
    · split at ht
      · split at ht
        · cases ht; exact .inl rfl
        · cases ht
      · cases ht; exact .inr rfl

end

/-! ## Objects (R82) -/

theorem loadObject_foreign {s : State} {session : Nat} {o : List Byte} (hc : objectCause o = none)
    (hf : foreignPolicy s session (policyHandle o) = true) : loadObject s session o = .error 0x349 := by
  simp only [loadObject, hc]
  cases sec? o 0x0E with
  | some g => simp [bindPolicy_foreign _ hf]
  | none => simp [hf]

/-- Loading an object changes nothing but that it may bind the policy that the object carries. -/
theorem loadObject_cases {s t : State} {session : Nat} {o : List Byte} (ht : loadObject s session o = .ok t) :
    t = s ∨ ∃ b, t = bound s session (policyHandle o) b := by
  simp only [loadObject] at ht
  cases hc : objectCause o with
  | some e => simp [hc] at ht
  | none =>
    simp only [hc] at ht
    cases hg : sec? o 0x0E with
    | some g =>
      simp only [hg] at ht
      cases hb : bindPolicy s session (policyHandle o) ((o.drop g.off).take g.size) with
      | error e => simp [hb] at ht
      | ok u =>
        simp only [hb, ne_eq, ite_not] at ht
        split at ht
        · cases ht
          exact (bindPolicy_cases hb).imp id fun h => ⟨_, h⟩
        · cases ht
    | none =>
      simp only [hg] at ht
      cases hf : foreignPolicy s session (policyHandle o) with
      | true => simp [hf] at ht
      | false =>
        simp only [hf, Bool.false_eq_true, ↓reduceIte, ne_eq, ite_not] at ht
        split at ht
        · cases ht; exact .inl rfl
        · cases ht

theorem loadObject_mem {s t : State} {session : Nat} {o : List Byte} (ht : loadObject s session o = .ok t) : t.mem = s.mem := by
  obtain rfl | ⟨b, rfl⟩ := loadObject_cases ht <;> rfl

/-- The state in which the root holds an object under the next handle. -/
def holding (s : State) (session : Nat) (o : List Byte) : State :=
  { s with root := { s.root with nextHandle := s.root.nextHandle + 1,
                                 objects := tput s.root.objects s.root.nextHandle { session := session, object := o } } }

section
variable {s : State} {c : RootCmd} (hA : Accepted s c (c.session ≠ 0))
include hA

theorem execRootLoad_refuses {o : List Byte} {e : Cause} (he : loadObject (numbered s c) c.session o = .error e) :
    execRootLoad c o s = .next (tellCode (numbered s c) e) :=
  (command_ofTenant _ hA).trans (by simp only [he])

theorem execRootLoad_holds {o : List Byte} {t : State} (ht : loadObject (numbered s c) c.session o = .ok t) :
    execRootLoad c o s = .next (tell (holding t c.session o) { code := 0, handle := t.root.nextHandle }) :=
  (command_ofTenant _ hA).trans (by simp only [ht]; rfl)

theorem execPolicyRegister_refuses {h : Nat} {sig : List Byte} {e : Cause} (he : bindPolicy (numbered s c) c.session h sig = .error e) :
    execPolicyRegister c h sig s = .next (tellCode (numbered s c) e) :=
  (command_ofTenant _ hA).trans (by simp only [he])

theorem execPolicyRegister_binds {h : Nat} {sig : List Byte} {t : State} (ht : bindPolicy (numbered s c) c.session h sig = .ok t) :
    execPolicyRegister c h sig s = .next (tell t { code := 0, handle := h }) :=
  (command_ofTenant _ hA).trans (by simp only [ht])

end

/-! ## LAUNCH (R344, R418) -/

/-- A launch as LAUNCH submits it. -/
def submittedLaunch (s : State) (session part : Nat) (o : List Byte) (args : List Dword) : Launch :=
  { session := session, part := part, object := o, args := args.take 8, budget := rd o (launchOff o + 0x10) 4, place := s.submitted + 1,
    queue := rd o (launchOff o + 8) 1, prio := rd o (launchOff o + 9) 1 }

/-- The state with a launch under the next handle, and its handle told. -/
def submits (s : State) (x : Launch) : State :=
  headQueues (tell (setLaunch { (drawHandle s).1 with submitted := s.submitted + 1 } s.root.nextHandle x) { code := 0, handle := s.root.nextHandle })

@[simp] theorem headQueues_mem (s : State) : (headQueues s).mem = s.mem := rfl

theorem submits_mem (s : State) (x : Launch) : (submits s x).mem = s.mem := by
  simp only [submits, headQueues_mem, tell_mem, setLaunch_mem]
  rfl

/-- A launch of the table is as it was, but that it may wait where it was queued. -/
theorem getLaunch_headQueues {s : State} {l : Nat} {x : Launch} (h : tfind s.launches l = some x) :
    getLaunch (headQueues s) l = if x.stage = .queued ∧ headOfQueue s x then { x with stage := .waiting } else x := by
  have hm : (headQueues s).launches = s.launches.map fun e =>
      (e.1, if e.2.stage = .queued ∧ headOfQueue s e.2 then { e.2 with stage := .waiting } else e.2) := by
    refine List.map_congr_left fun e _ => ?_
    split <;> rfl
  rw [getLaunch, tget_eq_tfind, hm, tfind_mapVal (fun _ x => if x.stage = .queued ∧ headOfQueue s x then { x with stage := .waiting } else x), h]
  rfl

/-- A submitted launch is as its record and its command say; it stands queued, or waits at the head of its queue. -/
theorem getLaunch_submits (s : State) (session part : Nat) (o : List Byte) (args : List Dword) :
    let y := getLaunch (submits s (submittedLaunch s session part o args)) s.root.nextHandle
    y.session = session ∧ y.part = part ∧ y.object = o ∧ y.args = args.take 8 ∧ y.budget = rd o (launchOff o + 0x10) 4 ∧
      (y.stage = .queued ∨ y.stage = .waiting) ∧ y.place = s.submitted + 1 := by
  unfold submits
  rw [getLaunch_headQueues (x := submittedLaunch s session part o args) (tfind_tput_same ..)]
  split <;> simp [submittedLaunch]

section
variable {s : State} {c : RootCmd} (hA : Accepted s c (c.session ≠ 0))
include hA

theorem execLaunch_unheld {h : Nat} (args : List Dword) (hf : tfind s.root.objects h = none) : execLaunch c h args s = .next (tellCode (numbered s c) 0x349) :=
  (command_ofTenant _ hA).trans (by simp only [numbered_objects, hf])

variable {h part : Nat} {p : Partition} {held : Held} {pol : Policy} (args : List Dword)
  (hf : tfind s.root.objects h = some held) (hs : held.session = c.session)
  (hp : tfind s.root.policies (policyHandle held.object) = some pol) (hq : pol.session = c.session)
  (hpart : (s.parts.find? fun e => e.2.used && e.2.policy = policyHandle held.object) = some (part, p))
include hf hs hp hq hpart

/-- A launch of an object of the session's, in a partition under a policy of the session's, is judged by the policy and its record. -/
theorem execLaunch_judged :
    execLaunch c h args s = .next
      (if graphDigest held.object ∉ polDigests pol.block ∨ polMaxB pol.block < rd held.object (launchOff held.object + 0x10) 4 then
        tellCode (numbered s c) 0x342
      else if recordBroken held.object then tellCode (numbered s c) 0x318
      else submits (numbered s c) (submittedLaunch s c.session part held.object args)) := by
  refine (command_ofTenant _ hA).trans (congrArg Host.Outcome.next ?_)
  simp only [numbered_objects, hf, numbered_parts, hpart, Option.map_some, numbered_policies, hp, hs, hq, policyOf, ne_eq, not_true_eq_false,
    decide_true, Bool.not_true, Bool.false_eq_true, or_self, ↓reduceIte, Option.getD_some, List.contains_eq_mem, Bool.not_eq_eq_eq_not,
    decide_eq_false_iff_not, gt_iff_lt]
  rfl

end

/-! ## RESUME_BUDGET (R344) -/

section
variable {s : State} {c : RootCmd} (hA : Accepted s c (c.session ≠ 0)) {h : Nat} (budget : BitVec 32)
include hA

theorem execResumeBudget_unnamed (hf : tfind s.launches h = none) : execResumeBudget c h budget s = .next (tellCode (numbered s c) 0x349) :=
  (command_ofTenant _ hA).trans (by simp only [launchOfTenant, numbered_launches, hf])

theorem execResumeBudget_sets {x : Launch} (hf : tfind s.launches h = some x) (hx : x.session = c.session) :
    execResumeBudget c h budget s = .next (tellCode (setLaunch (numbered s c) h
      { x with budget := budget.toNat, broke := x.broke && decide (budget.toNat * 65536 ≤ x.charged) }) 0) :=
  (command_ofTenant _ hA).trans (by simp only [launchOfTenant, numbered_launches, hf, hx, ↓reduceIte])

end

end Sys2Proof.RootCommands
end

section
/-! SUPPORT. A launch that fails leaves the root as it is, but for what the host is told (R344, R351). -/

namespace Sys2Proof.RootCommands

open Sys2Proof
open Sys2Proof.Machine hiding Accepted numbered

/-! ## The root through the steps of a failing launch -/

theorem appendLog_root (s : State) (part lo hi core src : Nat) : (appendLog s part lo hi core src).root = s.root := by
  simp only [appendLog]
  split
  · rfl
  · generalize Memory.writeN _ _ _ = m
    rfl

theorem depositWin_root (s : State) (core port k : Nat) : (depositWin s core port k).root = s.root := by
  simp only [depositWin]
  split
  · exact appendLog_root ..
  · rfl

theorem depositWins_root (s : State) (core : Nat) (ps ks : List Nat) :
    (ps.foldl (fun s p => ks.foldl (fun s k => depositWin s core p k) s) s).root = s.root :=
  foldl_keeps State.root _ (fun s p => foldl_keeps State.root _ (fun s k => depositWin_root s core p k) ks s) ps s

theorem depositCore_root (s : State) (core : Nat) : (depositCore s core).root = s.root := by
  have hw := depositWins_root s core (List.range 4) (List.range 16)
  unfold depositCore
  generalize List.foldl _ s (List.range 4) = t at hw ⊢
  dsimp only
  split
  · exact (appendLog_root ..).trans hw
  · exact hw

theorem leaveCore_root (s : State) (core : Nat) : (leaveCore s core).root = s.root := by
  have hd := depositCore_root s core
  unfold leaveCore clearWindows
  generalize depositCore s core = t at hd ⊢
  exact hd

theorem writeSink_root (s : State) (u : UnitId) (k : Sink) (v : Quad) : (writeSink s u k v).root = s.root := by
  simp only [writeSink]
  split <;> rfl

theorem refuseRewire_root (s : State) (r : Rewire) (reason : Nat) (version : Word) : (refuseRewire s r reason version).root = s.root := by
  simp only [refuseRewire]
  repeat' split
  · rfl
  · exact writeSink_root ..
  · rfl

theorem dropRewires_root (s : State) (l : Nat) : (dropRewires s l).root = s.root :=
  foldl_keeps State.root _ (fun s r => refuseRewire_root s r 8 _) _ s

theorem unconfigureLaunch_root (s : State) (l : Nat) : (unconfigureLaunch s l).root = s.root := by
  refine foldl_keeps State.root _ (fun s core => ?_) _ s
  exact foldl_keeps State.root (fun s u => unconfigure s ⟨core, u⟩) (fun _ _ => rfl) _ s

theorem reapLaunch_root (s : State) (l : Nat) : (reapLaunch s l).root = s.root := by
  refine foldl_keeps State.root _ (fun s core => ?_) _ s
  split
  · exact leaveCore_root ..
  · rfl

theorem foldl_setCore_root (f : State → Nat → Core) (l : List Nat) (s : State) : (l.foldl (fun s k => setCore s k (f s k)) s).root = s.root :=
  foldl_keeps State.root (fun s k => setCore s k (f s k)) (fun _ _ => rfl) l s

theorem tell_root {s t : State} (h : t.root = s.root) (st : Status) : (tell t st).root = (tell s st).root := by simp [Machine.tell, h]

/-- The root of a launch that fails tells its cause, and nothing else. -/
theorem failLaunch_root (s : State) (l : Nat) (cause : Cause) (supervisor : Bool) (detail : Quad) :
    (failLaunch s l cause supervisor detail).root = (tell s { code := cause, handle := l }).root := by
  have hu : (unconfigureLaunch (dropRewires s l) l).root = s.root := (unconfigureLaunch_root ..).trans (dropRewires_root ..)
  have hsup (t : State) (h : t.root = s.root) (st : Status) (part : Nat) :
      (if supervisor then tellSupervisor (tell t st) part cause detail else tell t st).root = (tell s st).root := by
    split <;> exact tell_root h st
  simp only [failLaunch, nextUp_root, reapLaunch_root]
  generalize unconfigureLaunch (dropRewires s l) l = t at hu ⊢
  refine hsup _ ?_ _ _
  rw [foldl_setCore_root, setLaunch_root, hu]

/-! ## The launch that fails -/

theorem tellSupervisor_clears (s : State) (part : Nat) (cause : Cause) (detail : Quad) : Clears s (tellSupervisor s part cause detail) :=
  .setCore_of_eq s rfl rfl

/-- A launch whose supervisor is told of it has failed too. -/
theorem failLaunch_supervised_failed (s : State) (l : Nat) (cause : Cause) (detail : Quad) :
    (getLaunch (failLaunch s l cause true detail) l).stage = .failed := by
  simp only [failLaunch, ↓reduceIte]
  generalize unconfigureLaunch (dropRewires s l) l = t
  have hset : (getLaunch (setLaunch t l (getLaunch t l).asFailed) l).stage = .failed := by simp [getLaunch, setLaunch, Launch.asFailed]
  refine Fails.failed ?_ l hset
  refine .trans ?_ (nextUp_clears ..).fails
  refine .trans ?_ (reapLaunch_fails ..)
  refine .trans ?_ (tellSupervisor_clears ..).fails
  refine .trans ?_ (tell_clears ..).fails
  refine Clears.fails (.foldl (fun s core => ?_) _ _)
  exact .setCore_of_eq s rfl rfl

end Sys2Proof.RootCommands
end

section
/-! SUPPORT. The hypervisor's commands on a launch (R344, R351, R381, R416): PAUSE, LAUNCH_RESUME and EVICT. -/

namespace Sys2Proof.RootCommands

open Sys2Proof
open Sys2Proof.Machine hiding Accepted numbered

@[simp] theorem getLaunch_setLaunch_same (s : State) (l : Nat) (x : Launch) : getLaunch (setLaunch s l x) l = x := by
  simp [getLaunch, setLaunch]

/-! ## Beginning a kerf -/

@[simp] theorem gateSources_mem (s : State) (l : Nat) : (gateSources s l).mem = s.mem := rfl

/-- A launch that runs, with no rewire in progress, begins its kerf. -/
theorem beginKerf_running {s : State} {l : Nat} {x : Launch} (status : Cause) (hx : getLaunch s l = x) (hr : x.stage = .running)
    (hk : x.kerf = none) (hw : x.rewire = none) :
    beginKerf s l status = gateSources (setLaunch s l { x with kerf := some { begun := s.cycle, status := status } }) l := by
  subst hx
  have ha : abandonRewire s l 8 = s := by simp [abandonRewire, hw]
  simp [beginKerf, hr, hk, ha]

theorem beginKerf_notRunning {s : State} {l : Nat} (status : Cause) (hr : (getLaunch s l).stage ≠ .running) : beginKerf s l status = s := by
  simp [beginKerf, hr]

/-! ## PAUSE, LAUNCH_RESUME and EVICT -/

section
variable {s : State} {c : RootCmd} (h : Nat)

/-- A session that is not the hypervisor's names no launch by these commands. -/
theorem launchCommands_ofTenant (hA : Accepted s c (c.session ≠ 0)) {i : Instr} (hi : i = .pause c h ∨ i = .launchResume c h ∨ i = .evict c h) :
    AnswersOnly s c i 0x349 := by
  have hn : launchOfHypervisor (numbered s c) c h = none := if_neg (accepted_may hA)
  obtain rfl | rfl | rfl := hi
  · exact (show execPause c h s = _ from command_ofAny _ hA).trans (by simp only [hn])
  · exact (show execLaunchResume c h s = _ from command_ofAny _ hA).trans (by simp only [hn])
  · exact (show execEvict c h s = _ from command_ofAny _ hA).trans (by simp only [hn])

/-- The hypervisor names none that the table does not list. -/
theorem launchCommands_unnamed (hA : Accepted s c (c.session = 0)) (hf : tfind s.launches h = none) {i : Instr}
    (hi : i = .pause c h ∨ i = .launchResume c h ∨ i = .evict c h) : AnswersOnly s c i 0x349 := by
  have hn : launchOfHypervisor (numbered s c) c h = none := (if_pos (accepted_may hA)).trans hf
  obtain rfl | rfl | rfl := hi
  · exact (show execPause c h s = _ from command_ofAny _ hA).trans (by simp only [hn])
  · exact (show execLaunchResume c h s = _ from command_ofAny _ hA).trans (by simp only [hn])
  · exact (show execEvict c h s = _ from command_ofAny _ hA).trans (by simp only [hn])

end

section
variable {s : State} {c : RootCmd} (hA : Accepted s c (c.session = 0)) {h : Nat} {x : Launch} (hf : tfind s.launches h = some x)
include hA hf

theorem launchOfHypervisor_named : launchOfHypervisor (numbered s c) c h = some x := (if_pos (accepted_may hA)).trans hf

theorem execPause_forbidden (hp : polFlag (launchPolicy s x) 0 = false) : execPause c h s = .next (tellCode (numbered s c) 0x346) :=
  (command_ofAny _ hA).trans (by simp [launchOfHypervisor_named hA hf, hp])

theorem execPause_running (hp : polFlag (launchPolicy s x) 0 = true) (hr : x.stage = .running) (hk : x.kerf = none) (hw : x.rewire = none) :
    ∃ t, execPause c h s = .next t ∧ t.root.status = s.root.status ++ [{ code := 0 }] ∧ t.root.sessions = (numbered s c).root.sessions ∧
      getLaunch t h = { x with held := true, kerf := some { begun := s.cycle, status := 0 } } ∧ t.mem = s.mem := by
  have hs : x.stage = .running ∨ x.stage = .suspended := .inl hr
  have hb := beginKerf_running (s := setLaunch (numbered s c) h { x with held := true }) 0 (getLaunch_setLaunch_same ..) hr hk hw
  refine ⟨_, command_ofAny _ hA, ?_⟩
  simp only [launchOfHypervisor_named hA hf, launchPolicy_numbered, hp, Bool.not_true, Bool.false_eq_true, ↓reduceIte, hs, hb]
  exact ⟨rfl, rfl, getLaunch_setLaunch_same .., by simp only [tellCode, tell_mem, gateSources_mem, setLaunch_mem, numbered_mem]⟩

theorem execPause_suspended (hp : polFlag (launchPolicy s x) 0 = true) (hr : x.stage = .suspended) :
    execPause c h s = .next (tellCode (setLaunch (numbered s c) h { x with held := true }) 0) := by
  have hs : x.stage = .running ∨ x.stage = .suspended := .inr hr
  have hb : beginKerf (setLaunch (numbered s c) h { x with held := true }) h 0 = setLaunch (numbered s c) h { x with held := true } :=
    beginKerf_notRunning 0 (by simp [hr])
  exact (command_ofAny _ hA).trans (by
    simp only [launchOfHypervisor_named hA hf, launchPolicy_numbered, hp, Bool.not_true, Bool.false_eq_true, ↓reduceIte, hs, hb])

theorem execLaunchResume_releases : execLaunchResume c h s = .next (tellCode (setLaunch (numbered s c) h { x with held := false }) 0) :=
  (command_ofAny _ hA).trans (by simp only [launchOfHypervisor_named hA hf])

theorem execEvict_ended (he : x.stage = .complete ∨ x.stage = .failed ∨ x.stage = .draining) :
    execEvict c h s = .next (tellCode (numbered s c) 0) := by
  have hd : ended x = true ∨ x.stage = .draining := by simpa [ended, or_assoc] using he
  exact (command_ofAny _ hA).trans (by simp only [launchOfHypervisor_named hA hf, hd, ↓reduceIte])

theorem execEvict_fails (hc : x.stage ≠ .complete) (hf' : x.stage ≠ .failed) (hd : x.stage ≠ .draining) :
    execEvict c h s = .next (failLaunch (tellCode (numbered s c) 0) h 0x31D true (.ofNat 128 h)) :=
  (command_ofAny _ hA).trans (by simp [launchOfHypervisor_named hA hf, ended, hc, hf', hd])

end

end Sys2Proof.RootCommands
end

section
/-! SUPPORT. CREATE (R413, R414, R418, R432): the pools and cores of a new partition, and what else changes. -/

namespace Sys2Proof.RootCommands

open Sys2Proof
open Sys2Proof.Machine hiding Accepted numbered

/-! ## Write-back touches memory and slices alone -/

/-- Two states that agree in all but memory, poison and slices. -/
def AgreeOffMemory (s t : State) : Prop := t = { s with mem := t.mem, poison := t.poison, slices := t.slices }

theorem AgreeOffMemory.refl (s : State) : AgreeOffMemory s s := rfl

theorem AgreeOffMemory.trans {s t u : State} (h : AgreeOffMemory s t) (h' : AgreeOffMemory t u) : AgreeOffMemory s u := by
  unfold AgreeOffMemory at h h' ⊢
  rw [h] at h'
  exact h'

theorem AgreeOffMemory.foldl {α : Type} {f : State → α → State} (hf : ∀ s a, AgreeOffMemory s (f s a)) (l : List α) (s : State) :
    AgreeOffMemory s (l.foldl f s) := by
  induction l generalizing s with
  | nil => exact .refl s
  | cons a l ih => exact (hf s a).trans (ih _)

theorem storeLine_agrees (s : State) (n addr : Nat) (data side : List Byte) : AgreeOffMemory s (storeLine s n addr data side) := by
  simp only [storeLine]
  repeat' split
  all_goals rfl

theorem evict_agrees (s : State) (n key : Nat) : AgreeOffMemory s (evict s n key) := by
  simp only [evict]
  split
  · exact .refl s
  · split
    · exact (storeLine_agrees ..).trans rfl
    · rfl

theorem flushUnit_agrees (s : State) (unit : Nat) : AgreeOffMemory s (flushUnit s unit) :=
  .foldl (fun _ _ => .foldl (fun _ _ => evict_agrees ..) _ _) _ s

/-! ## Pools -/

/-- A free pool is held by no partition: among one number more than are held, one is not. -/
theorem freePool_not_mem (held : List Nat) : freePool held ∉ held := by
  unfold freePool
  cases hn : (List.range (held.length + 1)).find? fun n => !held.contains n with
  | some n => simpa using List.find?_some hn
  | none =>
    have hsub : List.range (held.length + 1) ⊆ held := fun n hm => by simpa using List.find?_eq_none.mp hn n hm
    have hle := List.nodup_range.length_le_of_subset hsub
    rw [List.length_range] at hle
    exact absurd hle (Nat.not_succ_le_self _)

/-! ## Cores -/

/-- A core of CREATE's set joins the partition, unless a launch has it. -/
def takeCore (n : Nat) (s : State) (k : Nat) : State :=
  if (getCore s k).launch.isSome then s else setCore s k (({ getCore s k with part := none } : Core).joined n)

theorem takeCore_eq (n : Nat) (s : State) (k : Nat) : takeCore n s k = { s with cores := (takeCore n s k).cores } := by
  unfold takeCore
  split <;> rfl

theorem foldl_takeCore_eq (n : Nat) (l : List Nat) (s : State) :
    l.foldl (takeCore n) s = { s with cores := (l.foldl (takeCore n) s).cores } := by
  induction l generalizing s with
  | nil => rfl
  | cons k l ih => rw [List.foldl_cons, ih, takeCore_eq]

/-- No core's launch changes: one that has a launch is not taken, and one that is taken had none. -/
theorem takeCore_launch (n : Nat) (s : State) (j k : Nat) : (getCore (takeCore n s j) k).launch = (getCore s k).launch := by
  unfold takeCore
  split
  · rfl
  · next hl =>
    rw [getCore_setCore]
    split
    · next hj =>
      subst hj
      have hn : (getCore s j).launch = none := by simpa using hl
      simp [Core.joined, hn]
    · rfl

/-- A core that no launch has is the partition's after its turn. -/
theorem takeCore_takes (n : Nat) (s : State) (k : Nat) (h : (getCore (takeCore n s k) k).launch = none) :
    (getCore (takeCore n s k) k).part = some n := by
  rw [takeCore_launch] at h
  simp [takeCore, h, Core.joined]

/-- A core that no launch has stays the partition's through the others' turns. -/
theorem takeCore_keeps (n : Nat) (s : State) (j : Nat) {k : Nat} (h : (getCore s k).launch = none → (getCore s k).part = some n)
    (hl : (getCore (takeCore n s j) k).launch = none) : (getCore (takeCore n s j) k).part = some n := by
  by_cases hj : j = k
  · subst hj
    exact takeCore_takes n s j hl
  · rw [takeCore_launch] at hl
    unfold takeCore
    split
    · exact h hl
    · rw [getCore_setCore_of_ne _ hj]
      exact h hl

theorem foldl_takeCore_takes (n : Nat) {l : List Nat} (s : State) {k : Nat} (hk : k ∈ l) (hl : (getCore s k).launch = none) :
    (getCore (l.foldl (takeCore n) s) k).part = some n ∧ (getCore (l.foldl (takeCore n) s) k).launch = none := by
  have hlaunch : (getCore (l.foldl (takeCore n) s) k).launch = none :=
    (foldl_keeps (fun s => (getCore s k).launch) (takeCore n) (fun s j => takeCore_launch n s j k) l s).trans hl
  have hpart : (getCore (l.foldl (takeCore n) s) k).launch = none → (getCore (l.foldl (takeCore n) s) k).part = some n :=
    foldl_establishes (P := fun s => (getCore s k).launch = none → (getCore s k).part = some n) (fun s => takeCore_takes n s k)
      (fun s j => takeCore_keeps n s j) hk s
  exact ⟨hpart hlaunch, hlaunch⟩

/-! ## The partition that CREATE makes -/

/-- The dirty lines of a new secure partition's units are written back, and what DRAM holds of them is read under its key. -/
def unitsOpened (s : State) (x : CreateSpec) (p : Partition) : State :=
  if x.secure then { x.units.foldl flushUnit s with mem := openUnits (x.units.foldl flushUnit s).mem p } else s

theorem unitsOpened_agrees (s : State) (x : CreateSpec) (p : Partition) : AgreeOffMemory s (unitsOpened s x p) := by
  unfold unitsOpened
  split
  · exact (AgreeOffMemory.foldl flushUnit_agrees x.units s).trans rfl
  · rfl

theorem unitsOpened_open (s : State) {x : CreateSpec} (p : Partition) (h : x.secure = false) : unitsOpened s x p = s := by
  simp [unitsOpened, h]

/-- The partition under the next handle. -/
def madePartition (s : State) (x : CreateSpec) : Partition := newPartition s x s.root.nextHandle

/-- The state in which CREATE has made a partition. -/
def created (s : State) (x : CreateSpec) (n : Nat) : State :=
  let t := x.cores.foldl (takeCore n) (unitsOpened (drawHandle s).1 x (madePartition s x))
  { setPart' t n (madePartition s x) with root := { t.root with created := true } }

theorem created_root (s : State) (x : CreateSpec) (n : Nat) :
    (created s x n).root = { s.root with nextHandle := s.root.nextHandle + 1, created := true } := by
  simp only [created]
  rw [foldl_takeCore_eq, unitsOpened_agrees (drawHandle s).1 x (madePartition s x)]
  rfl

theorem created_mem (s : State) {x : CreateSpec} (n : Nat) (h : x.secure = false) : (created s x n).mem = s.mem := by
  simp only [created]
  rw [foldl_takeCore_eq, unitsOpened_open _ _ h]
  rfl

theorem getPart_created (s : State) (x : CreateSpec) (n : Nat) : getPart (created s x n) n = madePartition s x :=
  getPart_setPart'_same ..

theorem created_takes (s : State) {x : CreateSpec} (n : Nat) {k : Nat} (hk : k ∈ x.cores) (hl : (getCore s k).launch = none) :
    (getCore (created s x n) k).part = some n ∧ (getCore (created s x n) k).launch = none := by
  refine foldl_takeCore_takes n _ hk ?_
  rw [unitsOpened_agrees (drawHandle s).1 x (madePartition s x)]
  exact hl

/-- Its pools are its own. -/
theorem madePartition_pools (s : State) (x : CreateSpec) :
    (madePartition s x).pool ∉ poolsOn s x.channel ∧ (madePartition s x).replyPool ∉ poolsOn s x.reply ∧
      (x.channel = x.reply → (madePartition s x).pool ≠ (madePartition s x).replyPool) := by
  have hr := freePool_not_mem (poolsOn s x.reply ++ if x.reply = x.channel then [freePool (poolsOn s x.channel)] else [])
  rw [List.mem_append, not_or] at hr
  refine ⟨freePool_not_mem _, hr.1, fun he hp => hr.2 ?_⟩
  have hsame : freePool (poolsOn s x.reply ++ if x.reply = x.channel then [freePool (poolsOn s x.channel)] else []) =
      freePool (poolsOn s x.channel) := hp.symm
  rw [hsame, if_pos he.symm]
  exact List.mem_singleton_self _

section
variable {s : State} {c : RootCmd} (hA : Accepted s c (c.session = 0)) {x : CreateSpec}
include hA

theorem execCreate_unnamed (hp : tfind s.root.policies x.policy = none) : execCreate c x s = .next (tellCode (numbered s c) 0x349) :=
  (command_ofHypervisor _ hA).trans (by simp only [numbered_policies, hp])

variable {pol : Policy} (hp : tfind s.root.policies x.policy = some pol)
include hp

/-- CREATE is refused beyond its policy's core count or flags, without the feature, or by its own checks. -/
theorem execCreate_refused
    (h : polMaxC pol.block < x.cores.length ∨ (x.secure = false ∧ polFlag pol.block 2 = false) ∨ (x.secure = true ∧ feature s 3 = false) ∨
      createOk s x = false) : execCreate c x s = .next (tellCode (numbered s c) 0x346) := by
  refine (command_ofHypervisor _ hA).trans (congrArg Host.Outcome.next ?_)
  simp only [numbered_policies, hp, feature_numbered, freePart_numbered, createOk_numbered]
  split
  · rfl
  · next hn =>
    have hk : createOk s x = false := by
      rcases h with h | h | h | h
      · exact absurd (.inl h) hn
      · exact absurd (.inr (.inl (by simp [h]))) hn
      · exact absurd (.inr (.inr (by simp [h]))) hn
      · exact h
    rw [hk]
    cases freePart s <;> rfl

theorem execCreate_makes {n : Nat} (hm : x.cores.length ≤ polMaxC pol.block) (hs : x.secure = true ∨ polFlag pol.block 2 = true)
    (hf : x.secure = true → feature s 3 = true) (hk : createOk s x = true) (hn : freePart s = some n) :
    execCreate c x s = .next (tell (created (numbered s c) x n) { code := 0, handle := s.root.nextHandle }) := by
  have hok : ¬ (x.cores.length > polMaxC pol.block ∨ (!x.secure ∧ !polFlag pol.block 2) ∨ (x.secure ∧ !feature s 3)) := by
    rintro (h | ⟨h, h'⟩ | ⟨h, h'⟩)
    · omega
    · rcases hs with hs | hs <;> simp_all
    · simp_all
  refine (command_ofHypervisor _ hA).trans (congrArg Host.Outcome.next ?_)
  simp only [numbered_policies, hp, feature_numbered, freePart_numbered, createOk_numbered, if_neg hok, hn, hk]
  rfl

end

end Sys2Proof.RootCommands
end

section
/-! SUPPORT. The hypervisor's commands on a partition (R349, R411, R413, R416, R418): DESTROY, QSET, HARVEST and KEY_EXPORT. -/

namespace Sys2Proof.RootCommands

open Sys2Proof
open Sys2Proof.Machine hiding Accepted numbered

/-- A handle that names no partition of the session's is answered with 0x349. -/
theorem partCommands_unnamed {s : State} {c : RootCmd} (hA : Accepted s c (c.session = 0)) {h : Nat} (v : Dword) (peer : Bool)
    (hn : namedPart s c h = none) {i : Instr} (hi : i = .destroy c h ∨ i = .qset c h v ∨ i = .harvest c h ∨ i = .keyExport c h peer) :
    AnswersOnly s c i 0x349 := by
  obtain rfl | rfl | rfl | rfl := hi
  · exact (show execDestroy c h s = _ from command_ofHypervisor _ hA).trans (by simp only [namedPart_numbered, hn])
  · exact (show execQset c h v s = _ from command_ofHypervisor _ hA).trans (by simp only [namedPart_numbered, hn])
  · exact (show execHarvest c h s = _ from command_ofHypervisor _ hA).trans (by simp only [namedPart_numbered, hn])
  · exact (show execKeyExport c h peer s = _ from command_ofHypervisor _ hA).trans (by simp only [namedPart_numbered, hn])

/-! ## DESTROY -/

/-- A core of a destroyed partition keeps what is its own: its spares, its retirement, its clock. -/
def freeCore (s : State) (k : Nat) : State :=
  setCore s k { spares := (getCore s k).spares, retired := (getCore s k).retired, clock := (getCore s k).clock }

theorem foldl_freeCore_frees {l : List Nat} (s : State) {k : Nat} (hk : k ∈ l) :
    (getCore (l.foldl freeCore s) k).part = none ∧ (getCore (l.foldl freeCore s) k).launch = none := by
  refine foldl_establishes (P := fun s => (getCore s k).part = none ∧ (getCore s k).launch = none) (fun s => ?_) (fun s j h => ?_) hk s
  · simp [freeCore]
  · rw [freeCore, getCore_setCore]
    split
    · exact ⟨rfl, rfl⟩
    · exact h

/-! ## QSET (R349) -/

/-- What the other partitions have of the core-cycles. -/
def otherShares (s : State) (part : Nat) : Nat := s.parts.foldl (fun n e => if e.2.used ∧ e.1 ≠ part then n + e.2.q else n) 0

/-- The core-cycles that there are to share: those of all cores but one for each partition's lead. -/
def shareRoom (s : State) : Nat := (2048 - (s.parts.filter fun e => e.2.used).length) * 65536

/-! ## HARVEST (R411) -/

/-- A core that has nothing to deposit. -/
def Clean (c : Core) : Prop := ∀ pt ∈ c.ports, pt.2.dirty = [] ∧ pt.2.walkDirty = none

theorem Clean.port {c : Core} (h : Clean c) (n : Nat) : (c.port n).dirty = [] ∧ (c.port n).walkDirty = none := by
  unfold Core.port
  rw [tget_eq_tfind]
  cases hf : tfind c.ports n with
  | none => exact ⟨rfl, rfl⟩
  | some p => exact h _ (mem_of_tfind hf)

/-- Steps that each leave a state as it is leave it as it is one after another. -/
theorem foldl_idle {α σ : Type} {f : σ → α → σ} {s : σ} {l : List α} (h : ∀ a ∈ l, f s a = s) : l.foldl f s = s := by
  induction l with
  | nil => rfl
  | cons a l ih =>
    rw [List.foldl_cons, h a List.mem_cons_self]
    exact ih fun b hb => h b (List.mem_cons_of_mem _ hb)

theorem depositWins_clean {s : State} {core : Nat} (h : Clean (getCore s core)) (ps ks : List Nat) :
    ps.foldl (fun s p => ks.foldl (fun s k => depositWin s core p k) s) s = s := by
  have hw (p k : Nat) : depositWin s core p k = s := by simp only [depositWin, (h.port p).1, tget_nil]
  exact foldl_idle fun p _ => foldl_idle fun k _ => hw p k

theorem depositCore_clean {s : State} {core : Nat} (h : Clean (getCore s core)) : depositCore s core = s := by
  unfold depositCore
  rw [depositWins_clean h]
  simp only [(h.port 0).2]

/-- What a partition's harvest returns: its entries up to a tail, and OVF. -/
def harvested (s : State) (p : Partition) (tail : Nat) : Status :=
  { code := 0, handle := p.handle, data := logBytes s p p.logHead tail ++ [.ofNat 8 p.ovf.toNat] }

/-- A harvest that waits alone, for no write, returns its entries. -/
theorem finishHarvests_one {s : State} {h : Harvest} (hh : s.root.harvests = [h]) (hw : writesPending s h = false) :
    finishHarvests s = setPart' (tell { s with root := { s.root with harvests := [] } } (harvested s (getPart s h.part) h.tail)) h.part
      { getPart s h.part with logHead := max (getPart s h.part).logHead h.tail, ovf := false } := by
  have hp : [h].partition (writesPending s) = ([], [h]) := by simp [List.partition_eq_filter_filter, hw]
  simp only [finishHarvests, hh, hp]
  rfl

section
variable {s : State} {c : RootCmd} (hA : Accepted s c (c.session = 0)) {h part : Nat} (hn : namedPart s c h = some part)
include hA hn

theorem execDestroy_frees : ∃ (t : State) (m : Tbl Byte) (r : Root),
    execDestroy c h s = .next (tellCode (setPart' { (partCores s part).foldl freeCore t with mem := m, root := r } part {}) 0) :=
  ⟨_, _, _, (command_ofHypervisor _ hA).trans (by simp only [namedPart_numbered, hn]; rfl)⟩

/-- QSET is refused beyond its policy's share, and beyond what the other partitions leave. -/
theorem execQset_judged (v : Dword) :
    execQset c h v s = .next
      (if polMaxQ (policyOf s (getPart s part).policy) < v.toNat % 2 ^ 28 then tellCode (numbered s c) 0x346
      else if shareRoom s < otherShares s part + v.toNat % 2 ^ 28 then tellCode (numbered s c) 0x31C
      else tellCode (setPart' (numbered s c) part { getPart s part with q := v.toNat % 2 ^ 28, ben := v.getLsbD 63 }) 0) :=
  (command_ofHypervisor _ hA).trans (by simp only [namedPart_numbered, hn]; rfl)

theorem execHarvest_forbidden (hp : polFlag (policyOf s (getPart s part).policy) 1 = false) :
    execHarvest c h s = .next (tellCode (numbered s c) 0x346) :=
  (command_ofHypervisor _ hA).trans (by simp [hn, hp])

/-- A harvest of a partition whose cores have nothing to deposit, and whose writes are acknowledged, is answered at once. -/
theorem execHarvest_returns (hp : polFlag (policyOf s (getPart s part).policy) 1 = true)
    (hc : ∀ k ∈ (getPart s part).cores, Clean (getCore s k)) (hh : s.root.harvests = [])
    (hw : writesPending s { part := part, tail := (getPart s part).logTail, limit := s.nextReq, cycle := s.cycle } = false) :
    ∃ r, execHarvest c h s = .next (setPart' (tell { s with root := r } (harvested s (getPart s part) (getPart s part).logTail)) part
      { getPart s part with logHead := max (getPart s part).logHead (getPart s part).logTail, ovf := false }) ∧
      r.status = s.root.status ∧ r.sessions = (numbered s c).root.sessions := by
  have hd : (partCores s part).foldl depositCore (numbered s c) = numbered s c :=
    foldl_idle fun k hk => depositCore_clean <| hc k ((List.mem_filter.mp hk).1)
  refine ⟨{ (numbered s c).root with harvests := [] }, (command_ofHypervisor _ hA).trans (congrArg Host.Outcome.next ?_), rfl, rfl⟩
  simp only [namedPart_numbered, hn, getPart_numbered, policyOf_numbered, hp, Bool.not_true, Bool.false_eq_true, ↓reduceIte,
    partCores_numbered, hd, numbered_harvests, hh, List.nil_append]
  exact finishHarvests_one (s := { numbered s c with root := { (numbered s c).root with harvests := [_] } }) rfl hw

theorem execKeyExport_answers (hs : (getPart s part).secure = true) :
    execKeyExport c h true s = .next (tell (numbered s c) { code := 0, handle := h, data := Config.wrappedKey (getPart s part).keyix }) :=
  (command_ofHypervisor _ hA).trans (by simp [hn, hs])

theorem execKeyExport_refused {peer : Bool} (hs : peer = false ∨ (getPart s part).secure = false) :
    execKeyExport c h peer s = .next (tellCode (numbered s c) 0x346) := by
  refine (command_ofHypervisor _ hA).trans ?_
  rcases hs with hs | hs <;> simp [hn, hs]

end

end Sys2Proof.RootCommands
end

section
/-! PROOF. What the root's commands do once accepted. -/

open Sys2Proof Sys2Proof.Claims
open Sys2Proof.Machine hiding Accepted numbered
open Sys2Proof.RootCommands

/-- Settles O58: every command is R416's checks and then an act of its own on the state in which its number is taken; a clause is what that act
comes to under the clause's premises. -/
theorem rootCommandsAnswer : Obligations.RootCommandsAnswer := by
  unfold Obligations.RootCommandsAnswer
  intro s s1 c h o sig args v budget peer part spec pol z x p given tells
  refine ⟨fun i hi => ?_, fun i hA hi => ?_, fun i hA => ⟨fun hi => ?_, launchCommands_ofTenant h hA⟩, fun hA => ?_, fun hA => ?_, fun hA => ?_⟩
  -- the checks
  · obtain ⟨may, act, he⟩ := given_isCommand (s := s) hi
    rw [he]
    refine ⟨command_closed act, fun ho hn => ?_, fun n ho hs ha hn => ?_⟩
    · exact hn.elim (command_unknown act ho) (command_unauthentic act ho)
    · cases may with
      | false => exact .inl (command_forbidden act ho rfl)
      | true => exact .inr (command_stale act ho hs ha rfl hn)
  · obtain ⟨act, he⟩ := tenantCommand_isCommand (s := s) hi
    exact he.trans (command_forbidden act (accepted_open hA) (by simp [tenant, accepted_may hA]))
  · obtain ⟨act, he⟩ := hypervisorCommand_isCommand (s := s) hi
    exact he.trans (command_forbidden act (accepted_open hA) (by simpa [hypervisor] using accepted_may hA))
  -- a tenant's commands
  · refine ⟨fun e => execRootLoad_refuses hA, fun ho => ?_, fun q hq hne => ?_, fun q hq hne hc => ?_, fun e hf he => ?_, fun hs hf => ?_,
      fun q hs hq he hb => ?_, execLaunch_unheld hA args, fun held hf hs hp hq hpart => ?_, execResumeBudget_unnamed hA budget, fun hf hx => ?_⟩
    · exact ⟨_, execRootLoad_holds hA ho, (loadObject_mem ho : s1.mem = z.mem), rfl, tfind_tput_same .., rfl⟩
    · exact execPolicyRegister_refuses hA (bindPolicy_foreign sig (foreignPolicy_of_ne hq hne))
    · exact execRootLoad_refuses hA (loadObject_foreign hc (foreignPolicy_of_ne hq hne))
    · exact execPolicyRegister_refuses hA (bindPolicy_unsigned hf he)
    · exact ⟨_, execPolicyRegister_binds hA (bindPolicy_free hs hf), rfl, rfl, tfind_tput_same .., rfl, rfl⟩
    · exact execPolicyRegister_refuses hA (bindPolicy_taken hs hq he hb)
    · have hj := execLaunch_judged hA args hf hs hp hq hpart
      refine ⟨fun hb => ?_, fun hd hb hr => ?_, fun hd hb hr => ?_⟩
      · rw [if_pos hb] at hj
        exact hj
      · rw [if_neg (by simp [hd, hb]), if_pos hr] at hj
        exact hj
      · rw [if_neg (by simp [hd, hb]), if_neg (by simp [hr])] at hj
        obtain ⟨hses, hpt, hobj, harg, hbud, hst, hpl⟩ := getLaunch_submits (numbered s c) c.session part held.object args
        exact ⟨_, hj, rfl, rfl, hses, hpt, hobj, harg, hbud, hst, hpl, submits_mem ..⟩
    · exact ⟨_, execResumeBudget_sets hA budget hf hx, rfl, rfl, getLaunch_setLaunch_same .., rfl⟩
  -- the hypervisor's commands on launches, and CREATE
  · refine ⟨fun hf => ?_, fun hf => ⟨execPause_forbidden hA hf, fun hp hr hk hw => ?_, fun hp hr => ?_, ?_, execEvict_ended hA hf, fun h1 h2 h3 => ?_⟩,
      execCreate_unnamed hA, fun hp => ⟨execCreate_refused hA hp, fun hm hs hk ho hn => ?_⟩⟩
    · exact ⟨launchCommands_unnamed h hA hf (.inl rfl), launchCommands_unnamed h hA hf (.inr (.inl rfl)),
        launchCommands_unnamed h hA hf (.inr (.inr rfl))⟩
    · obtain ⟨t, he, hst, hss, hl, hm⟩ := execPause_running hA hf hp hr hk hw
      exact ⟨t, he, hst, hss, congrArg Launch.held hl, congrArg Launch.kerf hl, hm⟩
    · exact ⟨_, execPause_suspended hA hf hp hr, rfl, rfl, getLaunch_setLaunch_same .., rfl⟩
    · exact ⟨_, execLaunchResume_releases hA hf, rfl, rfl, getLaunch_setLaunch_same .., rfl⟩
    · refine ⟨_, execEvict_fails hA hf h1 h2 h3, failLaunch_supervised_failed .., ?_⟩
      rw [failLaunch_root]
      exact List.append_assoc ..
    · obtain ⟨hpool, hreply, hne⟩ := madePartition_pools (numbered s c) spec
      have hroot := created_root (numbered s c) spec part
      refine ⟨_, execCreate_makes hA hp hm hs hk ho hn, congrArg (·.status ++ _) hroot, congrArg (·.sessions) hroot, ?_⟩
      dsimp only
      rw [getPart_tell, getPart_created]
      exact ⟨rfl, rfl, rfl, rfl, rfl, rfl, hpool, hreply, hne, rfl, rfl, rfl, rfl, rfl, rfl, rfl, rfl,
        fun k => created_takes (numbered s c) part, congrArg Root.created hroot, created_mem (numbered s c) part⟩
  -- the hypervisor's commands on partitions
  · have hun {i : Instr} (hn : namedPart s c h = none) := partCommands_unnamed hA v peer hn (i := i)
    refine ⟨fun hn => ⟨hun hn (.inl rfl), hun hn (.inr (.inl rfl)), hun hn (.inr (.inr (.inl rfl))), hun hn (.inr (.inr (.inr rfl)))⟩,
      fun hn => ⟨?_, ⟨fun hq => ?_, fun hq hr => ?_, fun hq hr => ?_⟩, execHarvest_forbidden hA hn, fun hp hc hh hw => ?_, fun hpe hs => ?_,
        execKeyExport_refused hA hn⟩⟩
    · obtain ⟨t, m, r, he⟩ := execDestroy_frees hA hn
      exact ⟨_, he, getPart_setPart'_same .., fun k hk hp => foldl_freeCore_frees t (List.mem_filter.mpr ⟨hk, decide_eq_true hp⟩)⟩
    · exact (execQset_judged hA hn v).trans (congrArg _ (if_pos hq))
    · exact (execQset_judged hA hn v).trans (congrArg _ ((if_neg (Nat.not_lt.mpr hq)).trans (if_pos hr)))
    · exact ⟨_, (execQset_judged hA hn v).trans (congrArg _ ((if_neg (Nat.not_lt.mpr hq)).trans (if_neg (Nat.not_lt.mpr hr)))), rfl, rfl,
        getPart_setPart'_same .., rfl⟩
    · obtain ⟨r, he, hst, hss⟩ := execHarvest_returns hA hn hp hc hh hw
      exact ⟨_, he, congrArg (· ++ _) hst, hss, getPart_setPart'_same .., rfl⟩
    · subst hpe
      exact ⟨_, execKeyExport_answers hA hn hs, rfl, rfl, rfl, rfl⟩

end

section
/-! SUPPORT. Results of a firing: what an instruction that can fire comes to when it answers a result, and what splitting a word into lanes and
joining lanes again give in the statements' words (R5, R18, R19, R37). -/

namespace Sys2Proof.Machine

open Sys2Proof Sys2Proof.Claims

/-! ## The frame -/

section
variable (s : State) (u : UnitId) (slot : Nat) (word : Word) (i : Instr) (lat : Nat) (r : Fired)

/-- The state in which a unit has taken up a flight; a control element's pc has still to move on. -/
def inFlight : State :=
  setElem s u (launchFlight (Machine.getElem s u) s.cycle slot word (gate (Machine.getElem s u) (isCe u) word)
    (needOf (Machine.getElem s u) s.cycle i) lat r)

@[simp] theorem getElem_inFlight : Machine.getElem (inFlight s u slot word i lat r) u =
    launchFlight (Machine.getElem s u) s.cycle slot word (gate (Machine.getElem s u) (isCe u) word)
      (needOf (Machine.getElem s u) s.cycle i) lat r := getElem_setElem_same ..

/-- A fabric element's firing changes what the frame names. -/
theorem inFlight_frame (hu : isCe u = false) :
    FiringFrame s (inFlight s u slot word i lat r) u slot i (flightOf s u slot word i lat r) where
  outside := rfl
  cores k hk := getCore_setCore_of_ne _ (Ne.symm hk) _
  units j hj := getElem_setElem_of_ne _ (fun h => hj (congrArg UnitId.ix h).symm) _
  core := by simp only [inFlight, setElem, getCore_setCore_same]
  ctl := by simp only [inFlight, hu, getCtl_setElem, Bool.false_eq_true, ↓reduceIte]
  unit := by rw [getElem_inFlight]; exact launchFlight_eq ..
  tokens n := by rw [getElem_inFlight]; exact inCh_launchFlight ..
  memory _ := rfl

/-- A control element's firing moves its pc past the instruction besides. -/
theorem inFlight_setCtl_frame (hu : isCe u = true) :
    FiringFrame s (setCtl (inFlight s u slot word i lat r) u.core { getCtl s u.core with pc := slot + Instr.bytes i }) u slot i
      (flightOf s u slot word i lat r) where
  outside := rfl
  cores k hk := (getCore_setCore_of_ne _ (Ne.symm hk) _).trans (getCore_setCore_of_ne _ (Ne.symm hk) _)
  units j hj := (getElem_setCtl ..).trans (getElem_setElem_of_ne _ (fun h => hj (congrArg UnitId.ix h).symm) _)
  core := by simp only [setCtl, inFlight, setElem, getCore_setCore_same]
  ctl := by simp only [getCtl_setCtl_same, hu, ↓reduceIte]
  unit := by rw [getElem_setCtl, getElem_inFlight]; exact launchFlight_eq ..
  tokens n := by rw [getElem_setCtl, getElem_inFlight]; exact inCh_launchFlight ..
  memory _ := rfl

end

/-! ## What a firing comes to -/

section
variable {s : State} {u : UnitId} {slot : Nat} {word : Word} {i : Instr} {lat : Nat}

/-- An instruction that can fire and answers effects without commands or events of its firing's cycle fires. -/
theorem fire_fires {f : Elem → Nat → Firing} {r : Fired} (h : CanFire s u slot word i) (hx : exec i s = fire s i lat f)
    (hf : f (Machine.getElem s u) (Machine.getElem s u).tickets = .ok r) (hc : ∀ p c, Act.command p c ∉ r.acts)
    (he : r.events = []) (hs : r.sleep = none) : Fires s u slot word i lat r := by
  obtain ⟨ha, hr, hl⟩ := h
  refine ⟨_, hx.trans (fire_ready ha hr), ?_⟩
  rw [fireAt_ok hl hf hc he hs]
  dsimp only
  split
  next hu => exact inFlight_setCtl_frame _ _ _ _ _ _ _ hu
  next hu => exact inFlight_frame _ _ _ _ _ _ _ (Bool.eq_false_iff.mpr hu)

@[simp] theorem reads_v (s : State) (u : UnitId) (a : Src) : Reads.v ⟨Machine.getElem s u, s.cycle⟩ a = val s u a := rfl

theorem command_notMem_dstActs (e : Elem) (ticket : Nat) (d : Dst) (tag : BitVec 3) (v : Quad) (p : Nat) (c : Cmd) :
    Act.command p c ∉ dstActs e ticket d tag v := by
  cases d <;> simp only [dstActs, List.mem_cons, reduceCtorEq, List.not_mem_nil, or_self, not_false_eq_true]

/-- An instruction with one result gives what it computes of what it reads. -/
theorem fireTo_gives {d : Dst} {a : Src} {f : Reads → Num.Env → Quad × Num.Env} (h : CanFire s u slot word i)
    (hx : exec i s = fireTo s i lat d a f) {r : Quad × Num.Env}
    (hr : f ⟨Machine.getElem s u, s.cycle⟩ { flags := 0, sr := (Machine.getElem s u).srNow } = r) :
    Gives s u slot word i lat d a r.1 r.2.flags r.2.sr := by
  subst hr
  exact fire_fires h hx rfl (command_notMem_dstActs _ _ _ _ _) rfl rfl

theorem fireQ_yields {d : Dst} {a : Src} {f : Reads → Quad} (h : CanFire s u slot word i) (hx : exec i s = fireQ s i 1 d a f) :
    Yields s u slot word i d a (f ⟨Machine.getElem s u, s.cycle⟩) :=
  fireTo_gives h hx rfl

/-- An instruction with one predicate as its result decides it. -/
theorem fire_decides {f : Elem → Nat → Firing} {p : Fin 8} {b : Bool} {flags : Num.Flags} (h : CanFire s u slot word i)
    (hx : exec i s = fire s i lat f) (hf : f (Machine.getElem s u) (Machine.getElem s u).tickets =
      .ok { acts := [.p (predBit p) (if b then predBit p else 0)], flags := flags }) :
    Decides s u slot word i lat p b flags :=
  fire_fires h hx hf (fun _ _ => by simp only [List.mem_cons, reduceCtorEq, List.not_mem_nil, or_self, not_false_eq_true]) rfl rfl

end

/-! ## Lanes -/

theorem lanes_eq_map (w : Nat) (q : Quad) : lanes w q = (List.range (128 / w)).map (laneOf w q) := by
  refine List.ext_getElem? fun k => ?_
  by_cases h : k < 128 / w
  · rw [lanes_getElem? w q k h, List.getElem?_map, List.getElem?_range h]
    rfl
  · rw [List.getElem?_eq_none (by simpa only [lanes_length, Nat.not_lt] using h),
      List.getElem?_eq_none (by simpa only [List.length_map, List.length_range, Nat.not_lt] using h)]

theorem laneOf_lt (w : Nat) (q : Quad) (k : Nat) : laneOf w q k < 2 ^ w := Nat.mod_lt _ (Nat.two_pow_pos w)

theorem getD_map_range (f : Nat → Nat) {n k : Nat} (h : k < n) : ((List.range n).map f).getD k 0 = f k := by
  rw [List.getD_eq_getElem?_getD, List.getElem?_map, List.getElem?_range h, Option.map_some, Option.getD_some]

/-- Lanes that fit into a word come out of it as they were put in, and what is left of it is zero. -/
theorem ofLanes_laneWise {w : Nat} {xs : List Nat} (h : w * xs.length ≤ 128) :
    LaneWise w (ofLanes w xs) fun k => xs.getD k 0 % 2 ^ w := fun k _ => ofLanes_lane w xs k h

theorem ofLanes_map_laneWise (w : Nat) (f : Nat → Nat) :
    LaneWise w (ofLanes w ((List.range (128 / w)).map f)) fun k => f k % 2 ^ w := fun k hk =>
  (ofLanes_laneWise (by simpa only [List.length_map, List.length_range] using Nat.mul_div_le 128 w) k hk).trans (congrArg (· % 2 ^ w) (getD_map_range f hk))

end Sys2Proof.Machine
end

section
/-! SUPPORT. Lanes under one environment: the flags and draws that an instruction threads from lane to lane, lane 0 first (R86, R97, R104). -/

namespace Sys2Proof.Machine

open Sys2Proof Sys2Proof.Claims

/-! ## Threading -/

theorem mapEnv_cons {α : Type} (f : α → Num.Env → Nat × Num.Env) (x : α) (xs : List α) (env : Num.Env) :
    Num.mapEnv f (x :: xs) env = ((f x env).1 :: (Num.mapEnv f xs (f x env).2).1, (Num.mapEnv f xs (f x env).2).2) := rfl

theorem mapEnv_length {α : Type} (f : α → Num.Env → Nat × Num.Env) (xs : List α) (env : Num.Env) :
    (Num.mapEnv f xs env).1.length = xs.length := by
  induction xs generalizing env with
  | nil => rfl
  | cons x xs ih => exact congrArg (· + 1) (ih _)

theorem mapEnv_map {α β : Type} (f : β → Num.Env → Nat × Num.Env) (g : α → β) (xs : List α) (env : Num.Env) :
    Num.mapEnv f (xs.map g) env = Num.mapEnv (fun x => f (g x)) xs env := by
  induction xs generalizing env with
  | nil => rfl
  | cons x xs ih => simp only [List.map_cons, Num.mapEnv, ih]

theorem mapEnv_concat {α : Type} (f : α → Num.Env → Nat × Num.Env) (xs : List α) (x : α) (env : Num.Env) :
    Num.mapEnv f (xs ++ [x]) env =
      ((Num.mapEnv f xs env).1 ++ [(f x (Num.mapEnv f xs env).2).1], (f x (Num.mapEnv f xs env).2).2) := by
  induction xs generalizing env with
  | nil => rfl
  | cons y xs ih => simp only [List.cons_append, mapEnv_cons, ih]

/-- Pairs are taken as far as both lists have them. -/
theorem mapPairs_map {α : Type} (f : Nat → Nat → Num.Env → Nat × Num.Env) (x y : α → Nat) (ks : List α) (env : Num.Env) :
    mapPairs f (ks.map x) (ks.map y) env = Num.mapEnv (fun k => f (x k) (y k)) ks env := by
  induction ks generalizing env with
  | nil => rfl
  | cons k ks ih => simp only [List.map_cons, mapPairs, Num.mapEnv, ih]

/-- Lanes that raise flags and take no draw. -/
theorem mapEnv_raise {α : Type} (g : α → Nat) (fl : α → Num.Flags) (ks : List α) (env : Num.Env) :
    Num.mapEnv (fun k env => (g k, env.raise (fl k))) ks env =
      (ks.map g, { env with flags := ks.foldl (fun m k => m ||| fl k) env.flags }) := by
  induction ks generalizing env with
  | nil => rfl
  | cons k ks ih =>
    rw [mapEnv_cons, ih]
    rfl

/-! ## Rounding lane by lane -/

/-- The generator after a number of draws. -/
def draws (sr : Word) (k : Nat) : Word := Nat.rec sr (fun _ x => Num.srDraw x) k

theorem draws_zero (sr : Word) : draws sr 0 = sr := rfl

theorem draws_succ (sr : Word) (k : Nat) : draws sr (k + 1) = Num.srDraw (draws sr k) := rfl

/-- Lane k encoded with the draw that is its own: the (k+1)-th under SR, none in another mode. -/
def roundedLane (f : Num.Fp) (rm : Rounding) (sr : Word) (op : Nat → Num.Val × Num.Flags) (k : Nat) : Nat × Num.Flags :=
  Num.encode f rm (op k).1 (if rm = .sr then (draws sr (k + 1)).toNat else 0)

/-- One rounding, wherever the generator stands before it. -/
theorem roundLane_eq (f : Num.Fp) (rm : Rounding) (sr : Word) (op : Nat → Num.Val × Num.Flags) (k : Nat) (m : Num.Flags) :
    roundLane f rm (op k) ⟨m, if rm = .sr then draws sr k else sr⟩ =
      ((roundedLane f rm sr op k).1,
        ⟨m ||| (op k).2 ||| (roundedLane f rm sr op k).2, if rm = .sr then draws sr (k + 1) else sr⟩) := by
  by_cases h : rm = .sr
  · simp only [roundLane, Num.enc, Num.Env.draw, Num.Env.raise, roundedLane, draws_succ, if_pos h]
  · simp only [roundLane, Num.enc, Num.Env.draw, Num.Env.raise, roundedLane, if_neg h]

/-- Lanes rounded in order each take one draw under SR, and their flags come together. -/
theorem mapEnv_roundLane (f : Num.Fp) (rm : Rounding) (sr : Word) (op : Nat → Num.Val × Num.Flags) (n : Nat) :
    Num.mapEnv (fun k => roundLane f rm (op k)) (List.range n) ⟨0, sr⟩ =
      ((List.range n).map fun k => (roundedLane f rm sr op k).1,
        ⟨(List.range n).foldl (fun m k => m ||| (op k).2 ||| (roundedLane f rm sr op k).2) 0, if rm = .sr then draws sr n else sr⟩) := by
  induction n with
  | zero => simp only [List.range_zero, List.map_nil, List.foldl_nil, Num.mapEnv, draws_zero, ite_self]
  | succ n ih => simp only [List.range_succ, mapEnv_concat, ih, roundLane_eq, List.map_append, List.map_cons, List.map_nil,
      List.foldl_append, List.foldl_cons, List.foldl_nil]

/-! ## Instructions that round each lane once -/

section
variable {s : State} {u : UnitId} {slot : Nat} {word : Word} {i : Instr} {lat : Nat} {t : LaneType} {d : Dst} {a b : Src}

theorem lanes_pos (t : LaneType) : 0 < 128 / LaneType.width t := by cases t <;> decide

/-- An instruction that rounds lane k's exact result, lane 0 first, rounds its lanes as R129 says. -/
theorem fireTo_roundsLanes {F : Reads → Num.Env → Quad × Num.Env} (op : Nat → Num.Val × Num.Flags) (h : CanFire s u slot word i)
    (hx : exec i s = fireTo s i lat d a F)
    (hF : ∀ env, F ⟨Machine.getElem s u, s.cycle⟩ env =
      let r := Num.mapEnv (fun k => roundLane (LaneType.fp t) (Machine.getElem s u).rm (op k)) (List.range (128 / LaneType.width t)) env
      (ofLanes (LaneType.width t) r.1, r.2)) :
    RoundsLanes s u slot word i lat t d a op := by
  have hd (sr : Word) : draws sr (128 / LaneType.width t) = draws sr (128 / LaneType.width t - 1 + 1) :=
    congrArg _ (Nat.sub_add_cancel (lanes_pos t)).symm
  have hg := fireTo_gives h hx (hF _)
  simp only [mapEnv_roundLane, hd] at hg
  exact ⟨_, _, _, ofLanes_map_laneWise _ _, rfl, rfl, hg⟩

theorem float1_roundsLanes {op : Num.Val → Num.Val × Num.Flags} (h : CanFire s u slot word i) (hx : exec i s = float1 s i lat t d a op) :
    RoundsLanes s u slot word i lat t d a fun k => op (Num.decode (LaneType.fp t) (laneOf (LaneType.width t) (val s u a) k)) :=
  fireTo_roundsLanes _ h hx fun env => by
    dsimp only [reads_v]
    rw [lanes_eq_map, mapEnv_map]
    rfl

theorem float2_roundsLanes {op : Num.Val → Num.Val → Rounding → Num.Val × Num.Flags} (h : CanFire s u slot word i)
    (hx : exec i s = float2 s i lat t d a b op) :
    RoundsLanes s u slot word i lat t d a fun k => op (Num.decode (LaneType.fp t) (laneOf (LaneType.width t) (val s u a) k))
      (Num.decode (LaneType.fp t) (laneOf (LaneType.width t) (val s u b) k)) (Machine.getElem s u).rm :=
  fireTo_roundsLanes _ h hx fun env => by
    dsimp only [reads_v]
    rw [lanes_eq_map, lanes_eq_map, mapPairs_map]
    rfl

theorem float3_roundsLanes {op : Num.Val → Num.Val → Num.Val → Rounding → Num.Val × Num.Flags} (h : CanFire s u slot word i)
    (hx : exec i s = float3 s i t d a b op) :
    RoundsLanes s u slot word i 4 t d a fun k => op (Num.decode (LaneType.fp t) (laneOf (LaneType.width t) (val s u a) k))
      (Num.decode (LaneType.fp t) (laneOf (LaneType.width t) (val s u b) k))
      (Num.decode (LaneType.fp t) (laneOf (LaneType.width t) (dstVal s u d) k)) (Machine.getElem s u).rm :=
  fireTo_roundsLanes _ h hx fun env => by
    dsimp only [reads_v]
    simp only [lanes_eq_map, List.zip_map', mapEnv_map]
    rfl

end

end Sys2Proof.Machine
end

section
/-! PROOF. Floating-point results, rounded once. -/

open Sys2Proof Sys2Proof.Machine Sys2Proof.Claims

/-- Settles O9: every form is one exact result a lane, rounded once in the order of the lanes. -/
theorem floatResultsRoundOnce : Obligations.FloatResultsRoundOnce := by
  unfold Obligations.FloatResultsRoundOnce
  refine ⟨fun s u slot word t d a b _ => ⟨?_, ?_, ?_, ?_, ?_, ?_, ?_, ?_⟩, fun s u slot word t d a _ => ⟨?_, ?_, ?_, ?_, ?_, ?_, ?_, ?_⟩⟩
  -- sums, differences, products
  · exact fun h => float2_roundsLanes h (exec_fadd ..)
  · exact fun h => float2_roundsLanes h (exec_fsub ..)
  · exact fun h => float2_roundsLanes h (exec_fmul ..)
  -- fused products
  · exact fun h => float3_roundsLanes h (exec_fma ..)
  · exact fun h => float3_roundsLanes h (exec_fms ..)
  · exact fun h => float3_roundsLanes h (exec_fnma ..)
  -- quotients and roots
  · exact fun h => float2_roundsLanes h (exec_fdiv ..)
  · exact fun h => float1_roundsLanes h (exec_fsqrt ..)
  -- transcendentals
  · exact fun h => float1_roundsLanes h (exec_frcp ..)
  · exact fun h => float1_roundsLanes h (exec_frsq ..)
  · exact fun h => float1_roundsLanes h (exec_fexp2 ..)
  · exact fun h => float1_roundsLanes h (exec_flog2 ..)
  · exact fun h => float1_roundsLanes h (exec_fsig ..)
  · exact fun h => float1_roundsLanes h (exec_ftanh ..)
  · exact fun h => float1_roundsLanes h (exec_fsin ..)
  · exact fun h => float1_roundsLanes h (exec_fcos ..)
end

section
/-! SUPPORT. Floating-point order, signs, classes and comparisons: lanes that nothing rounds (R131 to R134). -/

namespace Sys2Proof.Machine

open Sys2Proof Sys2Proof.Claims

/-! ## Lanes of bits -/

/-- Adding the top bit flips it, and the carry is lost (R132). -/
theorem add_topBit {w x : Nat} (hw : 0 < w) (hx : x < 2 ^ w) : (x + 2 ^ (w - 1)) % 2 ^ w = x ^^^ 2 ^ (w - 1) := by
  obtain ⟨n, rfl⟩ := Nat.exists_eq_add_one.mpr hw
  rw [Nat.add_sub_cancel]
  refine Nat.eq_of_testBit_eq fun i => ?_
  rw [Nat.add_comm, Nat.testBit_mod_two_pow, Nat.testBit_xor, Nat.testBit_two_pow]
  rcases Nat.lt_trichotomy i n with h | rfl | h
  · rw [Nat.testBit_two_pow_add_gt h]
    simp only [Nat.lt_succ_of_lt h, Nat.ne_of_gt h, decide_true, decide_false, Bool.true_and, Bool.xor_false]
  · rw [Nat.testBit_two_pow_add_eq]
    simp only [Nat.lt_succ_self, decide_true, Bool.true_and, Bool.xor_true]
  · have hb : x.testBit i = false := Nat.testBit_lt_two_pow (Nat.lt_of_lt_of_le hx (Nat.pow_le_pow_right (by decide) h))
    simp only [hb, Nat.ne_of_lt h, Nat.not_lt.mpr (Nat.succ_le_of_lt h), decide_false, Bool.false_and, Bool.xor_false]

/-- What is left without the top bit fits (R132). -/
theorem mod_topBit (w x : Nat) : x % 2 ^ (w - 1) % 2 ^ w = x % 2 ^ (w - 1) :=
  Nat.mod_eq_of_lt (Nat.lt_of_lt_of_le (Nat.mod_lt _ (Nat.two_pow_pos _)) (Nat.pow_le_pow_right (by decide) (Nat.sub_le ..)))

theorem classBit_lt (f : Num.Fp) (x : Nat) : classBit f x < 2 ^ 10 := by
  unfold classBit
  repeat' split
  all_goals decide

theorem sixteen_le_width {t : LaneType} (ht : t.isFloat = true) : 16 ≤ LaneType.width t := by
  revert ht
  cases t <;> decide

section
variable {s : State} {u : UnitId} {slot : Nat} {word : Word} {i : Instr} {t : LaneType} {d : Dst} {a b : Src}

/-- An instruction that makes each lane from one lane yields those lanes, whichever way they fit (R132, R133). -/
theorem fireQ_lanes {w : Nat} {g g' : Nat → Nat} (hg : ∀ x, x < 2 ^ w → g x % 2 ^ w = g' x) (h : CanFire s u slot word i)
    (hx : exec i s = fireQ s i 1 d a fun r => ofLanes w ((lanes w (r.v a)).map g)) :
    ∃ v, LaneWise w v (fun k => g' (laneOf w (val s u a) k)) ∧ Yields s u slot word i d a v := by
  refine ⟨_, fun k hk => ?_, fireQ_yields h hx⟩
  rw [lanes_eq_map, List.map_map, ofLanes_map_laneWise _ _ k hk]
  exact hg _ (laneOf_lt ..)

/-- Minima and maxima encode exactly, and raise what their operands raise (R131). -/
theorem exact2_gives {op : Num.Val → Num.Val → Num.Val × Num.Flags} (h : CanFire s u slot word i) (hx : exec i s = exact2 s i t d a b op) :
    let r (k : Nat) := op (Num.decode (LaneType.fp t) (laneOf (LaneType.width t) (val s u a) k))
      (Num.decode (LaneType.fp t) (laneOf (LaneType.width t) (val s u b) k))
    ∃ v, LaneWise (LaneType.width t) v (fun k => (Num.encode (LaneType.fp t) .rne (r k).1 0).1 % 2 ^ LaneType.width t) ∧
      Gives s u slot word i 4 d a v ((List.range (128 / LaneType.width t)).foldl (fun m k => m ||| (r k).2) 0)
        (Machine.getElem s u).srNow := by
  have hg := fireTo_gives h hx rfl
  dsimp only [reads_v] at hg
  rw [lanes_eq_map, lanes_eq_map, mapPairs_map, mapEnv_raise] at hg
  exact ⟨_, ofLanes_map_laneWise _ _, hg⟩

/-! ## Comparisons -/

theorem reduceMode_map_range (m : Reduce) {n : Nat} (hn : 0 < n) (f : Nat → Bool) : reduceMode m ((List.range n).map f) = reduced m n f := by
  cases m with
  | all => exact List.all_map
  | any => exact List.any_map
  | lane0 =>
    obtain ⟨n, rfl⟩ := Nat.exists_eq_add_one.mpr hn
    rw [List.range_succ_eq_map]
    rfl

/-- A test of the lanes of two operands, one operand after the other or lane by lane. -/
theorem any_map_append_map {α β : Type} (q : β → Bool) (x y : α → β) (ks : List α) :
    (ks.map x ++ ks.map y).any q = ks.any fun k => q (x k) || q (y k) := by
  induction ks with
  | nil => rfl
  | cons k ks ih =>
    simp only [List.any_append, List.any_map, List.any_cons, Function.comp] at ih ⊢
    rw [← ih]
    ac_rfl

/-- A comparison decides its reduced test, and raises NV for any NaN or for a signalling one only (R134). -/
theorem floatCmp_decides {m : Reduce} {p : Fin 8} {anyNaN : Bool} {test : Num.Val → Num.Val → Bool} (h : CanFire s u slot word i)
    (hx : exec i s = floatCmp s i t m p a b anyNaN test) :
    let x (k : Nat) := Num.decode (LaneType.fp t) (laneOf (LaneType.width t) (val s u a) k)
    let y (k : Nat) := Num.decode (LaneType.fp t) (laneOf (LaneType.width t) (val s u b) k)
    let n := 128 / LaneType.width t
    let raises (v : Num.Val) : Bool := if anyNaN then v.isNaN else v = .nan true
    Decides s u slot word i 4 p (reduced m n fun k => test (x k) (y k))
      (if (List.range n).any fun k => raises (x k) || raises (y k) then Num.fNV else 0) := by
  intro x y n raises
  refine fire_decides h hx ?_
  dsimp only
  rw [lanes_eq_map, lanes_eq_map, List.map_map, List.map_map, List.zipWith_map, List.zipWith_self, reduceMode_map_range m (lanes_pos t),
    Num.sigNV, any_map_append_map, any_map_append_map]
  cases anyNaN <;> rfl

end

end Sys2Proof.Machine
end

section
/-! PROOF. Floating-point order, signs and classes. -/

open Sys2Proof Sys2Proof.Machine Sys2Proof.Claims

/-- Settles O10: the orders encode exactly, signs and classes are functions of a lane's bits, and a comparison reduces its test of the lanes. -/
theorem floatOrderSignsAndClasses : Obligations.FloatOrderSignsAndClasses := by
  unfold Obligations.FloatOrderSignsAndClasses
  intro s u slot word t m p d a b ht w n f sr x vx vy flags anyLane quiet loud
  refine ⟨?_, ?_, ?_, ?_, ?_, ?_, ?_, ?_, ?_⟩
  · exact fun h => exact2_gives h (exec_fmin ..)
  · exact fun h => exact2_gives h (exec_fmax ..)
  -- the sign operations and the class
  · exact fun h => fireQ_lanes (fun x _ => mod_topBit w x) h (exec_fabs ..)
  · exact fun h => fireQ_lanes (fun _ hx => add_topBit (width_pos t) hx) h (exec_fneg ..)
  · exact fun h => fireQ_lanes (fun x _ => Nat.mod_eq_of_lt (Nat.lt_of_lt_of_le (classBit_lt f x)
      (Nat.pow_le_pow_right (by decide) (Nat.le_trans (by decide) (sixteen_le_width ht))))) h (exec_fclass ..)
  -- the comparisons
  · exact fun h => floatCmp_decides h (exec_fcmpEq ..)
  · exact fun h => floatCmp_decides h (exec_fcmpLt ..)
  · exact fun h => floatCmp_decides h (exec_fcmpLe ..)
  · exact fun h => floatCmp_decides h (exec_fcmpUn ..)
end

section
/-! SUPPORT. Lane groups: which lanes a conversion or a quantised form takes from a word, and where it puts them (R135, R141, R142). -/

namespace Sys2Proof.Machine

open Sys2Proof Sys2Proof.Claims

theorem lanes_drop_take {w off n : Nat} (q : Quad) (h : off + n ≤ 128 / w) :
    ((lanes w q).drop off).take n = (List.range n).map fun j => laneOf w q (off + j) := by
  obtain ⟨m, hm⟩ := Nat.exists_eq_add_of_le h
  rw [lanes_eq_map, hm, Nat.add_assoc, List.range_add, List.map_append, List.drop_left' (by rw [List.length_map, List.length_range]), List.map_map, ← List.map_take,
    List.take_range, Nat.min_eq_left (Nat.le_add_right ..)]
  rfl

theorem getD_replicate_append (n : Nat) (xs : List Nat) (k : Nat) :
    (List.replicate n 0 ++ xs).getD k 0 = if k < n then 0 else xs.getD (k - n) 0 := by
  rw [List.getD_eq_getElem?_getD, List.getD_eq_getElem?_getD]
  split
  next h => rw [List.getElem?_append_left (by simpa only [List.length_replicate] using h), List.getElem?_replicate_of_lt h, Option.getD_some]
  next h =>
    rw [List.getElem?_append_right (by simpa only [List.length_replicate, Nat.not_lt] using h), List.length_replicate]

/-- A lane group lies within the word with the more lanes (R135). -/
def GroupFits (ws wd g : Nat) : Prop := (g + 1) * min (128 / ws) (128 / wd) ≤ max (128 / ws) (128 / wd)

/-- The source lanes that a conversion takes, lane 0 first. -/
def groupLanes (ws wd g : Nat) (q : Quad) : List Nat :=
  (List.range (min (128 / ws) (128 / wd))).map fun j => laneOf ws q (if 128 / wd > 128 / ws then j else g * (128 / wd) + j)

/-- The result lanes of a conversion: the converted lanes, and zero before them where the result has lanes to spare. -/
def placed (ws wd g : Nat) (xs : List Nat) : List Nat := if 128 / wd > 128 / ws then List.replicate (g * (128 / ws)) 0 ++ xs else xs

theorem placeLanes_eq {ws wd g : Nat} (f : Nat → Num.Env → Nat × Num.Env) (q : Quad) (env : Num.Env) (h : GroupFits ws wd g) :
    placeLanes ws wd g f q env =
      (ofLanes wd (placed ws wd g (Num.mapEnv f (groupLanes ws wd g q) env).1), (Num.mapEnv f (groupLanes ws wd g q) env).2) := by
  unfold placeLanes placed groupLanes
  unfold GroupFits at h
  by_cases hl : 128 / wd > 128 / ws
  · simp only [hl, ↓reduceIte, lanes_eq_map, Nat.min_eq_left (Nat.le_of_lt hl)]
  · rw [Nat.min_eq_right (Nat.not_lt.mp hl), Nat.max_eq_left (Nat.not_lt.mp hl), Nat.succ_mul] at h
    simp only [hl, ↓reduceIte, Nat.min_eq_right (Nat.not_lt.mp hl), lanes_drop_take q h]

theorem placed_laneWise {ws wd g : Nat} {xs : List Nat} (h : GroupFits ws wd g) (hn : xs.length = min (128 / ws) (128 / wd)) :
    LaneWise wd (ofLanes wd (placed ws wd g xs)) fun k =>
      (if 128 / wd > 128 / ws then (if k < g * (128 / ws) then 0 else xs.getD (k - g * (128 / ws)) 0) else xs.getD k 0) % 2 ^ wd := by
  have hlen : (placed ws wd g xs).length ≤ 128 / wd := by
    unfold placed
    unfold GroupFits at h
    split
    next hl =>
      rw [Nat.min_eq_left (Nat.le_of_lt hl)] at h hn
      rw [Nat.max_eq_right (Nat.le_of_lt hl), Nat.succ_mul] at h
      simpa only [List.length_append, List.length_replicate, hn] using h
    next hl => exact hn ▸ Nat.min_le_right ..
  refine fun k hk => (ofLanes_laneWise (Nat.le_trans (Nat.mul_le_mul_left _ hlen) (Nat.mul_div_le 128 wd)) k hk).trans ?_
  dsimp only
  unfold placed
  split
  · rw [getD_replicate_append]
  · rfl

section
variable {s : State} {u : UnitId} {slot : Nat} {word : Word} {i : Instr} {d : Dst} {a : Src}

/-- An instruction that places its lane group, converted lane by lane, converts it as R135 says. -/
theorem fireTo_converts {ws wd g : Nat} {f : Nat → Num.Env → Nat × Num.Env} {F : Reads → Num.Env → Quad × Num.Env}
    (h : CanFire s u slot word i) (hg : GroupFits ws wd g) (hx : exec i s = fireTo s i 4 d a F)
    (hF : ∀ env, F ⟨Machine.getElem s u, s.cycle⟩ env = placeLanes ws wd g f (val s u a) env) : Converts s u slot word i d a ws wd g f :=
  ⟨_, placed_laneWise hg (by rw [mapEnv_length, List.length_map, List.length_range]), fireTo_gives h hx ((hF _).trans (placeLanes_eq f _ _ hg))⟩

end

/-! ## The groups that the tables allow (R135 to R138) -/

theorem convOk_group {c : ConvShape} {g : Fin 4} {rm : Option Rounding} (h : convOk c g rm = true) : g.val < c.groups := by
  simp only [convOk, Bool.and_eq_true, decide_eq_true_eq] at h
  exact h.1

theorem cvt_groupFits : ∀ (row : Fin 16) (g : Fin 4), g.val < (cvtShape row).groups →
    GroupFits (cvtPair row).1.bits (cvtPair row).2.bits g := by unfold GroupFits; decide

theorem cvti_groupFits : ∀ (row : Fin 11) (g : Fin 4), g.val < (cvtiShape row).groups →
    GroupFits (cvtiPair row).1.bits (cvtiPair row).2.1 g := by unfold GroupFits; decide

theorem cvtf_groupFits : ∀ (row : Fin 11) (g : Fin 4), g.val < (cvtfShape row).groups →
    GroupFits (cvtfPair row).1 (cvtfPair row).2.2.bits g := by unfold GroupFits; decide

end Sys2Proof.Machine
end

section
/-! PROOF. Conversions. -/

open Sys2Proof Sys2Proof.Machine Sys2Proof.Claims

/-- Settles O11: each conversion places a lane group, and the groups that the tables allow lie within the words. -/
theorem conversionsOfLanes : Obligations.ConversionsOfLanes := by
  unfold Obligations.ConversionsOfLanes
  intro s u slot word g rm d a mode
  refine ⟨fun row hc h => ?_, fun row hc h => ?_, fun row hc h => ?_⟩
  · exact fireTo_converts h (cvt_groupFits row g (convOk_group hc)) (exec_cvt ..) fun _ => rfl
  · exact fireTo_converts h (cvti_groupFits row g (convOk_group hc)) (exec_cvti ..) fun _ => rfl
  · exact fireTo_converts h (cvtf_groupFits row g (convOk_group hc)) (exec_cvtf ..) fun _ => rfl
end

section
/-! SUPPORT. The split, the dot product of two terms, and block quantisation (R139 to R142). -/

namespace Sys2Proof.Machine

open Sys2Proof Sys2Proof.Claims

theorem raise_first (sr : Word) (fl : Num.Flags) : Num.Env.raise ⟨0, sr⟩ fl = ⟨fl, sr⟩ := congrArg (Num.Env.mk · sr) (BitVec.zero_or ..)

theorem laneOf_zero (w : Nat) (q : Quad) : laneOf w q 0 = q.toNat % 2 ^ w := by rw [laneOf, Nat.mul_zero, Nat.pow_zero, Nat.div_one]

/-- Lane k of the eight FP32 lanes of two words, the first word's lower (R139). -/
def lanePair (a b : Quad) (k : Nat) : Nat := if k < 4 then laneOf 32 a k else laneOf 32 b (k - 4)

theorem lanes_append_lanes (a b : Quad) : lanes 32 a ++ lanes 32 b = (List.range 8).map (lanePair a b) := by
  rw [lanes_eq_map, lanes_eq_map]
  rfl

/-- The dot product takes lanes two by two (R140). -/
theorem dotPairs_map (f g : Num.Fp) (rm : Rounding) (n : Nat) (x y : Nat → Nat) (env : Num.Env) :
    dotPairs f g rm ((List.range (2 * n)).map x) ((List.range (2 * n)).map y) env =
      Num.mapEnv (fun k => roundLane g rm (dotPair f rm (x (2 * k)) (y (2 * k)) (x (2 * k + 1)) (y (2 * k + 1)))) (List.range n) env := by
  induction n generalizing x y env with
  | zero => rfl
  | succ n ih =>
    simp only [Nat.mul_succ, List.range_succ_eq_map, List.map_cons, List.map_map, dotPairs, mapEnv_cons, mapEnv_map]
    rw [ih]
    rfl

theorem isDot_lanes {t : LaneType} (ht : t.isDot = true) : 128 / LaneType.width t = 2 * (64 / LaneType.width t) := by
  revert ht
  cases t <;> decide

/-- A block's scale code is a byte (R141). -/
theorem mxScale_lt (m : MxFmt) (v : Num.Val) : (mxScale m v).1 < 256 := by
  cases v with
  | fin neg num den =>
    unfold mxScale Num.clampI
    dsimp only
    split
    · decide
    · omega
  | nan => exact Nat.lt_succ_self 255
  | inf => exact Nat.lt_succ_self 255

section
variable {s : State} {u : UnitId} {slot : Nat} {word : Word} {t : LaneType} {d : Dst} {a b : Src}

theorem split3_gives {term : SplitTerm} (h : CanFire s u slot word (.split3 term d a b)) :
    let both := lanePair (val s u a) (val s u b)
    ∃ v, LaneWise 16 v (fun k => splitLane term (both k) % 2 ^ 16) ∧
      Gives s u slot word (.split3 term d a b) 4 d a v
        (if (List.range 8).any fun k => Num.decode .fp32 (both k) = .nan true then Num.fNV else 0) (Machine.getElem s u).srNow := by
  have hg := fireTo_gives h (exec_split3 ..) rfl
  dsimp only [reads_v] at hg
  rw [lanes_append_lanes, List.map_map, List.map_map, Num.sigNV, List.any_map, raise_first] at hg
  exact ⟨_, ofLanes_map_laneWise 16 _, hg⟩

theorem fdot2_gives (ht : t.isDot = true) (h : CanFire s u slot word (.fdot2 t d a b)) :
    let rm := (Machine.getElem s u).rm
    let w := LaneType.width t
    let x := laneOf w (val s u a)
    let y := laneOf w (val s u b)
    let dot := Num.mapEnv (fun k => roundLane (if LaneType.fp t = .fp32 then .fp64 else .fp32) rm
      (dotPair (LaneType.fp t) rm (x (2 * k)) (y (2 * k)) (x (2 * k + 1)) (y (2 * k + 1)))) (List.range (64 / w))
      { flags := 0, sr := (Machine.getElem s u).srNow }
    ∃ v, LaneWise (2 * w) v (fun k => dot.1.getD k 0 % 2 ^ (2 * w)) ∧
      Gives s u slot word (.fdot2 t d a b) 4 d a v dot.2.flags dot.2.sr := by
  intro rm w x y dot
  have hlen : 2 * w * dot.1.length ≤ 128 := by
    rw [mapEnv_length, List.length_range, Nat.mul_right_comm, ← isDot_lanes ht, Nat.mul_comm]
    exact Nat.mul_div_le 128 w
  have hg := fireTo_gives h (exec_fdot2 ..) rfl
  dsimp only [reads_v] at hg
  rw [lanes_eq_map, lanes_eq_map, isDot_lanes ht, dotPairs_map] at hg
  exact ⟨_, ofLanes_laneWise hlen, hg⟩

theorem qmxScale_gives {m : MxFmt} (h : CanFire s u slot word (.qmxScale m d a)) :
    let r := mxScale m (Num.decode .fp32 (laneOf 32 (val s u a) 0))
    ∃ v : Quad, v.toNat = r.1 ∧ Gives s u slot word (.qmxScale m d a) 4 d a v r.2 (Machine.getElem s u).srNow := by
  intro r
  have hg := fireTo_gives h (exec_qmxScale ..) rfl
  dsimp only [reads_v] at hg
  rw [← laneOf_zero, raise_first] at hg
  exact ⟨.ofNat 128 r.1, Nat.mod_eq_of_lt (Nat.lt_trans (mxScale_lt ..) (by decide)), hg⟩

theorem qmxEnc_gives {m : MxFmt} (h : CanFire s u slot word (.qmxEnc m d a b)) :
    let c := (val s u b).toNat
    let enc := Num.mapEnv (fun k => qmxElem m (c % 256) (Machine.getElem s u).rm (laneOf 32 (val s u a) k)) [0, 1, 2, 3]
      { flags := 0, sr := (Machine.getElem s u).srNow }
    ∃ v, LaneWise 8 v (fun k => if 4 * (c / 256 % 4) ≤ k then enc.1.getD (k - 4 * (c / 256 % 4)) 0 % 2 ^ 8 else 0) ∧
      Gives s u slot word (.qmxEnc m d a b) 4 d a v enc.2.flags enc.2.sr := by
  intro c enc
  have hlen : 8 * (List.replicate (4 * (c / 256 % 4)) 0 ++ enc.1).length ≤ 128 := by
    rw [List.length_append, List.length_replicate, mapEnv_length]
    simp only [List.length_cons, List.length_nil]
    omega
  have hg := fireTo_gives h (exec_qmxEnc ..) rfl
  dsimp only [reads_v] at hg
  rw [lanes_eq_map, mapEnv_map] at hg
  refine ⟨_, fun k hk => (ofLanes_laneWise hlen k hk).trans ?_, hg⟩
  dsimp only
  rw [getD_replicate_append]
  rcases Nat.lt_or_ge k (4 * (c / 256 % 4)) with hb | hb
  · rw [if_pos hb, if_neg (Nat.not_le.mpr hb), Nat.zero_mod]
  · rw [if_neg (Nat.not_lt.mpr hb), if_pos hb]

theorem dqmx_gives {m : MxFmt} (h : CanFire s u slot word (.dqmx m d a b)) :
    let c := (val s u b).toNat
    let dec := Num.mapEnv (fun k => Num.enc .fp32 .rne (Num.mxDecode m (c % 256)
      (laneOf 8 (val s u a) (4 * (c / 256 % 4) + k) % 2 ^ Num.mxBits m))) [0, 1, 2, 3] { flags := 0, sr := (Machine.getElem s u).srNow }
    ∃ v, LaneWise 32 v (fun k => dec.1.getD k 0 % 2 ^ 32) ∧ Gives s u slot word (.dqmx m d a b) 4 d a v dec.2.flags dec.2.sr := by
  intro c dec
  have hgrp : 4 * ((val s u b).toNat / 256 % 4) + 4 ≤ 128 / 8 := by omega
  have hg := fireTo_gives h (exec_dqmx ..) rfl
  dsimp only [reads_v] at hg
  rw [lanes_drop_take _ hgrp, mapEnv_map] at hg
  exact ⟨_, ofLanes_laneWise (by rw [mapEnv_length]; decide), hg⟩

end

end Sys2Proof.Machine
end

section
/-! PROOF. The split, the dot product of two terms, and block quantisation. -/

open Sys2Proof Sys2Proof.Machine Sys2Proof.Claims

/-- Settles O12, instruction by instruction. -/
theorem splitDotAndBlockInstructions : Obligations.SplitDotAndBlockInstructions := by
  unfold Obligations.SplitDotAndBlockInstructions
  intro s u slot word t m term d a b e env f w g x y both dot c grp enc dec
  exact ⟨split3_gives, fdot2_gives, qmxScale_gives, qmxEnc_gives, dqmx_gives⟩
end

section
/-! SUPPORT. A firing that traps: what the unit, its control element and the agenda hold then (R21, R175). -/

namespace Sys2Proof.Machine

open Sys2Proof Sys2Proof.Claims

variable {s : State} {u : UnitId} {slot : Nat} {word : Word} {i : Instr} {lat : Nat}

theorem Elem.cause_stop_mod (e : Elem) (n c : Nat) : (e.stop n c).cause = c % 1024 := by
  simp only [Elem.cause, Elem.stop, BitVec.toNat_ofNat]
  omega

theorem Elem.fslot_stop_mod (e : Elem) (n c : Nat) : (e.stop n c).fslot = n % 32 := by
  simp only [Elem.fslot, Elem.stop, BitVec.toNat_ofNat]
  omega

theorem getCore_raiseTrap_of_ne (s : State) {k j : Nat} (h : k ≠ j) (t : TrapEntry) : getCore (raiseTrap s k t) j = getCore s j :=
  getCore_setCore_of_ne s h _

@[simp] theorem getElem_raiseTrap (s : State) (k : Nat) (t : TrapEntry) (v : UnitId) :
    Machine.getElem (raiseTrap s k t) v = Machine.getElem s v := by
  simp only [Machine.getElem, raiseTrap, getCore_setCore]
  split
  next h => subst h; rfl
  next => rfl

@[simp] theorem getCtl_raiseTrap (s : State) (k j : Nat) (t : TrapEntry) : getCtl (raiseTrap s k t) j = getCtl s j := by
  simp only [getCtl, raiseTrap, getCore_setCore]
  split
  next h => subst h; rfl
  next => rfl

/-- An instruction that can fire and finds a cause traps with it. -/
theorem fire_traps {f : Elem → Nat → Firing} {c : Cause} {a : Dword} (h : CanFire s u slot word i) (hx : exec i s = fire s i lat f)
    (hf : f (Machine.getElem s u) (Machine.getElem s u).tickets = .error (c, a)) : Traps s u slot word i c a := by
  obtain ⟨ha, hr, hl⟩ := h
  refine ⟨_, (hx.trans (fire_ready ha hr)).trans (congrArg _ (fireAt_error hl hf)), ?_⟩
  have hne {j : Nat} (hj : j ≠ u.ix) : u ≠ ⟨u.core, j⟩ := fun h => hj (congrArg UnitId.ix h).symm
  unfold trapUnit
  split
  next hu =>
    refine ⟨rfl, fun k hk => ?_, fun j hj => ?_, (getElem_setCtl ..).trans (getElem_setElem_same ..),
      congrArg Ctl.own (getCtl_setCtl_same ..), rfl⟩
    · exact (getCore_setCore_of_ne _ (Ne.symm hk) _).trans (getCore_setCore_of_ne _ (Ne.symm hk) _)
    · exact (getElem_setCtl ..).trans (getElem_setElem_of_ne _ (hne hj) _)
  next hu =>
    refine ⟨rfl, fun k hk => ?_, fun j hj => ?_, ?_⟩
    · rw [getCore_raiseTrap_of_ne _ (Ne.symm hk), setElem, getCore_setCore_of_ne _ (Ne.symm hk), setElem, getCore_setCore_of_ne _ (Ne.symm hk)]
    · rw [getElem_raiseTrap, getElem_setElem_of_ne _ (hne hj), getElem_setElem_of_ne _ (hne hj)]
    · let e := { Machine.getElem s u with firedAt := some s.cycle }
      simp only [getElem_raiseTrap, getElem_setElem_same]
      exact ⟨rfl, Elem.run_stop e _ _, Elem.cause_stop_mod e _ _, Elem.fslot_stop_mod e _ _,
        by simp only [raiseTrap, getCore_setCore_same, setElem]; rfl, rfl⟩

theorem hereOf_eq (h : CanFire s u slot word i) : hereOf s = slot := by rw [hereOf, h.1]

theorem unitOf_eq (h : CanFire s u slot word i) : unitOf s = u := by rw [unitOf, h.1]

end Sys2Proof.Machine
end

section
/-! PROOF. Branches, loops, calls and software traps. -/

open Sys2Proof Sys2Proof.Machine Sys2Proof.Claims

/-- Settles O19: each form's firing answers one jump, and a software trap its cause. -/
theorem branchesCallsAndSoftwareTraps : Obligations.BranchesCallsAndSoftwareTraps := by
  unfold Obligations.BranchesCallsAndSoftwareTraps
  refine ⟨fun s u slot word off d imm a => ?_, fun s u slot word k h => fire_traps h (exec_sysTrap ..) rfl⟩
  intro e to_ c x
  have hc : c = lo64 (e.dreg d) := laneOf_zero ..
  refine ⟨fun h => ?_, fun h h0 => ?_, fun h h0 => ?_, fun h => ?_, fun h => ?_⟩
  · exact fire_fires h (exec_br ..) (by rw [hereOf_eq h]; rfl) (by simp) rfl rfl
  · exact fire_fires h (exec_loop ..) (if_pos (hc ▸ h0)) (by simp) rfl rfl
  · refine fire_fires h (exec_loop ..) ((if_neg (hc ▸ h0)).trans ?_) (by simp) rfl rfl
    simp only [hereOf_eq h, ne_eq, ite_not, hc]
    rfl
  · exact fire_fires h (exec_sysCall ..) (by rw [hereOf_eq h]; rfl) (by simp) rfl rfl
  · exact fire_fires h (exec_sysRet ..) rfl (by simp) rfl rfl
end

section
/-! PROOF. The state after reset. -/

namespace Sys2Proof.Machine
open Sys2Proof

@[simp] theorem getCore_reset (k : Nat) : getCore State.reset k = {} := rfl

theorem cause_unset : Elem.cause {} = 0 := by decide

theorem fslot_unset : Elem.fslot {} = 0 := by decide

/-- After reset IDT0 covers all of memory, and the other entries are empty with the same hash (R291). -/
theorem idt_reset (n : Nat) (h : n < 16) : tfind State.reset.idt n = some (if n = 0 then resetIdt else resetIdtRest) := by
  revert n
  decide

end Sys2Proof.Machine

open Sys2Proof Sys2Proof.Machine Sys2Proof.Claims

/-- Settles O25, value by value. -/
theorem resetState : Obligations.ResetState := by
  unfold Obligations.ResetState
  intro s
  refine ⟨rfl, rfl, rfl, rfl, rfl, rfl, rfl, rfl, fun core => ⟨rfl, rfl, rfl, rfl, rfl, rfl, rfl, rfl⟩, fun u => ⟨rfl, rfl, cause_unset, fslot_unset, rfl⟩,
    fun core k => ⟨rfl, rfl, rfl, rfl⟩, fun n hn => ⟨_, idt_reset n hn, ?_⟩, fun w => ⟨rfl, rfl, rfl⟩, rfl, fun core => ⟨rfl, rfl, rfl, rfl⟩,
    fun a => rfl⟩
  split
  next h => subst h; decide
  next h => rw [beq_false_of_ne h]; decide
end

section
/-! SUPPORT. Taking a trap: the fields of its record in memory, and what entering the handler changes (R175, R176, R378). -/

namespace Sys2Proof.Machine

open Sys2Proof Sys2Proof.Claims

/-! ## Records of numbers -/

theorem Memory.readN_add (m : Tbl Byte) (a k n : Nat) : Memory.readN m a (k + n) = Memory.readN m a k ++ Memory.readN m (a + k) n := by
  induction k generalizing a with
  | zero => simp [Memory.readN]
  | succ k ih =>
    rw [Nat.succ_add]
    simp only [Memory.readN, List.cons_append, ih]
    rw [Nat.add_assoc, Nat.add_comm 1 k]

/-- Numbers one after another, each in its number of bytes. -/
def layout (fs : List (Nat × Nat)) : List Byte := fs.flatMap fun f => leBytes f.1 f.2

/-- Memory from an address on holds numbers one after another, each cut to its number of bytes. -/
def HoldsFields (m : Tbl Byte) : Nat → List (Nat × Nat) → Prop
  | _, [] => True
  | a, (n, x) :: fs => leNat (Memory.readN m a n) = x % 256 ^ n ∧ HoldsFields m (a + n) fs

theorem holdsFields_of_readN {m : Tbl Byte} {a : Nat} {fs : List (Nat × Nat)} (h : Memory.readN m a (layout fs).length = layout fs) :
    HoldsFields m a fs := by
  induction fs generalizing a with
  | nil => trivial
  | cons f fs ih =>
    have hl : layout (f :: fs) = leBytes f.1 f.2 ++ layout fs := List.flatMap_cons
    rw [hl, List.length_append, leBytes_length, Memory.readN_add] at h
    obtain ⟨hf, hfs⟩ := List.append_inj h (by simp)
    exact ⟨by rw [hf, leNat_leBytes], ih hfs⟩

theorem holdsFields_writeN {m : Tbl Byte} (a : Nat) (fs : List (Nat × Nat)) (h : Memory.wf m = true) :
    HoldsFields (Memory.writeN m a (layout fs)) a fs := holdsFields_of_readN (Memory.readN_writeN a _ h)

/-- The trap record's numbers, in the order in which they stand (R378). -/
def recordFields (ecause : Dword) (epc word : Word) (addr : Dword) (fslot row col flg : Nat) (detail : Quad) (cycle : Nat) (tnum : Dword) :
    List (Nat × Nat) :=
  [(8, ecause.toNat), (4, epc.toNat), (4, word.toNat), (8, addr.toNat), (1, fslot), (1, row), (1, col), (1, flg), (4, 0), (16, detail.toNat),
    (8, cycle), (8, tnum.toNat)]

section
variable (ecause : Dword) (epc word : Word) (addr : Dword) (fslot row col flg : Nat) (detail : Quad) (cycle : Nat) (tnum : Dword)

theorem trapRecord_eq_layout : trapRecord ecause epc word addr fslot row col flg detail cycle tnum =
    layout (recordFields ecause epc word addr fslot row col flg detail cycle tnum) := by
  simp [trapRecord, layout, recordFields, leBytes]

theorem trapRecord_length : (trapRecord ecause epc word addr fslot row col flg detail cycle tnum).length = 64 := by
  simp [trapRecord]

end

/-! ## Entering the handler -/

/-- A control element has entered its handler (R175, R176, R378): its registers, the record, and all else as it was but its trap queue. -/
def HandlerEntered (s t : State) (core ecause epc word addr fslot row col flg : Nat) (detail : Quad) (src : BitVec 2 × Nat) : Prop :=
  let x := getCtl s core
  let base := cpadPa core x.trbase.toNat
  let field (off n : Nat) : Nat := leNat (Memory.readN t.mem (base + off) n)
  getCtl t core = { x with ecause := .ofNat 64 ecause, epc := .ofNat 32 epc, eres := false, hnd := true, pc := x.tvec.toNat,
                           own := none, stall := s.cycle + 8, trapSrc := some src } ∧
  (getCore t core).tnum = (getCore s core).tnum + 1 ∧
  field 0 8 = ecause ∧ field 8 4 = epc % 2 ^ 32 ∧ field 12 4 = word ∧ field 16 8 = addr ∧ field 24 1 = fslot % 256 ∧
  field 25 1 = row % 256 ∧ field 26 1 = col ∧ field 27 1 = flg ∧ field 28 4 = 0 ∧ field 32 16 = detail.toNat ∧
  field 48 8 = s.cycle % 2 ^ 64 ∧ field 56 8 = ((getCore s core).tnum + 1).toNat ∧
  (∀ a, (a < base ∨ base + 64 ≤ a) → Memory.read t.mem a = Memory.read s.mem a) ∧
  (∀ j, Machine.getElem t ⟨core, j⟩ = Machine.getElem s ⟨core, j⟩) ∧ (∀ k, k ≠ core → getCore t k = getCore s k)

section
variable {s : State} {core : Nat} {src : BitVec 2 × Nat} {ecause epc fslot row col flg : Nat} {word : Word} {addr : Dword} {detail : Quad}

theorem getCore_withMem (s : State) (m : Tbl Byte) (k : Nat) : getCore { s with mem := m } k = getCore s k := rfl

theorem getCore_enterHandler (ec : Dword) (ep : Word) : getCore (enterHandler s core src ec ep word addr fslot row col flg detail) core =
    { getCore s core with
      ctl := { getCtl s core with ecause := ec, epc := ep, eres := false, hnd := true, pc := (getCtl s core).tvec.toNat, own := none,
                                  stall := s.cycle + 8, trapSrc := some src }
      tnum := (getCore s core).tnum + 1 } := by
  simp only [enterHandler, getCore_setCore_same, getCore_withMem]

theorem enterHandler_outside (ec : Dword) (ep : Word) {a : Nat}
    (ha : a < cpadPa core (getCtl s core).trbase.toNat ∨ cpadPa core (getCtl s core).trbase.toNat + 64 ≤ a) :
    Memory.read (enterHandler s core src ec ep word addr fslot row col flg detail).mem a = Memory.read s.mem a := by
  simp only [enterHandler, setCore_mem]
  exact Memory.read_writeN_outside _ (by rwa [trapRecord_length])

theorem getCore_enterHandler_of_ne (ec : Dword) (ep : Word) {k : Nat} (hk : k ≠ core) :
    getCore (enterHandler s core src ec ep word addr fslot row col flg detail) k = getCore s k := by
  simp only [enterHandler, getCore_setCore_of_ne _ (Ne.symm hk), getCore_withMem]

theorem enterHandler_holds (hs : Safe s) (ec : Dword) (ep : Word) :
    HoldsFields (enterHandler s core src ec ep word addr fslot row col flg detail).mem (cpadPa core (getCtl s core).trbase.toNat)
      (recordFields ec ep word addr fslot row col flg detail s.cycle ((getCore s core).tnum + 1)) := by
  simp only [enterHandler, setCore_mem, trapRecord_eq_layout]
  exact holdsFields_writeN _ _ hs

/-- What taking a trap comes to where its numbers fit their places in the record. -/
theorem enterHandler_enters (hs : Safe s) (he : ecause < 2 ^ 64) (hc : col < 256) (hf : flg < 256) :
    HandlerEntered s (enterHandler s core src (.ofNat 64 ecause) (.ofNat 32 epc) word addr fslot row col flg detail) core ecause epc
      word.toNat addr.toNat fslot row col flg detail src := by
  have hm := enterHandler_holds (core := core) (src := src) (fslot := fslot) (row := row) (col := col) (flg := flg) (word := word)
    (addr := addr) (detail := detail) hs (.ofNat 64 ecause) (.ofNat 32 epc)
  simp only [recordFields, HoldsFields, BitVec.toNat_ofNat, Nat.add_assoc, Nat.reduceAdd] at hm
  obtain ⟨h0, h8, h12, h16, h24, h25, h26, h27, h28, h32, h48, h56, -⟩ := hm
  have hcore := getCore_enterHandler (s := s) (core := core) (src := src) (fslot := fslot) (row := row) (col := col) (flg := flg)
    (word := word) (addr := addr) (detail := detail) (.ofNat 64 ecause) (.ofNat 32 epc)
  refine ⟨congrArg Core.ctl hcore, congrArg Core.tnum hcore, h0.trans ?_, h8.trans ?_, h12.trans ?_,
    h16.trans ?_, h24, h25, h26.trans ?_, h27.trans ?_, h28, h32.trans ?_, h48, h56.trans ?_, fun a ha => enterHandler_outside _ _ ha, fun j => ?_,
    fun k hk => getCore_enterHandler_of_ne _ _ hk⟩
  case refine_9 => rw [Machine.getElem, hcore]; rfl
  all_goals omega

/-- What a trap queue holds makes no difference to the rest. -/
theorem HandlerEntered.of_trapq {q : List TrapEntry} {t : State} {word addr : Nat}
    (h : HandlerEntered (setCore s core { getCore s core with trapq := q }) t core ecause epc word addr fslot row col flg detail src) :
    HandlerEntered s t core ecause epc word addr fslot row col flg detail src := by
  have hcore : getCore (setCore s core { getCore s core with trapq := q }) core = { getCore s core with trapq := q } :=
    getCore_setCore_same ..
  simp only [HandlerEntered, getCtl, hcore, setCore_mem, setCore_cycle] at h
  obtain ⟨hctl, htn, h0, h8, h12, h16, h24, h25, h26, h27, h28, h32, h48, h56, hout, hel, hcores⟩ := h
  refine ⟨hctl, htn, h0, h8, h12, h16, h24, h25, h26, h27, h28, h32, h48, h56, hout, fun j => (hel j).trans ?_, fun k hk => (hcores k hk).trans ?_⟩
  · rw [Machine.getElem, hcore]; rfl
  · exact getCore_setCore_of_ne _ (Ne.symm hk) _

theorem enterHandler_trapq (ec : Dword) (ep : Word) :
    (getCore (enterHandler s core src ec ep word addr fslot row col flg detail) core).trapq = (getCore s core).trapq := by
  rw [getCore_enterHandler]

end

/-! ## What TRAP_TAKEN does -/

section
variable {s : State} {core : Nat}

theorem wakeForTrap_awake (hz : (getCtl s core).sleep = none) : wakeForTrap s core = s := by
  simp only [wakeForTrap, wakeUp, hz]

theorem execTrapTaken_own {o : OwnTrap} (hst : (getCtl s core).stopped = false) (hr : (Machine.getElem s ⟨core, ceIx⟩).run = 1)
    (ho : (getCtl s core).own = some o) : execTrapTaken core s = .next (takeOwn s core o) := by
  simp [execTrapTaken, hst, hr, ho]

theorem execTrapTaken_none (ho : (getCtl s core).own = none) (ht : takesQueued s core = false) : execTrapTaken core s = .next s := by
  simp only [execTrapTaken, ho, ht, Bool.false_eq_true, ↓reduceIte, ite_self]

theorem execTrapTaken_queued {q : TrapEntry} (hst : (getCtl s core).stopped = false) (hr : (Machine.getElem s ⟨core, ceIx⟩).run = 1)
    (ho : (getCtl s core).own = none) (ht : takesQueued s core = true) (hq : (getCore s core).trapq = [q]) :
    execTrapTaken core s = .next (takeQueued s core q) := by
  simp [execTrapTaken, hst, hr, ho, ht, hq, nextEntry]

theorem takesQueued_iff : takesQueued s core = true ↔ (getCtl s core).hnd = false ∧ (getCtl s core).msk = false ∧
    (Machine.getElem s ⟨core, ceIx⟩).firedAt ≠ some s.cycle ∧ jumpInFlight (Machine.getElem s ⟨core, ceIx⟩) = false := by
  simp [takesQueued, and_assoc]

theorem takeOwn_enters {o : OwnTrap} (hh : (getCtl s core).hnd = false) (hrec : noRecord (getCtl s core) = false)
    (hz : (getCtl s core).sleep = none) : takeOwn s core o =
      enterHandler s core (0, 0) (.ofNat 64 (o.deferred.toNat * 2 ^ 24 + o.cause % 1024)) (.ofNat 32 o.pc) o.word o.addr 0 0 0
        o.deferred.toNat o.detail := by
  simp [takeOwn, hh, hrec, wakeForTrap_awake hz, ecauseWord]

/-- A trap inside a handler stops the control element of a core that is no lead and that no launch holds (R377). -/
theorem takeOwn_escalates {o : OwnTrap} (hh : (getCtl s core).hnd = true) (hl : (getPart s (partOf s core)).lead ≠ core)
    (hn : (getCore s core).launch = none) : takeOwn s core o =
      setCtl s core { getCtl s core with stopped := true, own := none } := by
  have hcore : getCore (setCtl s core { getCtl s core with stopped := true, own := none }) core =
      { getCore s core with ctl := { getCtl s core with stopped := true, own := none } } := getCore_setCore_same ..
  rw [takeOwn, if_pos (.inl hh), escalate]
  dsimp only
  have hp : partOf (setCtl s core { getCtl s core with stopped := true, own := none }) core = partOf s core := by
    rw [partOf, hcore]; rfl
  rw [hp, hcore]
  exact (if_neg hl).trans (by simp only [hn])

/-- A stopped element's trap, of which no other stands in the queue, is taken with its slot's word (R175, R378). -/
theorem takeQueued_enters {q : TrapEntry} (hq : (getCore s core).trapq = [q]) (hrec : noRecord (getCtl s core) = false)
    (hz : (getCtl s core).sleep = none) (hk : q.kind = 1) (hsrc : q.src < 64) (hc : q.cause ≠ 0x104) (hc' : q.cause ≠ 0x00C) :
    takeQueued s core q =
      enterHandler (setCore s core { getCore s core with trapq := [] }) core (1, q.src)
        (.ofNat 64 (q.repeats % 256 * 2 ^ 32 + q.deferred.toNat * 2 ^ 24 + 2 ^ 22 + q.src * 2 ^ 16 + q.cause % 1024))
        (.ofNat 32 (getCtl s core).pc) ((Machine.getElem s ⟨core, q.src⟩).slot (Machine.getElem s ⟨core, q.src⟩).fslot) q.addr
        (Machine.getElem s ⟨core, q.src⟩).fslot (q.src / 8) (q.src % 8) (q.deferred.toNat + 2 * q.krf.toNat) q.detail := by
  have hcore : getCore (setCore s core { getCore s core with trapq := [] }) core = { getCore s core with trapq := [] } :=
    getCore_setCore_same ..
  have hz' : (getCtl (setCore s core { getCore s core with trapq := [] }) core).sleep = none := by rw [getCtl, hcore]; exact hz
  have he : Machine.getElem (setCore s core { getCore s core with trapq := [] }) ⟨core, q.src⟩ = Machine.getElem s ⟨core, q.src⟩ := by
    rw [Machine.getElem, hcore]; rfl
  have hslot : q.atSlot = true := by simp [TrapEntry.atSlot, hk, hc, hc']
  have hec : ecauseWord 1#2 q.src q.cause q.repeats q.deferred =
      .ofNat 64 (q.repeats % 256 * 2 ^ 32 + q.deferred.toNat * 2 ^ 24 + 2 ^ 22 + q.src * 2 ^ 16 + q.cause % 1024) := by
    simp [ecauseWord, Nat.mod_eq_of_lt hsrc]
  rw [getCtl] at hrec
  simp [takeQueued, hq, hrec, wakeForTrap_awake hz', he, hslot, hk, hec, getCtl]

end

end Sys2Proof.Machine
end

section
/-! PROOF. Taking a trap. -/

open Sys2Proof Sys2Proof.Machine Sys2Proof.Claims

/-- Settles O30: TRAP_TAKEN by which trap there is, and the handler's entry by the record's fields. -/
theorem trapTakenEntersTheHandler : Obligations.TrapTakenEntersTheHandler := by
  unfold Obligations.TrapTakenEntersTheHandler
  intro s core u x base hsafe hst hrun hz htb taken
  have hrec : noRecord x = false := decide_eq_false (Nat.not_lt.mpr htb)
  refine ⟨fun o ho hh => ?_, fun q ho hq hh hm hf hj hk hsrc hc hc' => ?_, fun o ho hh hl hn => ?_, fun ho hw => ?_⟩
  · have hd := o.deferred.toNat_le
    exact ⟨_, (execTrapTaken_own hst hrun ho).trans (congrArg _ (takeOwn_enters hh hrec hz)),
      enterHandler_enters hsafe (by omega) (by decide) (by omega), enterHandler_trapq ..⟩
  · have ht : takesQueued s core = true := takesQueued_iff.mpr ⟨hh, hm, hf, hj⟩
    have hd := q.deferred.toNat_le
    have hkr := q.krf.toNat_le
    refine ⟨_, (execTrapTaken_queued hst hrun ho ht hq).trans (congrArg _ (takeQueued_enters hq hrec hz hk hsrc hc hc')), ?_,
      HandlerEntered.of_trapq (enterHandler_enters hsafe (by omega) (by omega) (by omega))⟩
    rw [enterHandler_trapq, getCore_setCore_same]
  · exact (execTrapTaken_own hst hrun ho).trans (congrArg _ (takeOwn_escalates hh hl hn))
  · refine execTrapTaken_none ho (Bool.eq_false_iff.mpr fun ht => ?_)
    obtain ⟨hh, hm, hf, -⟩ := takesQueued_iff.mp ht
    rcases hw with h | h | h
    · exact Bool.false_ne_true (hh.symm.trans h)
    · exact Bool.false_ne_true (hm.symm.trans h)
    · exact hf h
end

section
/-! SUPPORT. What becomes visible: an instruction that neither faults nor asks is its element's own part and then its effects (R19, R21). -/

namespace Sys2Proof.Machine

open Sys2Proof Sys2Proof.Claims

/-! ## The element's own part -/

/-- Tokens that leave change the input channels alone. -/
theorem removeEaten_eq (e : Elem) (m : BitVec 4) (cyc : Nat) : removeEaten e m cyc = { e with inq := (removeEaten e m cyc).inq } := by
  simp only [removeEaten, List.foldl_cons, List.foldl_nil]
  repeat' split
  all_goals rfl

section
variable (e : Elem) (f : Flight) (cyc : Nat)

@[simp] theorem settleFlight_d : (settleFlight e f cyc).d = e.d := by rw [settleFlight, removeEaten_eq]
@[simp] theorem settleFlight_a : (settleFlight e f cyc).a = e.a := by rw [settleFlight, removeEaten_eq]
@[simp] theorem settleFlight_lane : (settleFlight e f cyc).lane = e.lane := by rw [settleFlight, removeEaten_eq]
@[simp] theorem settleFlight_estat : (settleFlight e f cyc).estat = e.estat := by rw [settleFlight, removeEaten_eq]
@[simp] theorem settleFlight_p : (settleFlight e f cyc).p = predsAfter e.p f := by rw [settleFlight, removeEaten_eq]
@[simp] theorem settleFlight_pendD : (settleFlight e f cyc).pendD = e.pendD &&& ~~~(f.pendD &&& ~~~f.keepD) := by
  rw [settleFlight, removeEaten_eq]
@[simp] theorem settleFlight_dreg (n : Nat) : (settleFlight e f cyc).dreg n = e.dreg n := by rw [Elem.dreg, settleFlight_d]; rfl
@[simp] theorem settleFlight_run : (settleFlight e f cyc).run = e.run := by rw [Elem.run, settleFlight_estat]; rfl

end

/-- The state in which an instruction's own part of its V is done, and its effects have still to come. -/
def ownPart (s : State) (u : UnitId) (f : Flight) : State := setElem s u (settleFlight (Machine.getElem s u) f s.cycle)

section
variable (s : State) (u : UnitId) (f : Flight)

@[simp] theorem getElem_ownPart : Machine.getElem (ownPart s u f) u = settleFlight (Machine.getElem s u) f s.cycle := getElem_setElem_same ..
theorem getElem_ownPart_of_ne {v : UnitId} (h : u ≠ v) : Machine.getElem (ownPart s u f) v = Machine.getElem s v := getElem_setElem_of_ne s h _
@[simp] theorem getCtl_ownPart (k : Nat) : getCtl (ownPart s u f) k = getCtl s k := getCtl_setElem ..
theorem getCore_ownPart (k : Nat) : getCore (ownPart s u f) k = { getCore s k with elems := (getCore (ownPart s u f) k).elems } := by
  simp only [ownPart, setElem, getCore_setCore]
  split
  next h => subst h; rfl
  next => rfl

end

/-! ## Instructions without a fault or a request -/

section
variable {s : State} {u : UnitId} {f : Flight} {rest : List Flight}

theorem flightFault_none (ht : f.trap = none) (ha : f.acts.findSome? (actFault s u.core) = none) : flightFault s u f = none := by
  simp only [flightFault, ht, ha]

theorem instructionVisible_shows (hf : (Machine.getElem s u).flights = f :: rest) (hv : f.vis ≤ s.cycle) (hfault : flightFault s u f = none)
    (hm : flightMem f = none) : exec (.instructionVisible u) s = .next (f.acts.foldl (applyAct u f) (ownPart s u f)) := by
  show execInstructionVisible u s = _
  simp only [execInstructionVisible, hf, hv, ↓reduceIte, visibleNow, hfault, hm, showFlight]
  rfl

/-- An instruction whose request is accepted has its effects on the state that the acceptance leaves. -/
theorem instructionVisible_accepted {t : State} {m : MemSpec} (hf : (Machine.getElem s u).flights = f :: rest) (hv : f.vis ≤ s.cycle)
    (hfault : flightFault s u f = none) (hm : flightMem f = some m) (ha : acceptMem s u f m = .ok t) :
    exec (.instructionVisible u) s = .next (f.acts.foldl (applyAct u f) (ownPart t u f)) := by
  show execInstructionVisible u s = _
  simp only [execInstructionVisible, hf, hv, ↓reduceIte, visibleNow, hfault, hm, ha, showFlight]
  rfl

/-- An instruction with one effect, which neither faults nor asks, has that effect. -/
theorem instructionVisible_shows_act {a : Act} (hf : (Machine.getElem s u).flights = f :: rest) (hv : f.vis ≤ s.cycle) (ht : f.trap = none)
    (ha : f.acts = [a]) (hfault : actFault s u.core a = none) (hm : ∀ m, a ≠ .mem m) :
    exec (.instructionVisible u) s = .next (applyAct u f (ownPart s u f) a) := by
  refine (instructionVisible_shows hf hv ?_ ?_).trans (by rw [ha]; rfl)
  · simp only [flightFault, ht, ha, List.findSome?_cons, hfault, List.findSome?_nil]
  · rw [flightMem, ha]
    cases a with
    | mem m => exact absurd rfl (hm m)
    | _ => rfl

end

/-! ## Registers -/

section
variable (s : State) (u : UnitId) (v : Quad)

theorem getElem_writeSink_d (n : Fin 16) : Machine.getElem (writeSink s u (.d n) v) u =
    { (Machine.getElem s u).setD n v with pendD := (Machine.getElem s u).pendD &&& ~~~dbit n } := getElem_setElem_same ..

theorem writeSink_d_same (n : Fin 16) : (Machine.getElem (writeSink s u (.d n) v) u).dreg n = v := by
  rw [getElem_writeSink_d]
  exact Elem.dreg_setD_same ..

theorem writeSink_d_of_ne {n k : Fin 16} (h : k ≠ n) : (Machine.getElem (writeSink s u (.d n) v) u).dreg k = (Machine.getElem s u).dreg k := by
  rw [getElem_writeSink_d]
  exact Elem.dreg_setD_of_ne _ (fun hn => h (Fin.ext hn).symm) _

theorem getCtl_writeSink_d (n : Fin 16) (k : Nat) : getCtl (writeSink s u (.d n) v) k = getCtl s k := getCtl_setElem ..

end

/-- An instruction that brings a word to a D register when it becomes visible writes that register alone. -/
theorem instructionVisible_toD {s : State} {u : UnitId} {f : Flight} {rest : List Flight} {a : Act} {r : Fin 16} {w : Quad}
    (hf : (Machine.getElem s u).flights = f :: rest) (hv : f.vis ≤ s.cycle) (ht : f.trap = none)
    (ha : f.acts = [a]) (hfault : actFault s u.core a = none) (hm : ∀ m, a ≠ .mem m)
    (hw : applyAct u f (ownPart s u f) a = writeSink (ownPart s u f) u (.d r) w) :
    ∃ t, exec (.instructionVisible u) s = .next t ∧ (Machine.getElem t u).dreg r = w ∧
      (∀ k : Fin 16, k ≠ r → (Machine.getElem t u).dreg k = (Machine.getElem s u).dreg k) ∧
      (∀ k, getCtl t k = getCtl s k) ∧ t.mem = s.mem := by
  refine ⟨_, (instructionVisible_shows_act hf hv ht ha hfault hm).trans (congrArg _ hw), writeSink_d_same .., fun k hk => ?_, fun k => ?_, rfl⟩
  · rw [writeSink_d_of_ne _ _ _ hk, getElem_ownPart, settleFlight_dreg]
  · rw [getCtl_writeSink_d, getCtl_ownPart]

/-! ## System registers -/

/-- An element-state number of R179 names a fabric element. -/
theorem elementReg_lt {n el j : Nat} (h : elementReg n = some (el, j)) : el < 64 := by
  simp only [elementReg, Option.ite_none_right_eq_some, Option.some.injEq, Prod.mk.injEq] at h
  omega

/-- A system register depends on its core but for its pc, and on the partitions, and of the units on the element that its number names. -/
theorem readSysReg_congr {s t : State} {core n : Nat} (hc : t.cycle = s.cycle) (hp : t.parts = s.parts) (hr : t.root = s.root)
    (hcore : getCore t core = { getCore s core with
      elems := (getCore t core).elems, ctl := { getCtl s core with pc := (getCtl t core).pc } })
    (hel : ∀ el j, elementReg n = some (el, j) → Machine.getElem t ⟨core, el⟩ = Machine.getElem s ⟨core, el⟩) :
    readSysReg t core n = readSysReg s core n := by
  have hpart : partOf t core = partOf s core := by rw [partOf, hcore]; rfl
  unfold readSysReg
  rw [hpart, hp, hc]
  split
  next el j he => simp only [hel el j he]
  next he =>
    simp only [rewireOff, feature, hr]
    rw [hcore]
    rfl

section
variable (s : State) (core : Nat) (v : Dword)

theorem writeSysReg_msk : writeSysReg s core 0 v = setCtl s core { getCtl s core with msk := v.getLsbD 1 } := rfl
theorem writeSysReg_tvec : writeSysReg s core 1 v = setCtl s core { getCtl s core with tvec := v.setWidth 32 &&& 0xFFFFFFFC } := rfl
theorem writeSysReg_epc : writeSysReg s core 2 v = setCtl s core { getCtl s core with epc := v.setWidth 32 &&& 0xFFFFFFFC } := rfl
theorem writeSysReg_trbase : writeSysReg s core 4 v = setCtl s core { getCtl s core with trbase := v.setWidth 32 &&& 0xFFFFFFC0 } := rfl
theorem writeSysReg_eres : writeSysReg s core 5 v = setCtl s core { getCtl s core with eres := v.getLsbD 0 } := rfl
theorem writeSysReg_sccur : writeSysReg s core 9 v = setCtl s core { getCtl s core with sccur := (v.setWidth 32).setWidth 64 } := by
  have h : dword (v.toNat % 2 ^ 32) = (v.setWidth 32).setWidth 64 := by
    apply BitVec.eq_of_toNat_eq
    simp [dword]
  rw [← h]
  rfl

end

/-! ## Returning from a trap -/

theorem isCe_eq_false {u : UnitId} (h : u.ix ≠ ceIx) : isCe u = false := decide_eq_false h

section
variable {s : State} {u : UnitId} (hu : isCe u = false)

/-- A fabric element that is let run runs, where it holds no deferred trap (R24). -/
theorem letRun_free (h : (Machine.getElem s u).held = []) : letRun s u = setElem s u ((Machine.getElem s u).setRun 1) := by
  simp only [letRun, h]

include hu

/-- One that holds a deferred trap stops with the first of them at once (R151). -/
theorem letRun_held {h : HeldTrap} {hs : List HeldTrap} (hh : (Machine.getElem s u).held = h :: hs) :
    letRun s u = trapUnit (setElem s u { (Machine.getElem s u).setRun 1 with held := hs }) u h.slot h.word h.cause h.addr 0 true := by
  simp only [letRun, hh, hu, Bool.false_eq_true, ↓reduceIte]

theorem getElem_trapUnit (slot : Nat) (word : Word) (c : Cause) (a : Dword) (x : Quad) (b : Bool) :
    Machine.getElem (trapUnit s u slot word c a x b) u =
      { (Machine.getElem s u).stop slot c with faultAddr := a, faultWord := word, deferred := b } := by
  simp only [trapUnit, hu, Bool.false_eq_true, ↓reduceIte, getElem_raiseTrap, getElem_setElem_same]

theorem getElem_trapUnit_of_ne {v : UnitId} (h : u ≠ v) (slot : Nat) (word : Word) (c : Cause) (a : Dword) (x : Quad) (b : Bool) :
    Machine.getElem (trapUnit s u slot word c a x b) v = Machine.getElem s v := by
  simp only [trapUnit, hu, Bool.false_eq_true, ↓reduceIte, getElem_raiseTrap, getElem_setElem_of_ne _ h]

theorem getCtl_trapUnit (k slot : Nat) (word : Word) (c : Cause) (a : Dword) (x : Quad) (b : Bool) :
    getCtl (trapUnit s u slot word c a x b) k = getCtl s k := by
  simp only [trapUnit, hu, Bool.false_eq_true, ↓reduceIte, getCtl_raiseTrap, getCtl_setElem]

theorem trapUnit_mem (slot : Nat) (word : Word) (c : Cause) (a : Dword) (x : Quad) (b : Bool) :
    (trapUnit s u slot word c a x b).mem = s.mem := by
  simp only [trapUnit, hu, Bool.false_eq_true, ↓reduceIte, raiseTrap_mem, setElem_mem]

/-- An element that is let run changes no other unit, no control element and no memory. -/
theorem letRun_frame : (letRun s u).mem = s.mem ∧ (∀ k, getCtl (letRun s u) k = getCtl s k) ∧
    ∀ v, u ≠ v → Machine.getElem (letRun s u) v = Machine.getElem s v := by
  cases hh : (Machine.getElem s u).held with
  | nil =>
    rw [letRun_free hh]
    exact ⟨rfl, fun k => getCtl_setElem .., fun v hv => getElem_setElem_of_ne _ hv _⟩
  | cons h hs =>
    rw [letRun_held hu hh]
    exact ⟨trapUnit_mem hu .., fun k => (getCtl_trapUnit hu ..).trans (getCtl_setElem ..),
      fun v hv => (getElem_trapUnit_of_ne hu hv ..).trans (getElem_setElem_of_ne _ hv _)⟩

end

/-- A control element back from its handler (R177). -/
def returned (s : State) (core : Nat) : State :=
  setCtl s core { getCtl s core with hnd := false, pc := (getCtl s core).epc.toNat, trapSrc := none }

/-- The element whose trap a handler has dealt with, where its return lets it run (R169, R177). -/
def LetsRun (s : State) (core el : Nat) : Prop :=
  (getCtl s core).trapSrc = some (1, el) ∧ (getCtl s core).eres = false ∧ (Machine.getElem s ⟨core, el⟩).run = 2 ∧
    (getCtl s core).ecause.toNat % 1024 ≠ 0x104

/-- All that a return does: the control element goes on at EPC, and one element at most is let run. -/
theorem leaveHandler_cases (s : State) (core : Nat) :
    (∃ el, el ≠ ceIx ∧ LetsRun s core el ∧ leaveHandler s core = letRun (returned s core) ⟨core, el⟩) ∨
      leaveHandler s core = returned s core ∧ ∀ el, el ≠ ceIx → ¬ LetsRun s core el := by
  unfold leaveHandler
  dsimp only
  split
  next el hsrc =>
    rw [getElem_setCtl]
    split
    next h =>
      refine .inr ⟨rfl, fun k hk ⟨hs, he, hr, hc⟩ => ?_⟩
      obtain rfl : el = k := by simpa using hsrc.symm.trans hs
      simp [isCe_eq_false (u := ⟨core, el⟩) hk, he, hr, hc] at h
    next h =>
      simp only [Bool.or_eq_true, not_or, ne_eq, decide_not, Bool.not_eq_true', decide_eq_true_eq] at h
      obtain ⟨⟨⟨hce, he⟩, hr⟩, hc⟩ := h
      exact .inl ⟨el, fun hk => hce (decide_eq_true hk), ⟨hsrc, Bool.eq_false_iff.mpr he, by simpa using hr, hc⟩, rfl⟩
  next h => exact .inr ⟨rfl, fun el _ hl => h el hl.1⟩

theorem leaveHandler_frame (s : State) (core : Nat) : (leaveHandler s core).mem = s.mem ∧
    getCtl (leaveHandler s core) core = { getCtl s core with hnd := false, pc := (getCtl s core).epc.toNat, trapSrc := none } := by
  rcases leaveHandler_cases s core with ⟨el, hel, -, h⟩ | ⟨h, -⟩
  · obtain ⟨hm, hc, -⟩ := letRun_frame (s := returned s core) (isCe_eq_false (u := ⟨core, el⟩) hel)
    rw [h]
    exact ⟨hm, (hc core).trans (getCtl_setCtl_same ..)⟩
  · rw [h]
    exact ⟨rfl, getCtl_setCtl_same ..⟩

/-- A return leaves alone every unit but the one it lets run. -/
theorem getElem_leaveHandler {s : State} {core : Nat} {v : UnitId} (h : v.core = core → ¬ LetsRun s core v.ix) :
    Machine.getElem (leaveHandler s core) v = Machine.getElem s v := by
  rcases leaveHandler_cases s core with ⟨el, hel, hl, he⟩ | ⟨he, -⟩
  · rw [he, (letRun_frame (isCe_eq_false (u := ⟨core, el⟩) hel)).2.2 v fun hv => h (hv ▸ rfl) (hv ▸ hl)]
    exact getElem_setCtl ..
  · rw [he]
    exact getElem_setCtl ..

theorem leaveHandler_letsRun {s : State} {core el : Nat} (hel : el ≠ ceIx) (h : LetsRun s core el) :
    leaveHandler s core = letRun (returned s core) ⟨core, el⟩ := by
  rcases leaveHandler_cases s core with ⟨k, -, hl, he⟩ | ⟨-, hn⟩
  · obtain rfl : k = el := by simpa using hl.1.symm.trans h.1
    exact he
  · exact absurd h (hn el hel)

/-- An element that a return lets run runs, or stops with the first deferred trap that it holds (R151, R177). -/
theorem leaveHandler_element {s : State} {core el : Nat} (hel : el ≠ ceIx) (hl : LetsRun s core el) :
    let y := Machine.getElem s ⟨core, el⟩
    let z := Machine.getElem (leaveHandler s core) ⟨core, el⟩
    (y.held = [] → z.run = 1) ∧
      ∀ h hs, y.held = h :: hs → z.run = 2 ∧ z.cause = h.cause % 1024 ∧ z.fslot = h.slot % 32 ∧ z.deferred = true ∧ z.held = hs := by
  intro y z
  have hu : isCe ⟨core, el⟩ = false := isCe_eq_false hel
  have hy : Machine.getElem (returned s core) ⟨core, el⟩ = y := getElem_setCtl ..
  refine ⟨fun hh => ?_, fun h hs hh => ?_⟩
  · simp only [z, leaveHandler_letsRun hel hl, letRun_free (hy ▸ hh), getElem_setElem_same]
    exact Elem.run_setRun _ (by decide)
  · let e : Elem := { y.setRun 1 with held := hs }
    simp only [z, leaveHandler_letsRun hel hl, letRun_held hu (hy ▸ hh), getElem_trapUnit hu, getElem_setElem_same, hy]
    exact ⟨Elem.run_stop e .., Elem.cause_stop_mod e .., Elem.fslot_stop_mod e .., trivial, Elem.stop_held ..⟩

end Sys2Proof.Machine
end

section
/-! PROOF. Transfers and system registers at V. -/

open Sys2Proof Sys2Proof.Machine Sys2Proof.Claims

/-- Settles O29: each instruction is one effect on what its own part leaves; eret's is the return from the handler. -/
theorem controlEffectsAtVisibility : Obligations.ControlEffectsAtVisibility := by
  unfold Obligations.ControlEffectsAtVisibility
  intro s core f rest pc l n v r u e x hfl hv ht
  have shows {a : Act} (ha : f.acts = [a]) (hf : actFault s u.core a = none) (hm : ∀ m, a ≠ .mem m) :=
    instructionVisible_shows_act hfl hv ht ha hf hm
  have writes {m : BitVec 16} {y : Ctl} (hy : applyAct u f (ownPart s u f) (.sys (.write m v)) = setCtl (ownPart s u f) core y)
      (ha : f.acts = [.sys (.write m v)]) : ∃ t, exec (.instructionVisible u) s = .next t ∧ getCtl t core = y :=
    ⟨_, (shows ha rfl (by simp)).trans (congrArg _ hy), getCtl_setCtl_same ..⟩
  have hel {el : Nat} (h : el < 64) : Machine.getElem (ownPart s u f) ⟨core, el⟩ = Machine.getElem s ⟨core, el⟩ :=
    getElem_ownPart_of_ne s u f fun hu => absurd (congrArg UnitId.ix hu) (Ne.symm (Nat.ne_of_lt h))
  refine ⟨fun ha => ?_, fun ha => ?_, fun ha => ?_, fun ha => ?_, writes ?_, writes ?_, writes ?_, writes ?_, writes ?_⟩
  · refine ⟨_, shows ha rfl (by simp), ?_, ?_, rfl⟩
    · simp only [applyAct, getCtl_setCtl_same, getCtl_ownPart, u, x]
    · simp only [applyAct, getElem_setCtl, getElem_ownPart, settleFlight_d, e]
  · have hx : getCtl (ownPart s u f) core = x := getCtl_ownPart ..
    obtain ⟨hmem, hctl⟩ := leaveHandler_frame (ownPart s u f) core
    refine ⟨_, shows ha rfl (by simp), hctl.trans (by rw [hx]), hmem, fun el h64 => ?_⟩
    have hne : el ≠ ceIx := Nat.ne_of_lt h64
    have hlet := leaveHandler_element (s := ownPart s u f) (core := core) hne
    simp only [LetsRun, hx, hel h64] at hlet
    refine ⟨fun hl => (hlet hl).1, fun h hs hl => (hlet hl).2 h hs, fun hl => (getElem_leaveHandler fun _ => ?_).trans (hel h64)⟩
    rw [LetsRun, hx, hel h64]
    rintro ⟨hsrc, hact, hrun, hcause⟩
    rcases hl with h | h | h | h
    · exact h hsrc
    · exact Bool.false_ne_true (hact.symm.trans h)
    · exact h hrun
    · exact hcause h
  · obtain ⟨t, he, hr, hk, hc, hm⟩ := instructionVisible_toD hfl hv ht ha rfl (by simp) rfl
    refine ⟨t, he, hr.trans (congrArg _ ?_), hk, hc core, hm⟩
    exact readSysReg_congr rfl rfl rfl ((getCore_ownPart s u f core).trans (by rw [getCtl_ownPart]; rfl)) fun el j hj => hel (elementReg_lt hj)
  · obtain ⟨t, he, hr, hk, hc, hm⟩ := instructionVisible_toD hfl hv ht ha rfl (by simp) rfl
    exact ⟨t, he, hr, hk, hc core, hm⟩
  · exact (writeSysReg_msk ..).trans (by rw [getCtl_ownPart])
  · exact (writeSysReg_tvec ..).trans (by rw [getCtl_ownPart])
  · exact (writeSysReg_epc ..).trans (by rw [getCtl_ownPart])
  · exact (writeSysReg_trbase ..).trans (by rw [getCtl_ownPart])
  · exact (writeSysReg_eres ..).trans (by rw [getCtl_ownPart])
end

section
/-! SUPPORT. System registers, sleep, schedule and layout instructions at their firing (R173, R177 to R184). -/

namespace Sys2Proof.Machine

open Sys2Proof Sys2Proof.Claims

/-! ## Operands -/

theorem addrChecks_fits {va n : Nat} (h : AddressFits va n) : addrChecks n [va] = none := by
  simp only [addrChecks, addrCheck, ge_iff_le, Nat.not_le.mpr h.1, h.2, ne_eq, not_true_eq_false, ↓reduceIte]

theorem setWidth_lane0 (q : Quad) : q.setWidth 64 = .ofNat 64 (laneOf 64 q 0) := by
  apply BitVec.eq_of_toNat_eq
  simp [laneOf_zero]

section
variable {s : State} {u : UnitId} {slot : Nat} {word : Word}

/-! ## System registers -/

theorem sysEret_fires (h : CanFire s u slot word .sysEret) (hh : (getCtl s u.core).hnd = true) :
    Fires s u slot word .sysEret 1 { acts := [.sys .eret] } :=
  fire_fires h (exec_sysEret ..) (if_pos (by rw [unitOf_eq h]; exact hh)) (by simp) rfl rfl

theorem sysEret_traps (h : CanFire s u slot word .sysEret) (hh : (getCtl s u.core).hnd = false) :
    Traps s u slot word .sysEret 0x300 0 :=
  fire_traps h (exec_sysEret ..) (if_neg (by rw [unitOf_eq h, hh]; exact Bool.false_ne_true))

section
variable {d : Dst} {a b : Src}

theorem sysSysrd_fires_read (h : CanFire s u slot word (.sysSysrd d a)) (hk : sysRegKnown ((val s u a).toNat % 2 ^ 16) = true)
    (he : elementReg ((val s u a).toNat % 2 ^ 16) = none) :
    Fires s u slot word (.sysSysrd d a) 2
      { acts := [.sysread (.ofNat 16 ((val s u a).toNat % 2 ^ 16))
          (sinkOf (Machine.getElem s u) (Machine.getElem s u).tickets d (tagOf (Machine.getElem s u) s.cycle a))] } := by
  rw [val] at *
  exact fire_fires h (exec_sysSysrd ..) (by simp only [hk, he, Option.isSome_none]; rfl) (by simp) rfl rfl

theorem sysSysrd_fires_element (h : CanFire s u slot word (.sysSysrd d a))
    (he : (elementReg ((val s u a).toNat % 2 ^ 16)).isSome = true) :
    Fires s u slot word (.sysSysrd d a) 2
      { acts := dstActs (Machine.getElem s u) (Machine.getElem s u).tickets d (tagOf (Machine.getElem s u) s.cycle a)
          ((readSysReg s u.core ((val s u a).toNat % 2 ^ 16)).setWidth 128) } := by
  have hk : sysRegKnown ((val s u a).toNat % 2 ^ 16) = true := by rw [sysRegKnown, he, Bool.or_true]
  rw [val] at *
  exact fire_fires h (exec_sysSysrd ..) (by simp only [hk, he, unitOf_eq h]; rfl) (command_notMem_dstActs _ _ _ _ _) rfl rfl

theorem sysSysrd_traps (h : CanFire s u slot word (.sysSysrd d a)) (hk : sysRegKnown ((val s u a).toNat % 2 ^ 16) = false) :
    Traps s u slot word (.sysSysrd d a) 0x301 0 := by
  rw [val] at hk
  exact fire_traps h (exec_sysSysrd ..) (by simp only [hk]; rfl)

theorem sysSyswr_fires (h : CanFire s u slot word (.sysSyswr a b)) (hk : sysRegKnown ((val s u a).toNat % 2 ^ 16) = true)
    (hw : sysRegReadOnly ((val s u a).toNat % 2 ^ 16) = false) :
    Fires s u slot word (.sysSyswr a b) 2
      { acts := [.sys (.write (.ofNat 16 ((val s u a).toNat % 2 ^ 16)) ((val s u b).setWidth 64))] } := by
  rw [val] at *
  exact fire_fires h (exec_sysSyswr ..) (by simp only [hk, hw]; rfl) (by simp) rfl rfl

theorem sysSyswr_traps_readOnly (h : CanFire s u slot word (.sysSyswr a b)) (hk : sysRegKnown ((val s u a).toNat % 2 ^ 16) = true)
    (hw : sysRegReadOnly ((val s u a).toNat % 2 ^ 16) = true) : Traps s u slot word (.sysSyswr a b) 0x302 0 := by
  rw [val] at *
  exact fire_traps h (exec_sysSyswr ..) (by simp only [hk, hw]; rfl)

theorem sysSyswr_traps_unknown (h : CanFire s u slot word (.sysSyswr a b)) (hk : sysRegKnown ((val s u a).toNat % 2 ^ 16) = false) :
    Traps s u slot word (.sysSyswr a b) 0x301 0 := by
  rw [val] at hk
  exact fire_traps h (exec_sysSyswr ..) (by simp only [hk]; rfl)

end

/-! ## Schedule, rewire and layout -/

section
variable {q : Fin 15} {p : Fin 8}

theorem sysScnext_fires_ended (h : CanFire s u slot word (.sysScnext q p))
    (hc : (getCtl s u.core).sccnt.toNat ≤ cursorNow (Machine.getElem s u) (getCtl s u.core)) :
    Fires s u slot word (.sysScnext q p) 1 { acts := [.p (predBit p) 0], spare := dbit q ||| dbit (q.val + 1) } :=
  fire_fires h (exec_sysScnext ..) (by rw [unitOf_eq h]; exact if_pos hc) (by simp) rfl rfl

/-- The schedule entry that scnext reads, in two accesses (R182). -/
def entryRead (q : Fin 15) (entry : Nat) : MemSpec :=
  { op := .load, words := [(0, entry, 16, 0, 0), (1, entry + 16, 16, 0, 0)], lanes := 2, sink := .pair q, cursor := true }

theorem sysScnext_fires_entry (h : CanFire s u slot word (.sysScnext q p))
    (hc : cursorNow (Machine.getElem s u) (getCtl s u.core) < (getCtl s u.core).sccnt.toNat)
    (hf : AddressFits (((getCtl s u.core).scbase.toNat + 32 * cursorNow (Machine.getElem s u) (getCtl s u.core)) % 2 ^ 64) 16) :
    Fires s u slot word (.sysScnext q p) 1
      { acts := [.mem (entryRead q (((getCtl s u.core).scbase.toNat + 32 * cursorNow (Machine.getElem s u) (getCtl s u.core)) % 2 ^ 64)),
          .cursorStep, .p (predBit p) (predBit p)],
        keepD := dbit q ||| dbit (q.val + 1) } := by
  refine fire_fires h (exec_sysScnext ..) ?_ (by simp) rfl rfl
  rw [unitOf_eq h]
  refine (if_neg (Nat.not_le.mpr hc)).trans ?_
  simp only [addrChecks_fits hf]
  rfl

end

theorem sysRewire_fires {r : Fin 16} {a : Src} (h : CanFire s u slot word (.sysRewire r a)) (hf : AddressFits (laneOf 64 (val s u a) 0) 64) :
    Fires s u slot word (.sysRewire r a) 1 { acts := [.rewire (.ofNat 64 (laneOf 64 (val s u a) 0)) (.d r)], keepD := dbit r } := by
  refine fire_fires h (exec_sysRewire ..) ?_ (by simp) rfl rfl
  rw [← setWidth_lane0]
  rw [laneOf_zero] at hf
  rw [show lo64 (readSrc (Machine.getElem s u) s.cycle a) = (val s u a).toNat % 2 ^ 64 from rfl, addrChecks_fits hf]
  rfl

section
variable {d : Dst} {a : Src}

theorem sysLayoutv_fires {l : Nat} (h : CanFire s u slot word (.sysLayoutv d a))
    (hl : findInstance s u.core ((val s u a).toNat % 2 ^ 32) = some l) :
    Fires s u slot word (.sysLayoutv d a) 2
      { acts := [.layoutv l (sinkOf (Machine.getElem s u) (Machine.getElem s u).tickets d (tagOf (Machine.getElem s u) s.cycle a))] } := by
  rw [val] at hl
  exact fire_fires h (exec_sysLayoutv ..) (by simp only [unitOf_eq h, hl]) (by simp) rfl rfl

theorem sysLayoutv_traps (h : CanFire s u slot word (.sysLayoutv d a))
    (hl : findInstance s u.core ((val s u a).toNat % 2 ^ 32) = none) : Traps s u slot word (.sysLayoutv d a) 0x309 0 := by
  rw [val] at hl
  exact fire_traps h (exec_sysLayoutv ..) (by simp only [unitOf_eq h, hl])

/-! ## Sleep -/

/-- A control element that goes to sleep: its pc moves on, and its sleep stands from the firing on (R181). -/
theorem sysSleep_sleeps {core : Nat} {b : Src} (h : CanFire s ⟨core, ceIx⟩ slot word (.sysSleep d a b)) :
    let u : UnitId := ⟨core, ceIx⟩
    let e := Machine.getElem s u
    let n := laneOf 64 (val s u b) 0
    exec (.sysSleep d a b) s = .next (setCtl (inFlight s u slot word (.sysSleep d a b) 1 { acts := [], keepD := Dst.bits d }) core
      { getCtl s core with
        pc := slot + 4,
        sleep := some { mask := (val s u a).setWidth 4, limit := if n = 0 then none else some (s.cycle + n), seen := 0,
                        sink := sinkOf e e.tickets d (tagOf e s.cycle a), since := s.cycle } }) := by
  intro u e n
  obtain ⟨ha, hr, hl⟩ := h
  have hn : n = lo64 (readSrc (Machine.getElem s u) s.cycle b) := laneOf_zero ..
  rw [hn]
  refine ((exec_sysSleep ..).trans (fire_ready ha hr)).trans (congrArg _ ?_)
  simp only [fireAt, hl, Bool.false_eq_true, ↓reduceIte]
  rw [takeEntries_none _ _ _ (by simp), nextUp_nil, if_pos (show isCe ⟨core, ceIx⟩ = true from rfl), getCtl_setElem]
  rfl

end

end

end Sys2Proof.Machine
end

section
/-! SUPPORT. Translation: what it depends on, and that a request on its way changes ports and stream detectors alone (R147, R150, R299). -/

namespace Sys2Proof.Machine

open Sys2Proof Sys2Proof.Claims

/-! ## What translation depends on -/

/-- Two states that translate alike: the same windows, launch-table entries and partitions of the cores, the same memory and caches. -/
structure SameRoutes (s t : State) : Prop where
  mem : t.mem = s.mem
  slices : t.slices = s.slices
  idt : t.idt = s.idt
  fw : t.fw = s.fw
  poison : t.poison = s.poison
  parts : t.parts = s.parts
  links : t.links = s.links
  ports : ∀ k, (getCore t k).ports = (getCore s k).ports
  lte : ∀ k, (getCore t k).lte = (getCore s k).lte
  part : ∀ k, (getCore t k).part = (getCore s k).part

namespace SameRoutes

variable {s t : State} (h : SameRoutes s t)
include h

theorem homeOf (pa : Nat) : Machine.homeOf t pa = Machine.homeOf s pa := by simp only [Machine.homeOf, h.idt]

theorem getSlice (n : Nat) : Machine.getSlice t n = Machine.getSlice s n := by simp only [Machine.getSlice, h.slices]

theorem peek (pa len : Nat) : Machine.peek t pa len = Machine.peek s pa len := by
  simp only [Machine.peek, h.homeOf, h.getSlice, dramLine, h.mem, h.fw]

theorem poisonAt (pa : Nat) : Machine.poisonAt t pa = Machine.poisonAt s pa := by
  simp only [Machine.poisonAt, h.homeOf, h.getSlice, h.poison]

theorem partOf (k : Nat) : Machine.partOf t k = Machine.partOf s k := by simp only [Machine.partOf, h.part]

theorem walkTable (secure : Bool) (va : Nat) (use : Use) (lvl table : Nat) :
    Machine.walkTable t secure va use lvl table = Machine.walkTable s secure va use lvl table := by
  induction lvl generalizing table with
  | zero => simp only [Machine.walkTable, h.peek, h.poisonAt]
  | succ lvl ih => simp only [Machine.walkTable, h.peek, h.poisonAt, ih]

theorem walkCost (router va lvl table : Nat) : Machine.walkCost t router va lvl table = Machine.walkCost s router va lvl table := by
  induction lvl generalizing table with
  | zero => simp only [Machine.walkCost, h.peek, h.homeOf]
  | succ lvl ih => simp only [Machine.walkCost, h.peek, h.homeOf, ih]

theorem findWin (k va : Nat) : Machine.findWin (getCore t k) va = Machine.findWin (getCore s k) va := by
  simp only [Machine.findWin, Core.port, h.ports]

theorem ltePa (k va : Nat) : Machine.ltePa (getCore t k) va = Machine.ltePa (getCore s k) va := by simp only [Machine.ltePa, h.lte]

theorem findLeaf (k va : Nat) (use : Use) : Machine.findLeaf (getCore t k) va use = Machine.findLeaf (getCore s k) va use := by
  simp only [Machine.findLeaf, Core.port, h.ports, h.part]

theorem reach (k pa : Nat) : Machine.reach t k pa = Machine.reach s k pa := by simp only [Machine.reach, h.homeOf]

theorem winRoute (k va n : Nat) (use : Use) (p i : Nat) (w : Win) :
    Machine.winRoute t k va n use p i w = Machine.winRoute s k va n use p i w := by
  simp only [Machine.winRoute, remoteUse, h.links, h.reach]

theorem translate (k va n : Nat) (use : Use) : Machine.translate t k va n use = Machine.translate s k va n use := by
  simp only [Machine.translate, h.findWin, h.ltePa, walkLeaf, h.findLeaf, h.walkTable, h.winRoute, h.reach, h.parts, h.partOf]

theorem poisoned (k : Nat) (use : Use) (r : Route) : Machine.poisoned t k use r = Machine.poisoned s k use r := by
  simp only [Machine.poisoned, h.poison, h.getSlice, h.partOf]

theorem lookUp (k va n : Nat) (use : Use) : Machine.lookUp t k va n use = Machine.lookUp s k va n use := by
  simp only [Machine.lookUp, h.translate, h.poisoned]

theorem walkCycles (k va : Nat) (use : Use) : Machine.walkCycles t k va use = Machine.walkCycles s k va use := by
  simp only [Machine.walkCycles, h.findWin, h.ltePa, h.findLeaf, h.walkCost, h.parts, h.partOf]

end SameRoutes

/-! ## What sending leaves alone -/

/-- Nothing has changed but memory ports and stream detectors of cores. -/
structure PortsOnly (s t : State) : Prop where
  outside : t = { s with cores := t.cores }
  core : ∀ k, getCore t k = { getCore s k with ports := (getCore t k).ports, detect := (getCore t k).detect }

namespace PortsOnly

theorem refl (s : State) : PortsOnly s s := ⟨rfl, fun _ => rfl⟩

theorem trans {s t v : State} (h : PortsOnly s t) (h' : PortsOnly t v) : PortsOnly s v :=
  ⟨by rw [h'.outside, h.outside], fun k => by rw [h'.core, h.core]⟩

/-- A core whose ports or detectors change. -/
theorem setCore (s : State) {k : Nat} {c : Core} (hc : c = { getCore s k with ports := c.ports, detect := c.detect }) :
    PortsOnly s (Machine.setCore s k c) where
  outside := rfl
  core j := by
    by_cases h : k = j
    · subst h; rw [getCore_setCore_same]; exact hc
    · rw [getCore_setCore_of_ne _ h]

variable {s t : State} (h : PortsOnly s t)
include h

theorem getElem (u : UnitId) : Machine.getElem t u = Machine.getElem s u := by rw [Machine.getElem, h.core]; rfl
theorem getCtl (k : Nat) : Machine.getCtl t k = Machine.getCtl s k := by rw [Machine.getCtl, h.core]; rfl
theorem clock (k : Nat) : (getCore t k).clock = (getCore s k).clock := by rw [h.core]
theorem mem : t.mem = s.mem := by rw [h.outside]
theorem cycle : t.cycle = s.cycle := by rw [h.outside]
theorem reqs : t.reqs = s.reqs := by rw [h.outside]
theorem nextReq : t.nextReq = s.nextReq := by rw [h.outside]

end PortsOnly

section
variable (s : State) (core va : Nat) (r : Route)

theorem cacheLeaf_portsOnly (use : Use) : PortsOnly s (cacheLeaf s core va use) := by
  unfold cacheLeaf
  dsimp only
  split
  · split
    · exact .setCore s rfl
    · exact .refl s
  · exact .refl s

theorem noteWrite_portsOnly (n : Nat) : PortsOnly s (noteWrite s core r n) := .setCore s rfl

theorem markRemote_portsOnly : PortsOnly s (markRemote s core r) := by
  unfold markRemote
  split
  · exact .setCore s rfl
  · exact .refl s

theorem translated_portsOnly (n : Nat) (use : Use) : PortsOnly s (translated s core va n use r) := by
  unfold translated
  dsimp only
  refine (cacheLeaf_portsOnly s core va use).trans (.trans ?_ (markRemote_portsOnly ..))
  split
  · exact noteWrite_portsOnly ..
  · exact .refl _

theorem detectAt_portsOnly (who : Nat) (h : Home) (pa : Nat) (rc : Reuse) : PortsOnly s (detectAt s core who h pa rc).1 := by
  unfold detectAt
  split
  · split
    · exact .setCore s rfl
    · exact .refl s
  · exact .refl s

/-- An access on its way as its sender wrote it down, and the state that it leaves. -/
theorem sendPart_sent (who lane n : Nat) (data cmp : Quad) (use : Use) (rc : Reuse) (na : Bool) (extra : Nat) :
    let x := sendPart s core who lane va n data cmp use rc na extra r
    PortsOnly s x.1 ∧ (x.2.lane, x.2.va, x.2.n, x.2.data, x.2.compare) = (lane, va, n, data, cmp) ∧
      (x.2.pa, x.2.home, x.2.inc, x.2.phase) = (r.pa, r.home, r.inc, .travelling (s.cycle + extra + travel core r.home)) := by
  have ht := translated_portsOnly s core va r n use
  unfold sendPart
  dsimp only
  split
  · exact ⟨ht, rfl, by rw [ht.cycle]⟩
  · have hd := ht.trans (detectAt_portsOnly (translated s core va n use r) core who r.home r.pa rc)
    exact ⟨hd, rfl, by rw [hd.cycle]⟩

end

end Sys2Proof.Machine
end

section
/-! SUPPORT. Acceptance of a request that nothing holds up: each of its accesses sets out, and nothing else changes but ports (R147, R148). -/

namespace Sys2Proof.Machine

open Sys2Proof Sys2Proof.Claims

theorem foldl_max_zero {α : Type} {g : α → Nat} {l : List α} (h : ∀ a ∈ l, g a = 0) : l.foldl (fun n a => max n (g a)) 0 = 0 := by
  induction l with
  | nil => rfl
  | cons a l ih =>
    rw [List.foldl_cons, h a (List.mem_cons_self ..), Nat.max_self]
    exact ih fun b hb => h b (List.mem_cons_of_mem _ hb)

/-- One access of an accepted request sets out. -/
def sendNext (core : Nat) (use : Use) (rc : Reuse) (na : Bool) (a : State × List Part) (p : (Nat × Nat × Nat × Quad × Quad) × Xlate) :
    State × List Part :=
  match p.2 with
  | .ok r =>
    let x := sendPart a.1 core r.port p.1.1 p.1.2.1 p.1.2.2.1 p.1.2.2.2.1 p.1.2.2.2.2 use rc na 0 r
    (x.1, a.2 ++ [x.2])
  | _ => a

/-- Accesses sent one after another all set out in the same cycle, in their order. -/
theorem foldl_sendNext (core : Nat) (use : Use) (rc : Reuse) (na : Bool)
    (l : List ((Nat × Nat × Nat × Quad × Quad) × Route)) (s : State) (ps : List Part) :
    let x := (l.map (Prod.map id Xlate.ok)).foldl (sendNext core use rc na) (s, ps)
    PortsOnly s x.1 ∧ ∃ qs, x.2 = ps ++ qs ∧ qs.map (fun x => (x.lane, x.va, x.n, x.data, x.compare)) = l.map Prod.fst ∧
      qs.map (fun x => (x.pa, x.home, x.inc, x.phase)) =
        (l.map Prod.snd).map fun r => (r.pa, r.home, r.inc, Phase.travelling (s.cycle + travel core r.home)) := by
  induction l generalizing s ps with
  | nil => exact ⟨.refl s, [], (List.append_nil ps).symm, rfl, rfl⟩
  | cons e l ih =>
    obtain ⟨w, r⟩ := e
    obtain ⟨hp, hw, hr⟩ := sendPart_sent s core w.2.1 r r.port w.1 w.2.2.1 w.2.2.2.1 w.2.2.2.2 use rc na 0
    obtain ⟨hx, qs, hq, hqw, hqr⟩ := ih (sendPart s core r.port w.1 w.2.1 w.2.2.1 w.2.2.2.1 w.2.2.2.2 use rc na 0 r).1
      (ps ++ [(sendPart s core r.port w.1 w.2.1 w.2.2.1 w.2.2.2.1 w.2.2.2.2 use rc na 0 r).2])
    simp only [List.map_cons, List.foldl_cons, Prod.map_apply, id_eq, sendNext]
    refine ⟨hp.trans hx, _ :: qs, by rw [hq, List.append_assoc, List.singleton_append], ?_, ?_⟩
    · simp only [List.map_cons, hqw, hw]
    · simp only [List.map_cons, hqr, hr, hp.cycle, Nat.add_zero]

/-- A request has taken its number. -/
def withRequest (s : State) (id : Nat) (r : Req) : State := { setReq s id r with nextReq := id + 1 }

section
variable (s : State) (id : Nat) (r : Req)

@[simp] theorem getElem_withRequest (u : UnitId) : Machine.getElem (withRequest s id r) u = Machine.getElem s u := rfl
@[simp] theorem getCtl_withRequest (k : Nat) : getCtl (withRequest s id r) k = getCtl s k := rfl
@[simp] theorem withRequest_cycle : (withRequest s id r).cycle = s.cycle := rfl

end

/-- A request that waits for its reply, translated without a radix walk and without a fault, is accepted whole. -/
theorem acceptMem_asks {s : State} {u : UnitId} {f : Flight} {m : MemSpec} {rts : List Route} (hp : m.posted = false)
    (hmon : m.op ≠ .monitor) (hpre : m.op ≠ .prefetch)
    (hr : m.words.map (fun w => lookUp s u.core w.2.1 w.2.2.1 (MemOp.use m.op)) = rts.map Xlate.ok)
    (hq : ∀ w ∈ m.words, walkCycles s u.core w.2.1 (MemOp.use m.op) = 0) :
    ∃ t parts, PortsOnly s t ∧
      acceptMem s u f m = .ok (withRequest t s.nextReq { newReq s u f m with parts := parts }) ∧
      parts.map (fun x => (x.lane, x.va, x.n, x.data, x.compare)) = m.words ∧
      parts.map (fun x => (x.pa, x.home, x.inc, x.phase)) =
        rts.map fun r => (r.pa, r.home, r.inc, Phase.travelling (s.cycle + travel u.core r.home)) := by
  have hlen : m.words.length = rts.length := by simpa only [List.length_map] using congrArg List.length hr
  have hzip : List.zip m.words (rts.map Xlate.ok) = (List.zip m.words rts).map (Prod.map id Xlate.ok) := List.zip_map_right ..
  have hwait : m.words.foldl (fun n w => max n (walkCycles s u.core w.2.1 (MemOp.use m.op))) 0 = 0 := foldl_max_zero hq
  unfold acceptMem
  dsimp only
  rw [hr, hzip, if_neg (by simp [hp]), hwait, if_neg (by simp)]
  split
  next h =>
    obtain ⟨x, hx, hc⟩ := List.exists_of_findSome?_eq_some h
    obtain ⟨y, -, rfl⟩ := List.mem_map.mp hx
    exact absurd hc (by simp)
  next =>
    obtain ⟨ht, qs, hqs, hw, hrt⟩ := foldl_sendNext u.core (MemOp.use m.op) m.reuse m.noalloc (List.zip m.words rts) s []
    rw [if_neg (fun h => hmon h.1), if_neg (fun h => hpre h.1)]
    exact ⟨_, _, ht, rfl, (congrArg (List.map _) hqs).trans (hw.trans (List.map_fst_zip (Nat.le_of_eq hlen))),
      (congrArg (List.map _) hqs).trans (hrt.trans (congrArg (List.map _) (List.map_snd_zip (Nat.le_of_eq hlen.symm))))⟩

end Sys2Proof.Machine
end

section
/-! SUPPORT. From a firing to its V: the state in which an instruction fired alone becomes visible (R18, R19). -/

namespace Sys2Proof.Machine

open Sys2Proof Sys2Proof.Claims

/-- A state in a later cycle, with nobody's turn. -/
def later (t : State) (cyc : Nat) : State := { t with cycle := cyc, actor := .none }

section
variable (t : State) (cyc : Nat)

@[simp] theorem getCore_later (k : Nat) : getCore (later t cyc) k = getCore t k := rfl
@[simp] theorem getElem_later (u : UnitId) : Machine.getElem (later t cyc) u = Machine.getElem t u := rfl
@[simp] theorem getCtl_later (k : Nat) : getCtl (later t cyc) k = getCtl t k := rfl
@[simp] theorem later_mem : (later t cyc).mem = t.mem := rfl
@[simp] theorem later_reqs : (later t cyc).reqs = t.reqs := rfl
@[simp] theorem later_nextReq : (later t cyc).nextReq = t.nextReq := rfl
@[simp] theorem later_cycle : (later t cyc).cycle = cyc := rfl

end

/-- An instruction that fires completes as what becomes visible of each state that its firing leaves. -/
theorem shows_of_fires {s : State} {u : UnitId} {slot : Nat} {word : Word} {i : Instr} {lat : Nat} {r : Fired} {q : State → Prop}
    (h : Fires s u slot word i lat r)
    (hv : ∀ t, FiringFrame s t u slot i (flightOf s u slot word i lat r) →
      ∃ v, exec (.instructionVisible u) (later t (flightOf s u slot word i lat r).vis) = .next v ∧ q v) :
    Shows s u slot word i lat r q := by
  obtain ⟨t, he, hf⟩ := h
  obtain ⟨v, hv, hq⟩ := hv t hf
  exact ⟨t, v, he, hf, hv, hq⟩

/-- An instruction that completes completes with what follows from its effect. -/
theorem shows_mono {s : State} {u : UnitId} {slot : Nat} {word : Word} {i : Instr} {lat : Nat} {r : Fired} {q q' : State → Prop}
    (h : Shows s u slot word i lat r q) (hq : ∀ v, q v → q' v) : Shows s u slot word i lat r q' := by
  obtain ⟨t, v, ht, hf, hv, hqv⟩ := h
  exact ⟨t, v, ht, hf, hv, hq v hqv⟩

/-- A control element as an instruction of four bytes leaves it at its firing; another unit's firing leaves its control element alone. -/
def firedCtl (s : State) (u : UnitId) (slot : Nat) : Ctl := if isCe u then { getCtl s u.core with pc := slot + 4 } else getCtl s u.core

theorem firedCtl_eq (s : State) (u : UnitId) (slot : Nat) :
    firedCtl s u slot = { getCtl s u.core with pc := (firedCtl s u slot).pc } := by
  unfold firedCtl
  split <;> rfl

theorem SameRoutes.ownPart {s t : State} (h : SameRoutes s t) (u : UnitId) (f : Flight) : SameRoutes s (ownPart t u f) where
  mem := h.mem
  slices := h.slices
  idt := h.idt
  fw := h.fw
  poison := h.poison
  parts := h.parts
  links := h.links
  ports k := by rw [← h.ports, getCore_ownPart]
  lte k := by rw [← h.lte, getCore_ownPart]
  part k := by rw [← h.part, getCore_ownPart]

/-- What a firing has left of an element besides what it has put in flight. -/
theorem fired_flights {s t : State} {u : UnitId} {slot : Nat} {i : Instr} {f : Flight} (h : FiringFrame s t u slot i f)
    (h0 : (Machine.getElem s u).flights = []) (cyc : Nat) : (Machine.getElem (later t cyc) u).flights = f :: [] := by
  rw [getElem_later, h.unit, h0]
  rfl

section
variable {s t : State} {u : UnitId} {slot : Nat} {i : Instr} {f : Flight} (h : FiringFrame s t u slot i f)
include h

theorem fired_mem : t.mem = s.mem := by rw [h.outside]
theorem fired_reqs : t.reqs = s.reqs := by rw [h.outside]
theorem fired_nextReq : t.nextReq = s.nextReq := by rw [h.outside]
theorem fired_parts : t.parts = s.parts := by rw [h.outside]
theorem fired_root : t.root = s.root := by rw [h.outside]
theorem fired_launches : t.launches = s.launches := by rw [h.outside]

theorem fired_d : (Machine.getElem t u).d = (Machine.getElem s u).d := by rw [h.unit]
theorem fired_run : (Machine.getElem t u).run = (Machine.getElem s u).run := by rw [h.unit]; rfl
theorem fired_pendD : (Machine.getElem t u).pendD = (Machine.getElem s u).pendD ||| f.pendD := by rw [h.unit]

theorem fired_ctl (hb : Instr.bytes i = 4) : getCtl t u.core = firedCtl s u slot := by rw [h.ctl, hb]; rfl

/-- A core as a firing leaves it. -/
theorem fired_core (k : Nat) : getCore t k = { getCore s k with elems := (getCore t k).elems, ctl := (getCore t k).ctl } := by
  by_cases hk : k = u.core
  · subst hk; exact h.core
  · rw [h.cores k hk]

theorem fired_partOf (k : Nat) : partOf t k = partOf s k := by rw [partOf, fired_core h]; rfl

theorem fired_sameRoutes (cyc : Nat) : SameRoutes s (later t cyc) where
  mem := by show t.mem = _; rw [h.outside]
  slices := by show t.slices = _; rw [h.outside]
  idt := by show t.idt = _; rw [h.outside]
  fw := by show t.fw = _; rw [h.outside]
  poison := by show t.poison = _; rw [h.outside]
  parts := by show t.parts = _; rw [h.outside]
  links := by show t.links = _; rw [h.outside]
  ports k := by rw [getCore_later, fired_core h]
  lte k := by rw [getCore_later, fired_core h]
  part k := by rw [getCore_later, fired_core h]

end

/-- A unit whose instruction can fire runs. -/
theorem run_of_canFire {s : State} {u : UnitId} {slot : Nat} {word : Word} {i : Instr} (h : CanFire s u slot word i) :
    (Machine.getElem s u).run = 1 := by
  have hr := h.2.1
  simp only [ready, unitReady, Bool.and_eq_true, decide_eq_true_eq] at hr
  exact hr.1.1.1.1.1.1

/-! ## What the forms show -/

section
variable {s : State} {u : UnitId} {slot : Nat} {word : Word}

theorem flightOf_trap_of_noFlags {i : Instr} {lat : Nat} {r : Fired} (hr : r.flags = 0) : (flightOf s u slot word i lat r).trap = none := by
  simp [flightOf, hr, flagTrap]

/-- An instruction that spares none of its registers holds them all (R20). -/
theorem flightOf_pendD {i : Instr} {lat : Nat} {r : Fired} (hr : r.spare = 0) :
    (flightOf s u slot word i lat r).pendD = (needOf (Machine.getElem s u) s.cycle i).wD := by
  simp only [flightOf, hr, BitVec.ofNat_eq_ofNat, BitVec.not_zero, BitVec.and_allOnes]

/-- An instruction with one effect, fired alone, completes with that effect. -/
theorem shows_act {i : Instr} {lat : Nat} {a : Act} {keep spare : BitVec 16} {q : State → Prop} (h0 : (Machine.getElem s u).flights = [])
    (h : Fires s u slot word i lat { acts := [a], keepD := keep, spare := spare }) (hm : ∀ m, a ≠ .mem m)
    (hfault : ∀ t, SameRoutes s t → actFault t u.core a = none)
    (hq : ∀ t, FiringFrame s t u slot i (flightOf s u slot word i lat { acts := [a], keepD := keep, spare := spare }) →
      let f := flightOf s u slot word i lat { acts := [a], keepD := keep, spare := spare }
      q (applyAct u f (ownPart (later t f.vis) u f) a)) :
    Shows s u slot word i lat { acts := [a], keepD := keep, spare := spare } q :=
  shows_of_fires h fun t ht => ⟨_, instructionVisible_shows_act (s := later t _) (fired_flights ht h0 _) (Nat.le_refl _)
    (flightOf_trap_of_noFlags rfl) rfl
    (hfault _ (fired_sameRoutes ht _)) hm, hq t ht⟩

end

end Sys2Proof.Machine
end

section
/-! SUPPORT. System registers, schedule and layout instructions that complete (R173, R177, R179 to R184, R367). -/

namespace Sys2Proof.Machine

open Sys2Proof Sys2Proof.Claims

theorem predBit_self : ∀ p : Fin 8, (predBit p).getLsbD p = true := by decide

/-- An instruction's own predicate write decides the predicate that it names (R19). -/
theorem predWrite_predBit (b v : BitVec 8) (p : Fin 8) : (predWrite b (predBit p) v).getLsbD p = v.getLsbD p := by
  simp only [predWrite, BitVec.getLsbD_or, BitVec.getLsbD_and, BitVec.getLsbD_not, predBit_self, p.isLt, decide_true, Bool.not_true, Bool.and_false,
    Bool.and_true, Bool.false_or]

/-! ## What an instruction's own part leaves of a firing -/

section
variable {s t : State} {u : UnitId} {slot : Nat} {i : Instr} {f : Flight} (h : FiringFrame s t u slot i f) (g : Flight) (cyc : Nat)
include h

/-- No byte of memory and no D register has changed. -/
theorem ownPart_keeps : (ownPart (later t cyc) u g).mem = s.mem ∧ (Machine.getElem (ownPart (later t cyc) u g) u).d = (Machine.getElem s u).d := by
  have hm := fired_mem h
  refine ⟨hm, ?_⟩
  rw [getElem_ownPart, settleFlight_d, getElem_later, fired_d h]

theorem ownPart_dreg (n : Nat) : (Machine.getElem (ownPart (later t cyc) u g) u).dreg n = (Machine.getElem s u).dreg n := by
  rw [Elem.dreg, (ownPart_keeps h g cyc).2]
  rfl

theorem ownPart_run : (Machine.getElem (ownPart (later t cyc) u g) u).run = (Machine.getElem s u).run := by
  rw [getElem_ownPart, settleFlight_run, getElem_later, fired_run h]

theorem ownPart_ctl (hb : Instr.bytes i = 4) : getCtl (ownPart (later t cyc) u g) u.core = firedCtl s u slot := by
  rw [getCtl_ownPart, getCtl_later, fired_ctl h hb]

theorem ownPart_unit {j : Nat} (hj : j ≠ u.ix) :
    Machine.getElem (ownPart (later t cyc) u g) ⟨u.core, j⟩ = Machine.getElem s ⟨u.core, j⟩ :=
  (getElem_ownPart_of_ne _ u g fun hu => hj (congrArg UnitId.ix hu).symm).trans (h.units j hj)

theorem ownPart_partOf (k : Nat) : partOf (ownPart (later t cyc) u g) k = partOf s k := by
  refine Eq.trans ?_ (fired_partOf h k)
  simp only [partOf, ownPart, setElem, getCore_setCore, getCore_later]
  split
  next hk => subst hk; rfl
  next => rfl

/-- A system register that is no element's is read as the firing's state would give it in that cycle. -/
theorem readSysReg_ownPart {n : Nat} (he : elementReg n = none) :
    readSysReg (ownPart (later t cyc) u g) u.core n = readSysReg { s with cycle := cyc } u.core n := by
  have hctl : getCtl t u.core = { getCtl s u.core with pc := (getCtl t u.core).pc } := by
    rw [h.ctl]
    split <;> rfl
  have hp := fired_parts h
  have hr := fired_root h
  refine readSysReg_congr rfl hp hr ?_ fun el j hj => absurd (he.symm.trans hj) (by simp)
  refine (getCore_ownPart (later t cyc) u g u.core).trans ?_
  rw [getCtl_ownPart, getCtl_later, getCore_later, fired_core h]
  show ({ getCore s u.core with elems := _, ctl := getCtl t u.core } : Core) = _
  rw [hctl]
  rfl

end

/-- A register that awaits a reply stays pending after V (R20). -/
theorem settleFlight_pendD_kept {s t : State} {u : UnitId} {slot : Nat} {i : Instr} {f : Flight} (h : FiringFrame s t u slot i f)
    (hkeep : f.pendD = f.keepD) (cyc : Nat) :
    (settleFlight (Machine.getElem t u) f cyc).pendD = (Machine.getElem s u).pendD ||| f.keepD := by
  rw [settleFlight_pendD, fired_pendD h, hkeep, BitVec.and_not_self, BitVec.ofNat_eq_ofNat, BitVec.not_zero, BitVec.and_allOnes]

/-- An accepted request of an instruction fired alone is under way in its V (R147, R148). -/
theorem underWay_of_accepted {s t : State} {u : UnitId} {slot : Nat} {word : Word} {i : Instr} {m : MemSpec} {rts : List Route}
    {parts : List Part} {f : Flight} {v : State}
    (ht : FiringFrame s t u slot i f) (hslot : f.slot = slot) (hword : f.word = word) (hkeep : f.pendD = f.keepD)
    (hpost : m.posted = false)
    (hw : parts.map (fun x => (x.lane, x.va, x.n, x.data, x.compare)) = m.words)
    (hr : parts.map (fun x => (x.pa, x.home, x.inc, x.phase)) =
      rts.map fun r => (r.pa, r.home, r.inc, Phase.travelling (f.vis + travel u.core r.home)))
    (hreq : v.reqs = tput s.reqs s.nextReq { newReq (later t f.vis) u f m with parts := parts }) (hnext : v.nextReq = s.nextReq + 1)
    (he : Machine.getElem v u = settleFlight (Machine.getElem t u) f f.vis) (hm : v.mem = s.mem) :
    UnderWay s v u slot word m rts f.vis f.keepD where
  number := hnext
  request := by
    refine ⟨_, by rw [hreq]; exact tfind_tput_same .., rfl, rfl, rfl, rfl, rfl, rfl, rfl, rfl, hslot, hword, ?_, hw, hr⟩
    show (getCore t u.core).clock = _
    rw [fired_core ht]
  others j hj := by rw [hreq, tfind_tput_of_ne _ (Ne.symm hj)]
  counted h := absurd h (by simp [hpost])
  pending := by rw [he, settleFlight_pendD_kept ht hkeep]
  registers := by
    rw [he, settleFlight_d, settleFlight_a, settleFlight_lane, ht.unit]
    exact ⟨rfl, rfl, rfl⟩
  memory := hm

theorem need1_wD (r : Fin 16) (a : Src) : (need1 (.d r) a).wD = dbit r := by
  cases a <;> exact BitVec.zero_or

/-- The request that reads a rewire request's 64 bytes (R183, R367). -/
def rewireRead (t : State) (core slot : Nat) (n : Fin 16) (p : Part) : Req :=
  { core := core, unit := ceIx, slot := slot, word := fetchWord t core slot, op := .load, posted := false, reuse := .normal,
    noalloc := false, laneBits := 128, sink := .request n, parts := [p], pts := (getCore t core).clock, update := false, born := t.cycle }

/-- The read of a rewire request sets out where its address is translated without a radix walk (R183, R367). -/
theorem readRewire_asks {s : State} {core slot : Nat} {a : Dword} (n : Fin 16) {rt : Route}
    (hl : lookUp s core a.toNat 64 .read = .ok rt) (hq : walkCycles s core a.toNat .read = 0) :
    ∃ t y, PortsOnly s t ∧ readRewire s core slot a (.d n) = withRequest t s.nextReq (rewireRead t core slot n y) ∧
      y.va = a.toNat ∧ y.n = 64 ∧ y.pa = rt.pa ∧ y.home = rt.home ∧
      y.phase = .travelling (s.cycle + travel core rt.home) := by
  obtain ⟨hp, hw, hr⟩ := sendPart_sent s core a.toNat rt rt.port 0 64 0 0 .read .normal false 0
  simp only [Prod.mk.injEq] at hw hr
  obtain ⟨-, hva, hn, -, -⟩ := hw
  obtain ⟨hpa, hh, -, hph⟩ := hr
  refine ⟨_, _, hp, ?_, hva, hn, hpa, hh, hph⟩
  simp only [readRewire, hl, hq]
  rfl

/-! ## What the forms show -/

section
variable {s : State} {u : UnitId} {slot : Nat} {word : Word} (h0 : (Machine.getElem s u).flights = [])
include h0

theorem sysEret_shows (h : CanFire s u slot word .sysEret) (hh : (getCtl s u.core).hnd = true) :
    Shows s u slot word .sysEret 1 { acts := [.sys .eret] } fun v =>
      getCtl v u.core = { getCtl s u.core with pc := (getCtl s u.core).epc.toNat, hnd := false, trapSrc := none } ∧
        v.mem = s.mem ∧ (Machine.getElem v u).d = (Machine.getElem s u).d := by
  refine shows_act h0 (sysEret_fires h hh) (by simp) (fun _ _ => rfl) fun t ht => ?_
  intro f
  have hk := ownPart_keeps ht f f.vis
  obtain ⟨hm, hc⟩ := leaveHandler_frame (ownPart (later t f.vis) u f) u.core
  refine ⟨hc.trans (by rw [ownPart_ctl ht f f.vis rfl, firedCtl_eq]), hm.trans hk.1, ?_⟩
  have hrun : ¬ LetsRun (ownPart (later t f.vis) u f) u.core u.ix := fun hl => by
    have := hl.2.2.1.symm.trans ((ownPart_run ht f f.vis).trans (run_of_canFire h))
    omega
  exact (congrArg Elem.d (getElem_leaveHandler fun _ => hrun)).trans hk.2

/-- An instruction that brings a word to a D register at its V writes that register alone, and no memory. -/
theorem shows_toD {i : Instr} {lat : Nat} {a : Act} {r : Fin 16} {w : Quad} (h : Fires s u slot word i lat { acts := [a] })
    (hm : ∀ m, a ≠ .mem m) (hfault : ∀ t, actFault t u.core a = none)
    (hw : ∀ t, FiringFrame s t u slot i (flightOf s u slot word i lat { acts := [a] }) →
      let f := flightOf s u slot word i lat { acts := [a] }
      applyAct u f (ownPart (later t f.vis) u f) a = writeSink (ownPart (later t f.vis) u f) u (.d r) w) :
    Shows s u slot word i lat { acts := [a] } fun v =>
      (∀ k : Fin 16, k ≠ r → (Machine.getElem v u).dreg k = (Machine.getElem s u).dreg k) ∧ v.mem = s.mem ∧
        (Machine.getElem v u).dreg r = w := by
  refine shows_act h0 h hm (fun t _ => hfault t) fun t ht => ?_
  intro f
  rw [hw t ht]
  exact ⟨fun k hk => (writeSink_d_of_ne _ _ _ hk).trans (ownPart_dreg ht f f.vis k), (ownPart_keeps ht f f.vis).1, writeSink_d_same ..⟩

section
variable {r : Fin 16} {a b : Src}

theorem sysSysrd_shows_read (h : CanFire s u slot word (.sysSysrd (.d r) a)) (hk : sysRegKnown ((val s u a).toNat % 2 ^ 16) = true)
    (he : elementReg ((val s u a).toNat % 2 ^ 16) = none) :
    let fired : Fired := { acts := [.sysread (.ofNat 16 ((val s u a).toNat % 2 ^ 16)) (.d r)] }
    Shows s u slot word (.sysSysrd (.d r) a) 2 fired fun v =>
      (∀ k : Fin 16, k ≠ r → (Machine.getElem v u).dreg k = (Machine.getElem s u).dreg k) ∧ v.mem = s.mem ∧
        (Machine.getElem v u).dreg r =
          (readSysReg { s with cycle := (flightOf s u slot word (.sysSysrd (.d r) a) 2 fired).vis } u.core
            ((val s u a).toNat % 2 ^ 16)).setWidth 128 := by
  refine shows_toD h0 (sysSysrd_fires_read h hk he) (by simp) (fun _ => rfl) fun t ht => ?_
  intro f
  have hn : (BitVec.ofNat 16 ((val s u a).toNat % 2 ^ 16)).toNat = (val s u a).toNat % 2 ^ 16 := by simp
  rw [← readSysReg_ownPart ht f f.vis he]
  simp only [applyAct, hn]

theorem sysSysrd_shows_element (h : CanFire s u slot word (.sysSysrd (.d r) a))
    (he : (elementReg ((val s u a).toNat % 2 ^ 16)).isSome = true) :
    Shows s u slot word (.sysSysrd (.d r) a) 2 { acts := [.d r ((readSysReg s u.core ((val s u a).toNat % 2 ^ 16)).setWidth 128)] } fun v =>
      (∀ k : Fin 16, k ≠ r → (Machine.getElem v u).dreg k = (Machine.getElem s u).dreg k) ∧ v.mem = s.mem ∧
        (Machine.getElem v u).dreg r = (readSysReg s u.core ((val s u a).toNat % 2 ^ 16)).setWidth 128 := by
  refine shows_act h0 (sysSysrd_fires_element h he) (by simp) (fun _ _ => rfl) fun t ht => ?_
  intro f
  simp only [applyAct, getElem_setElem_same]
  exact ⟨fun k hk => (Elem.dreg_setD_of_ne _ (fun hn => hk (Fin.ext hn).symm) _).trans (ownPart_dreg ht f f.vis k), (ownPart_keeps ht f f.vis).1,
    Elem.dreg_setD_same ..⟩

theorem sysLayoutv_shows {l : Nat} (h : CanFire s u slot word (.sysLayoutv (.d r) a))
    (hl : findInstance s u.core ((val s u a).toNat % 2 ^ 32) = some l) :
    Shows s u slot word (.sysLayoutv (.d r) a) 2 { acts := [.layoutv l (.d r)] } fun v =>
      (∀ k : Fin 16, k ≠ r → (Machine.getElem v u).dreg k = (Machine.getElem s u).dreg k) ∧ v.mem = s.mem ∧
        (Machine.getElem v u).dreg r = layoutWord s l := by
  refine shows_toD h0 (sysLayoutv_fires h hl) (by simp) (fun _ => rfl) fun t ht => ?_
  intro f
  have hw : layoutWord (ownPart (later t f.vis) u f) l = layoutWord s l := by
    have hl := fired_launches ht
    rw [layoutWord, show (ownPart (later t f.vis) u f).launches = s.launches from hl]
    rfl
  simp only [applyAct, hw]

/-- A syswr completes as the write of its register (R179, R180). -/
theorem sysSyswr_shows {q : State → Prop} {n : Nat} (h : CanFire s u slot word (.sysSyswr a b)) (hn : (val s u a).toNat % 2 ^ 16 = n)
    (hk : sysRegKnown n = true) (hw : sysRegReadOnly n = false)
    (hq : ∀ t f, FiringFrame s t u slot (.sysSyswr a b) f →
      q (writeSysReg (ownPart (later t f.vis) u f) u.core n ((val s u b).setWidth 64))) :
    Shows s u slot word (.sysSyswr a b) 2
      { acts := [.sys (.write (.ofNat 16 ((val s u a).toNat % 2 ^ 16)) ((val s u b).setWidth 64))] } q := by
  subst hn
  refine shows_act h0 (sysSyswr_fires h hk hw) (by simp) (fun _ _ => rfl) fun t ht => ?_
  intro f
  have hn : (BitVec.ofNat 16 ((val s u a).toNat % 2 ^ 16)).toNat = (val s u a).toNat % 2 ^ 16 := by simp
  simpa only [applyAct, hn] using hq t f ht

end

/-! ## Schedule entries and rewire requests -/

theorem sysScnext_shows_ended {q : Fin 15} {p : Fin 8} (h : CanFire s u slot word (.sysScnext q p))
    (hc : (getCtl s u.core).sccnt.toNat ≤ cursorNow (Machine.getElem s u) (getCtl s u.core)) :
    Shows s u slot word (.sysScnext q p) 1 { acts := [.p (predBit p) 0], spare := dbit q ||| dbit (q.val + 1) } fun v =>
      (Machine.getElem v u).p.getLsbD p = false ∧ (Machine.getElem v u).pendD = (Machine.getElem s u).pendD ∧
        getCtl v u.core = firedCtl s u slot ∧ NothingAsked s v u := by
  refine shows_act h0 (sysScnext_fires_ended h hc) (by simp) (fun _ _ => rfl) fun t ht => ?_
  intro f
  have hr := fired_reqs ht
  have hn := fired_nextReq ht
  have hk := ownPart_keeps ht f f.vis
  refine ⟨?_, ?_, ownPart_ctl ht f f.vis rfl, hr, hn, hk⟩
  · simp only [applyAct, getElem_ownPart, settleFlight_p]
    exact (predWrite_predBit _ 0 p).trans BitVec.getLsbD_zero
  · have hw : f.pendD = 0 := BitVec.and_not_self _
    simp only [applyAct, getElem_ownPart, settleFlight_pendD, getElem_later, fired_pendD ht]
    rw [hw, BitVec.ofNat_eq_ofNat, BitVec.or_zero, BitVec.zero_and, BitVec.not_zero, BitVec.and_allOnes]

/-- A control element whose schedule has moved on by one entry (R182). -/
def stepCursor (x : Ctl) : Ctl := { x with sccur := dword ((x.sccur.toNat + x.scstr.toNat) % 2 ^ 32) }

omit h0 in
theorem stepCursor_firedCtl (s : State) (u : UnitId) (slot : Nat) : stepCursor (firedCtl s u slot) = { firedCtl s u slot with
    sccur := .ofNat 64 (((getCtl s u.core).sccur.toNat + (getCtl s u.core).scstr.toNat) % 2 ^ 32) } := by
  unfold stepCursor firedCtl
  split <;> rfl

theorem cursorNow_alone : cursorNow (Machine.getElem s u) (getCtl s u.core) = (getCtl s u.core).sccur.toNat % 2 ^ 32 := by
  simp [cursorNow, h0]

theorem sysScnext_shows_entry {q : Fin 15} {p : Fin 8} {rts : List Route} (h : CanFire s u slot word (.sysScnext q p)) :
    let entry := ((getCtl s u.core).scbase.toNat + 32 * cursorNow (Machine.getElem s u) (getCtl s u.core)) % 2 ^ 64
    let fired : Fired :=
      { acts := [.mem (entryRead q entry), .cursorStep, .p (predBit p) (predBit p)], keepD := dbit q ||| dbit (q.val + 1) }
    cursorNow (Machine.getElem s u) (getCtl s u.core) < (getCtl s u.core).sccnt.toNat → AddressFits entry 16 →
    Unhindered s u (entryRead q entry) rts →
    Shows s u slot word (.sysScnext q p) 1 fired fun v =>
      UnderWay s v u slot word (entryRead q entry) rts (flightOf s u slot word (.sysScnext q p) 1 fired).vis (dbit q ||| dbit (q.val + 1)) ∧
        (Machine.getElem v u).p.getLsbD p = true ∧
        getCtl v u.core = { firedCtl s u slot with
          sccur := .ofNat 64 (((getCtl s u.core).sccur.toNat + (getCtl s u.core).scstr.toNat) % 2 ^ 32) } := by
  intro entry fired hc hf hun
  refine shows_of_fires (sysScnext_fires_entry h hc hf) fun t ht => ?_
  let f := flightOf s u slot word (.sysScnext q p) 1 fired
  have hsame := fired_sameRoutes ht f.vis
  obtain ⟨t', parts, hp, hacc, hw, hr⟩ := acceptMem_asks (s := later t f.vis) (u := u) (f := f) (m := entryRead q entry) (rts := rts) rfl
    (by simp [entryRead]) (by simp [entryRead]) (by simpa only [hsame.lookUp] using hun.routes)
    (fun w hw => (hsame.walkCycles ..).trans (hun.quick w hw))
  have hfault : flightFault (later t f.vis) u f = none := flightFault_none (flightOf_trap_of_noFlags rfl) rfl
  refine ⟨_, instructionVisible_accepted (s := later t f.vis) (fired_flights ht h0 _) (Nat.le_refl _) hfault rfl hacc, ?_⟩
  have he : Machine.getElem t' u = Machine.getElem t u := hp.getElem u
  have hx : getCtl t' u.core = firedCtl s u slot := by rw [hp.getCtl, getCtl_later, fired_ctl ht rfl]
  have hcyc : t'.cycle = f.vis := hp.cycle
  have hm : t'.mem = s.mem := by rw [hp.mem, later_mem, fired_mem ht]
  have hreqs : t'.reqs = s.reqs := by rw [hp.reqs, later_reqs, fired_reqs ht]
  have hnext : (later t f.vis).nextReq = s.nextReq := by rw [later_nextReq, fired_nextReq ht]
  let rq : Req := { newReq (later t f.vis) u f (entryRead q entry) with parts := parts }
  let w := ownPart (withRequest t' s.nextReq rq) u f
  have hv : f.acts.foldl (applyAct u f) (ownPart (withRequest t' (later t f.vis).nextReq rq) u f) =
      setCtl w u.core (stepCursor (firedCtl s u slot)) := by
    rw [hnext, ← hx, ← getCtl_withRequest t' s.nextReq rq, ← getCtl_ownPart (withRequest t' s.nextReq rq) u f]
    rfl
  have hel : Machine.getElem (setCtl w u.core (stepCursor (firedCtl s u slot))) u = settleFlight (Machine.getElem t u) f f.vis := by
    rw [getElem_setCtl, getElem_ownPart, getElem_withRequest, he, withRequest_cycle, hcyc]
  rw [hv]
  refine ⟨underWay_of_accepted (parts := parts) ht rfl rfl ?_ rfl hw hr ?_ rfl hel hm, ?_,
    (getCtl_setCtl_same ..).trans (stepCursor_firedCtl s u slot)⟩
  · exact flightOf_pendD rfl
  · exact congrArg (tput · s.nextReq rq) hreqs
  · rw [hel, settleFlight_p]
    exact (predWrite_predBit _ (predBit p) p).trans (predBit_self p)

theorem sysRewire_shows {r : Fin 16} {a : Src} {rt : Route} (h : CanFire s u slot word (.sysRewire r a)) :
    let va := laneOf 64 (val s u a) 0
    let asks : Fired := { acts := [.rewire (.ofNat 64 va) (.d r)], keepD := dbit r }
    AddressFits va 64 → walkCycles s u.core va .read = 0 → lookUp s u.core va 64 .read = .ok rt →
    Shows s u slot word (.sysRewire r a) 1 asks fun v =>
      v.nextReq = s.nextReq + 1 ∧ (Machine.getElem v u).pendD = (Machine.getElem s u).pendD ||| dbit r ∧
        (v.mem = s.mem ∧ (Machine.getElem v u).d = (Machine.getElem s u).d) ∧
        ∃ rq y, tfind v.reqs s.nextReq = some rq ∧ rq.op = .load ∧ rq.sink = .request r ∧ rq.core = u.core ∧ rq.parts = [y] ∧
          y.va = va ∧ y.n = 64 ∧ y.pa = rt.pa ∧ y.home = rt.home ∧
          y.phase = .travelling ((flightOf s u slot word (.sysRewire r a) 1 asks).vis + travel u.core rt.home) := by
  intro va asks hf hq hl
  have hva : (BitVec.ofNat 64 va).toNat = va := by
    rw [BitVec.toNat_ofNat]
    exact Nat.mod_eq_of_lt (Nat.lt_trans hf.1 (by decide))
  refine shows_act h0 (sysRewire_fires h hf) (by simp) (fun t ht => ?_) fun t ht => ?_
  · simp only [actFault, hva, ht.lookUp, hl]
  · intro f
    have hsame := (fired_sameRoutes ht f.vis).ownPart u f
    obtain ⟨t', y, hp, hx, hyva, hyn, hypa, hyh, hyp⟩ := readRewire_asks (s := ownPart (later t f.vis) u f)
      (core := u.core) (slot := f.slot) (a := .ofNat 64 va) r (rt := rt) (by rw [hva, hsame.lookUp, hl]) (by rw [hva, hsame.walkCycles, hq])
    have hk := ownPart_keeps ht f f.vis
    have hnext := fired_nextReq ht
    have hid : (ownPart (later t f.vis) u f).nextReq = s.nextReq := hnext
    have he : Machine.getElem t' u = settleFlight (Machine.getElem t u) f f.vis := by rw [hp.getElem, getElem_ownPart, getElem_later, later_cycle]
    have hw : f.pendD = f.keepD := (flightOf_pendD rfl).trans (need1_wD r a)
    simp only [applyAct, hx, hid]
    refine ⟨rfl, ?_, ⟨hp.mem.trans hk.1, ?_⟩, rewireRead t' u.core f.slot r y, y, tfind_tput_same .., rfl, rfl, rfl, rfl,
      hyva.trans hva, hyn, hypa, hyh, hyp⟩
    · rw [getElem_withRequest, he, settleFlight_pendD_kept ht hw]
      rfl
    · rw [getElem_withRequest, hp.getElem, hk.2]

/-! ## Writes of system registers -/

section
variable {a b : Src} {n : Nat} (h : CanFire s u slot word (.sysSyswr a b)) (hn : (val s u a).toNat % 2 ^ 16 = n) (hk : sysRegKnown n = true)
  (hw : sysRegReadOnly n = false)
include h hn hk hw

/-- A register of the control element. -/
theorem sysSyswr_shows_ctl {y : Ctl → Ctl}
    (hy : ∀ x, writeSysReg x u.core n ((val s u b).setWidth 64) = setCtl x u.core (y (getCtl x u.core))) :
    Shows s u slot word (.sysSyswr a b) 2
      { acts := [.sys (.write (.ofNat 16 ((val s u a).toNat % 2 ^ 16)) ((val s u b).setWidth 64))] } fun v =>
        getCtl v u.core = y (firedCtl s u slot) ∧ v.mem = s.mem ∧ (Machine.getElem v u).d = (Machine.getElem s u).d := by
  refine sysSyswr_shows h0 h hn hk hw fun t f ht => ?_
  rw [hy, ownPart_ctl ht f f.vis rfl, getElem_setCtl]
  exact ⟨getCtl_setCtl_same .., ownPart_keeps ht f f.vis⟩

/-- A register of the partition. -/
theorem sysSyswr_shows_part {y : Bool → Partition → Partition}
    (hy : ∀ x, writeSysReg x u.core n ((val s u b).setWidth 64) =
      setPart' x (partOf x u.core) (y (feature x 6) (getPart x (partOf x u.core)))) :
    Shows s u slot word (.sysSyswr a b) 2
      { acts := [.sys (.write (.ofNat 16 ((val s u a).toNat % 2 ^ 16)) ((val s u b).setWidth 64))] } fun v =>
        (getCtl v u.core = firedCtl s u slot ∧ v.mem = s.mem ∧ (Machine.getElem v u).d = (Machine.getElem s u).d) ∧
          getPart v (partOf s u.core) = y (feature s 6) (getPart s (partOf s u.core)) := by
  refine sysSyswr_shows h0 h hn hk hw fun t f ht => ?_
  have hr := fired_root ht
  have hp := fired_parts ht
  have hroot : (ownPart (later t f.vis) u f).root = s.root := hr
  have hparts : (ownPart (later t f.vis) u f).parts = s.parts := hp
  rw [hy, ownPart_partOf ht]
  refine ⟨⟨ownPart_ctl ht f f.vis rfl, ownPart_keeps ht f f.vis⟩, (getPart_setPart'_same ..).trans ?_⟩
  rw [feature, hroot, getPart, hparts]
  rfl

/-- A register of another unit's state. -/
theorem sysSyswr_shows_unit {el : Nat} {y : Elem → Elem} (hel : el ≠ u.ix)
    (hy : ∀ x, writeSysReg x u.core n ((val s u b).setWidth 64) = setElem x ⟨u.core, el⟩ (y (Machine.getElem x ⟨u.core, el⟩))) :
    Shows s u slot word (.sysSyswr a b) 2
      { acts := [.sys (.write (.ofNat 16 ((val s u a).toNat % 2 ^ 16)) ((val s u b).setWidth 64))] } fun v =>
        (getCtl v u.core = firedCtl s u slot ∧ v.mem = s.mem ∧ (Machine.getElem v u).d = (Machine.getElem s u).d) ∧
          Machine.getElem v ⟨u.core, el⟩ = y (Machine.getElem s ⟨u.core, el⟩) := by
  refine sysSyswr_shows h0 h hn hk hw fun t f ht => ?_
  rw [hy, ownPart_unit ht f f.vis hel, getCtl_setElem, getElem_setElem_same, getElem_setElem_of_ne _ fun hu => hel (congrArg UnitId.ix hu)]
  exact ⟨⟨ownPart_ctl ht f f.vis rfl, ownPart_keeps ht f f.vis⟩, rfl⟩

end

end

/-! ## Element-state numbers -/

section
variable {el j : Nat} (hel : el < 64)
include hel

theorem elementReg_number (hj : j < 4) : elementReg (0x1000 + j + 64 * el) = some (el, j) := by
  rw [elementReg, if_pos (by omega)]
  exact congrArg some (Prod.ext (by dsimp only; omega) (by dsimp only; omega))

theorem sysRegKnown_number (hj : j < 4) : sysRegKnown (0x1000 + j + 64 * el) = true := by
  rw [sysRegKnown, elementReg_number hel hj, Option.isSome_some, Bool.or_true]

/-- FPCTL, FPFLG and SRSTATE can be written (R179). -/
theorem sysRegReadOnly_number (hj : j < 3) : sysRegReadOnly (0x1000 + j + 64 * el) = false := by
  simp only [sysRegReadOnly, elementReg_number hel (Nat.lt_succ_of_lt hj), Bool.or_eq_false_iff, decide_eq_false_iff_not]
  omega

theorem writeSysReg_number (s : State) (core : Nat) (v : Dword) :
    writeSysReg s core (0x1000 + 64 * el) v = setElem s ⟨core, el⟩ (writeFpctl (Machine.getElem s ⟨core, el⟩) (v.setWidth 32)) ∧
    writeSysReg s core (0x1001 + 64 * el) v = setElem s ⟨core, el⟩ (writeFpflg (Machine.getElem s ⟨core, el⟩) (v.setWidth 32)) ∧
    writeSysReg s core (0x1002 + 64 * el) v = setElem s ⟨core, el⟩ (writeSrstate (Machine.getElem s ⟨core, el⟩) (v.setWidth 32)) := by
  have h (j : Nat) (hj : j < 4) := elementReg_number hel hj
  have h0 := h 0 (by decide)
  have h1 := h 1 (by decide)
  have h2 := h 2 (by decide)
  simp only [Nat.add_zero, Nat.reduceAdd] at h0 h1 h2
  simp only [writeSysReg, h0, h1, h2, and_self]

end

end Sys2Proof.Machine
end

section
/-! PROOF. System registers, sleep, schedule and layout instructions. -/

open Sys2Proof Sys2Proof.Machine Sys2Proof.Claims

/-- Settles O20: each form by what it answers at its firing, and, fired alone, by its effect at V. -/
theorem systemScheduleAndLayoutInstructions : Obligations.SystemScheduleAndLayoutInstructions := by
  unfold Obligations.SystemScheduleAndLayoutInstructions
  refine ⟨fun s u slot word d a b => ?_, fun s core slot word d r q p a b => ?_, fun s u slot word d r q p a b rt l => ?_⟩
  · exact ⟨sysEret_fires, sysEret_traps, sysSysrd_fires_read, sysSysrd_fires_element, sysSysrd_traps, sysSyswr_fires,
      sysSyswr_traps_readOnly, sysSyswr_traps_unknown⟩
  · intro u e x n cur entry both va
    refine ⟨fun h => ?_, sysScnext_fires_ended, sysScnext_fires_entry, sysRewire_fires, fun l => sysLayoutv_fires, sysLayoutv_traps⟩
    refine ⟨_, sysSleep_sleeps h, getCtl_setCtl_same .., ?_, rfl, fun k hk => ?_⟩
    · rw [getElem_setCtl, getElem_inFlight, launchFlight_eq]
      rfl
    · exact (getCore_setCore_of_ne _ (Ne.symm hk) _).trans (getCore_setCore_of_ne _ (Ne.symm hk) _)
  · intro e x n y y32 va cur entry both others written reads stores pair taken ctl base lane h0
    have hcur : cursorNow (Machine.getElem s u) (getCtl s u.core) = cur := cursorNow_alone h0
    refine ⟨sysEret_shows h0, sysSysrd_shows_read h0, sysSysrd_shows_element h0, fun h => ?_, fun h hc => ?_, fun h hc hf rts hun => ?_,
      sysRewire_shows h0, fun h hl => ?_⟩
    · have number (el : Nat) (h64 : el < 64) := writeSysReg_number h64
      refine ⟨fun hn => ?_, fun hn => ?_, fun hn => ?_, fun hn => ?_, fun hn => ?_, fun hn => ?_, fun hn => ?_, fun hn => ?_,
        fun el h64 hne hn => ?_, fun el h64 hne hn => ?_, fun el h64 hne hn => ?_⟩
      · exact sysSyswr_shows_ctl (y := fun x => { x with msk := y.getLsbD 1 }) h0 h hn rfl rfl fun _ => rfl
      · exact sysSyswr_shows_ctl (y := fun x => { x with tvec := y32 &&& 0xFFFFFFFC }) h0 h hn rfl rfl fun _ => rfl
      · exact sysSyswr_shows_ctl (y := fun x => { x with epc := y32 &&& 0xFFFFFFFC }) h0 h hn rfl rfl fun _ => rfl
      · exact sysSyswr_shows_ctl (y := fun x => { x with trbase := y32 &&& 0xFFFFFFC0 }) h0 h hn rfl rfl fun _ => rfl
      · exact sysSyswr_shows_ctl (y := fun x => { x with eres := y.getLsbD 0 }) h0 h hn rfl rfl fun _ => rfl
      · exact sysSyswr_shows_ctl (y := fun x => { x with sccur := y32.setWidth 64 }) h0 h hn rfl rfl fun _ => writeSysReg_sccur ..
      · exact shows_mono (sysSyswr_shows_part (y := fun on p => { p with clctl := writeClctl on p.clctl y }) h0 h hn rfl rfl fun _ => rfl)
          fun v ⟨hl, hp⟩ => ⟨hl, congrArg Partition.clctl hp⟩
      · exact shows_mono (sysSyswr_shows_part (y := fun on p => { p with fdctl := writeFdctl on p.fdctl y }) h0 h hn rfl rfl fun _ => rfl)
          fun v ⟨hl, hp⟩ => ⟨hl, congrArg Partition.fdctl hp⟩
      · exact sysSyswr_shows_unit (y := (writeFpctl · y32)) h0 h hn (sysRegKnown_number (j := 0) h64 (by decide))
          (sysRegReadOnly_number (j := 0) h64 (by decide)) hne fun x => (number el h64 x u.core y).1
      · exact sysSyswr_shows_unit (y := (writeFpflg · y32)) h0 h hn (sysRegKnown_number (j := 1) h64 (by decide))
          (sysRegReadOnly_number (j := 1) h64 (by decide)) hne fun x => (number el h64 x u.core y).2.1
      · exact sysSyswr_shows_unit (y := (writeSrstate · y32)) h0 h hn (sysRegKnown_number (j := 2) h64 (by decide))
          (sysRegReadOnly_number (j := 2) h64 (by decide)) hne fun x => (number el h64 x u.core y).2.2
    · exact sysScnext_shows_ended h0 h (hcur ▸ hc)
    · have hentry : ((getCtl s u.core).scbase.toNat + 32 * cursorNow (Machine.getElem s u) (getCtl s u.core)) % 2 ^ 64 = entry := by rw [hcur]
      have hs := sysScnext_shows_entry (rts := rts) h0 h
      rw [hentry, hcur] at hs
      exact hs hc hf hun
    · exact shows_mono (sysLayoutv_shows h0 h hl) fun v ⟨ho, hm, hr⟩ => ⟨hr, ho, hm⟩
end

section
/-! SUPPORT. The engines' work: what their reads, the end of a command, a delivered token and an accepted edge-port command do, and what each
leaves alone (R22, R193, R195, R199, R205). -/

namespace Sys2Proof.Machine

open Sys2Proof Sys2Proof.Claims

/-! ## What an engine's work leaves alone -/

/-- Nothing has changed of a state but its requests and, of its cores, the memory ports, the stream detectors, the engines and their reads. -/
structure EnginesOnly (s t : State) : Prop where
  outside : t = { s with cores := t.cores, reqs := t.reqs, nextReq := t.nextReq }
  cores : ∀ k, getCore t k =
    { getCore s k with ports := (getCore t k).ports, detect := (getCore t k).detect, engines := (getCore t k).engines,
                       fetches := (getCore t k).fetches }

theorem PortsOnly.enginesOnly {s t : State} (h : PortsOnly s t) : EnginesOnly s t :=
  ⟨by rw [h.outside], fun k => by rw [h.core]⟩

namespace EnginesOnly

theorem refl (s : State) : EnginesOnly s s := (PortsOnly.refl s).enginesOnly

theorem trans {s t v : State} (h : EnginesOnly s t) (h' : EnginesOnly t v) : EnginesOnly s v :=
  ⟨by rw [h'.outside, h.outside], fun k => by rw [h'.cores, h.cores]⟩

/-- A core whose ports, detectors, engines or reads change. -/
theorem setCore (s : State) {k : Nat} {c : Core}
    (hc : c = { getCore s k with ports := c.ports, detect := c.detect, engines := c.engines, fetches := c.fetches }) :
    EnginesOnly s (Machine.setCore s k c) where
  outside := rfl
  cores j := by
    by_cases h : k = j
    · subst h; rw [getCore_setCore_same]; exact hc
    · rw [getCore_setCore_of_ne _ h]

theorem withRequest (s : State) (id : Nat) (r : Req) : EnginesOnly s (withRequest s id r) := ⟨rfl, fun _ => rfl⟩

theorem setEng (s : State) (core port : Nat) (e : Engine) : EnginesOnly s (setEng s core port e) := .setCore s rfl

theorem setFetches (s : State) (core port : Nat) (fs : List Fetch) : EnginesOnly s (setFetches s core port fs) := .setCore s rfl

variable {s t : State} (h : EnginesOnly s t)
include h

theorem getElem (u : UnitId) : Machine.getElem t u = Machine.getElem s u := by rw [Machine.getElem, h.cores]; rfl
theorem unitsKeep : UnitsKeep s t := fun k => by rw [h.cores]; exact ⟨rfl, rfl⟩
theorem queue (k port : Nat) : (getCore t k).queue port = (getCore s k).queue port := by rw [h.cores]; rfl
theorem comps (k : Nat) : (getCore t k).comps = (getCore s k).comps := by rw [h.cores]
theorem clock (k : Nat) : (getCore t k).clock = (getCore s k).clock := by rw [h.cores]
theorem mem : t.mem = s.mem := by rw [h.outside]
theorem cycle : t.cycle = s.cycle := by rw [h.outside]
theorem headCmd (k port : Nat) : Machine.headCmd t k port = Machine.headCmd s k port := by rw [Machine.headCmd, h.queue]; rfl

/-- The input that an engine is attached to has room as before. -/
theorem attachRoom (k port : Nat) : Machine.attachRoom t k port = Machine.attachRoom s k port := by
  have he : t.edges = s.edges := by rw [h.outside]
  have hl : t.launches = s.launches := by rw [h.outside]
  have hc : (getCore t k).launch = (getCore s k).launch := by rw [h.cores]
  simp only [Machine.attachRoom, attached, inputRoom, elementsGone, he, hl, hc, h.getElem, h.cycle]
  rfl

end EnginesOnly

/-! ## The engines and their reads -/

section
variable (s : State) (core port : Nat)

@[simp] theorem getEng_setEng_same (e : Engine) : getEng (setEng s core port e) core port = e := by simp [getEng, setEng]

@[simp] theorem fetchesOf_setFetches_same (fs : List Fetch) : fetchesOf (setFetches s core port fs) core port = fs := by
  simp [fetchesOf, setFetches]

theorem getCore_setFetches (fs : List Fetch) (k : Nat) :
    getCore (setFetches s core port fs) k = { getCore s k with fetches := (getCore (setFetches s core port fs) k).fetches } := by
  simp only [setFetches, getCore_setCore]
  split
  · next h => subst h; rfl
  · rfl

end

/-- A read found in a list is found in a longer one, the same, before what follows. -/
theorem takeFetch_append {fs rest : List Fetch} {va n : Nat} {a : FetchAns} (h : takeFetch fs va n = some (a, rest)) (more : List Fetch) :
    takeFetch (fs ++ more) va n = some (a, rest ++ more) := by
  induction fs generalizing rest with
  | nil => exact absurd h (by simp [takeFetch])
  | cons f fs ih =>
    simp only [takeFetch, List.cons_append] at h ⊢
    split at h
    next hf =>
      rw [if_pos hf]
      obtain ⟨rfl, rfl⟩ := Prod.mk.inj (Option.some.inj h)
      rfl
    next hf =>
      rw [if_neg hf]
      obtain ⟨⟨b, left⟩, hb, hx⟩ := Option.map_eq_some_iff.mp h
      obtain ⟨rfl, rfl⟩ := Prod.mk.inj hx
      rw [ih hb]
      rfl

/-- An engine has issued reads: its list of them has grown at its end, and its place in its command is the same. -/
structure RanAhead (core port : Nat) (s t : State) : Prop extends EnginesOnly s t where
  engines : ∀ k, (getCore t k).engines = (getCore s k).engines
  grown : ∃ new, fetchesOf t core port = fetchesOf s core port ++ new

section
variable {core port : Nat}

theorem RanAhead.refl (s : State) : RanAhead core port s s := ⟨.refl s, fun _ => rfl, [], (List.append_nil _).symm⟩

theorem RanAhead.trans {s t v : State} (h : RanAhead core port s t) (h' : RanAhead core port t v) : RanAhead core port s v := by
  obtain ⟨a, ha⟩ := h.grown
  obtain ⟨b, hb⟩ := h'.grown
  exact ⟨h.toEnginesOnly.trans h'.toEnginesOnly, fun k => (h'.engines k).trans (h.engines k), a ++ b, by rw [hb, ha, List.append_assoc]⟩

theorem RanAhead.getEng {s t : State} (h : RanAhead core port s t) (k i : Nat) : Machine.getEng t k i = Machine.getEng s k i := by
  rw [Machine.getEng, h.engines, h.clock]; rfl

theorem PortsOnly.ranAhead {s t : State} (h : PortsOnly s t) : RanAhead core port s t :=
  ⟨h.enginesOnly, fun k => by rw [h.core], [], by rw [fetchesOf, h.core, List.append_nil]; rfl⟩

theorem withRequest_ranAhead (s : State) (id : Nat) (r : Req) : RanAhead core port s (withRequest s id r) :=
  ⟨.withRequest s id r, fun _ => rfl, [], (List.append_nil _).symm⟩

theorem setFetches_ranAhead (s : State) (f : Fetch) : RanAhead core port s (setFetches s core port (fetchesOf s core port ++ [f])) :=
  ⟨.setFetches .., fun k => by rw [getCore_setFetches], [f], fetchesOf_setFetches_same ..⟩

theorem engAsk_ranAhead (s : State) (va n : Nat) (rc : Reuse) : RanAhead core port s (engAsk s core port va n rc) := by
  unfold engAsk
  dsimp only
  split
  · exact setFetches_ranAhead ..
  · next r _ =>
    obtain ⟨hp, -⟩ := sendPart_sent s core va r (20 + port) 0 n 0 0 .read rc false (walkCycles s core va .read)
    exact hp.ranAhead.trans ((withRequest_ranAhead ..).trans (setFetches_ranAhead ..))

theorem runAhead_ranAhead (most : Nat) (rs : List (Nat × Nat × Reuse)) (old : List Fetch) (s : State) :
    RanAhead core port s (runAhead core port most rs old s) := by
  induction rs generalizing old s with
  | nil => exact .refl s
  | cons r rs ih =>
    obtain ⟨va, n, rc⟩ := r
    unfold runAhead
    split
    · exact ih ..
    · split
      · exact (engAsk_ranAhead ..).trans (ih ..)
      · exact .refl s

end

theorem streamAhead_ranAhead (s : State) (core se : Nat) (p : Pattern) : RanAhead core se s (streamAhead s core se p) := runAhead_ranAhead ..

/-- The read that an engine comes to has been answered: it leaves the list, and the engine's clock takes its timestamp in. -/
theorem engRead_got {s : State} {core port va n : Nat} {bs : List Byte} {ts : Stamp} {fs : List Fetch}
    (h : takeFetch (fetchesOf s core port) va n = some (.got bs ts, fs)) (rc : Reuse) :
    engRead s core port va n rc = (engSaw (setFetches s core port fs) core port ts, .ok (bs.take n)) := by
  rw [engRead, h]

/-! ## A command's end -/

theorem headCmd_eq {s t : State} {core port : Nat} (h : ((getCore t core).queue port).q = ((getCore s core).queue port).q) :
    headCmd t core port = headCmd s core port := by rw [headCmd, h]; rfl

/-- The head command's end takes it from its queue and sends its completion; engines, elements and control elements stay. -/
theorem finishCmd_ends {s : State} {core port : Nat} {m : Cmd} (hm : headCmd s core port = some m) (esp count cause : Nat) (ts : Stamp)
    (after : Nat) :
    let t := finishCmd s core port esp count cause ts after
    Completes s t core port m esp count cause ts after ∧ UnitsKeep s t ∧ t.mem = s.mem ∧ getEng t core port = getEng s core port := by
  simp only [finishCmd, hm, sendCompletion, dropHead, getCore_setCore_same]
  refine ⟨⟨?_, ?_⟩, fun k => ?_, rfl, ?_⟩
  · rw [getCore_setCore_same]
    exact congrArg Queue.q (Core.queue_setQueue_same ..)
  · rw [getCore_setCore_same, tget_tput_same]
    rfl
  · rw [getCore_setCore, getCore_setCore]
    split
    · next h => subst h; exact ⟨rfl, rfl⟩
    · exact ⟨rfl, rfl⟩
  · simp only [getEng, getCore_setCore_same]
    rfl

theorem clearCwait_eq (c : Core) (u : Nat) : clearCwait c u = { c with ports := (clearCwait c u).ports } := by
  have h : ({ clearCwait c u with ports := [] } : Core) = { c with ports := [] } := by
    refine foldl_keeps (fun c : Core => ({ c with ports := [] } : Core)) _ (fun d p => ?_) _ c
    dsimp only
    split <;> rfl
  generalize clearCwait c u = d at h
  have := congrArg (fun x : Core => ({ x with ports := d.ports } : Core)) h
  exact this

/-- A running command's end: the engine is idle again, and its command completes with the timestamp that the engine has reached. -/
theorem endCommand_ends {s : State} {core port : Nat} {m : Cmd} (hm : headCmd s core port = some m) (esp count cause : Nat) :
    let t := endCommand s core port esp count cause
    Completes s t core port m esp count cause (getEng s core port).pts 1 ∧ UnitsKeep s t ∧ (getEng t core port).state = 0 := by
  have hcore (k : Nat) : getCore (leaveUpdates (idleEngine s core port) core port) k =
      { getCore s k with ports := (getCore (leaveUpdates (idleEngine s core port) core port) k).ports,
                         engines := (getCore (idleEngine s core port) k).engines,
                         engOut := (getCore (idleEngine s core port) k).engOut,
                         fetches := (getCore (idleEngine s core port) k).fetches } := by
    have hl : ∀ k, getCore (leaveUpdates (idleEngine s core port) core port) k =
        { getCore (idleEngine s core port) k with ports := (getCore (leaveUpdates (idleEngine s core port) core port) k).ports } := fun k => by
      simp only [leaveUpdates, getCore_setCore]
      split
      · next h => subst h; exact clearCwait_eq ..
      · rfl
    rw [hl]
    simp only [idleEngine, getCore_setCore]
    split
    · next h => subst h; rfl
    · rfl
  have hm' : headCmd (leaveUpdates (idleEngine s core port) core port) core port = some m := by
    rw [← hm]
    exact headCmd_eq (by rw [hcore]; rfl)
  obtain ⟨⟨hq, hc⟩, hu, -, he⟩ := finishCmd_ends hm' esp count cause (getEng s core port).pts 1
  refine ⟨⟨hq.trans (by rw [hcore]; rfl), hc.trans (by rw [hcore]; rfl)⟩, fun k => ?_, ?_⟩
  · obtain ⟨h1, h2⟩ := hu k
    exact ⟨h1.trans (by rw [hcore]), h2.trans (by rw [hcore])⟩
  · rw [endCommand, he, getEng, hcore]
    simp [idleEngine]

/-! ## Tokens in and out of elements -/

/-- A token put into an element's input: it stands last there. -/
theorem enterInput_inCh (s : State) (core el : Nat) (ch : Fin 4) (t : Token) (lat : Nat) (ts : Stamp) :
    ((Machine.getElem (enterInput s core el ch t lat ts) ⟨core, el⟩).inCh ch).q =
      ((Machine.getElem s ⟨core, el⟩).inCh ch).q ++ [⟨t, s.cycle + lat⟩] := by
  simp [enterInput, raiseClock, Machine.getElem, setElem]

/-- It changes elements and, at its core, the clock. -/
theorem enterInput_core (s : State) (core el : Nat) (ch : Fin 4) (t : Token) (lat : Nat) (ts : Stamp) (k : Nat) :
    getCore (enterInput s core el ch t lat ts) k =
      { getCore s k with elems := (getCore (enterInput s core el ch t lat ts) k).elems,
                         clock := (getCore (enterInput s core el ch t lat ts) k).clock } := by
  simp only [enterInput, raiseClock, setElem, getCore_setCore]
  split
  · next h => subst h; simp
  · rfl

section
variable (s : State) (core port k el : Nat) (ch : Fin 4) (w : Token)

/-- An engine's token for a configured element enters its input, to be seen from the next cycle on. -/
theorem deliverToken_inCh (h : (Machine.getElem s ⟨k, el⟩).run ≠ 0) :
    ((Machine.getElem (deliverToken s core port (k, el, ch) w) ⟨k, el⟩).inCh ch).q =
      ((Machine.getElem s ⟨k, el⟩).inCh ch).q ++ [⟨w, s.cycle + 1⟩] := by
  rw [deliverToken, if_neg h]
  exact enterInput_inCh ..

theorem deliverToken_core (j : Nat) : getCore (deliverToken s core port (k, el, ch) w) j =
    { getCore s j with elems := (getCore (deliverToken s core port (k, el, ch) w) j).elems,
                       clock := (getCore (deliverToken s core port (k, el, ch) w) j).clock } := by
  unfold deliverToken
  split
  · rfl
  · exact enterInput_core ..

theorem deliverToken_cycle : (deliverToken s core port (k, el, ch) w).cycle = s.cycle := by
  unfold deliverToken
  split <;> rfl

end

/-- A token taken from an element's output: the rest stand there. -/
theorem popOut_outCh (s : State) (u : UnitId) (ch : Fin 4) :
    ((Machine.getElem (popOut s u ch) u).outCh ch).q = ((Machine.getElem s u).outCh ch).q.tail := by
  simp [popOut]

theorem popOut_core (s : State) (u : UnitId) (ch : Fin 4) (k : Nat) :
    getCore (popOut s u ch) k = { getCore s k with elems := (getCore (popOut s u ch) k).elems } := by
  simp only [popOut, setElem, getCore_setCore]
  split
  · next h => subst h; rfl
  · rfl

/-! ## Edge ports -/

/-- A command that joins a queue stands last in it, with its number; elements and the words of the copy engine's edge port stay. -/
theorem joinQueue_queue (s : State) (core port : Nat) (m : Cmd) (entry : Bool) : ∃ n c, joinQueue s core port m entry = setCore s core c ∧
    (c.queue port).q = ((getCore s core).queue port).q ++ [{ m with tlNum := n, joined := s.cycle }] ∧
    c.elems = (getCore s core).elems ∧ c.cpEdge = (getCore s core).cpEdge := by
  unfold joinQueue
  dsimp only
  split <;> split <;> exact ⟨_, _, rfl, congrArg Queue.q (Core.queue_setQueue_same ..), rfl, rfl⟩

/-- A command that an edge port's queue accepts stands last in it; elements and the words of the copy engine's edge port stay. -/
theorem acceptEdge_queue (s : State) (core port : Nat) (m : Cmd) :
    (∃ c : Cmd, ((getCore (acceptEdge s core port m) core).queue port).q = ((getCore s core).queue port).q ++ [c] ∧
      c.packet = m.packet ∧ c.edge = m.edge ∧ c.creg = m.creg ∧ c.unit = m.unit) ∧
    (∀ k, (getCore (acceptEdge s core port m) k).elems = (getCore s k).elems) ∧
    (getCore (acceptEdge s core port m) core).cpEdge = (getCore s core).cpEdge := by
  obtain ⟨n, c, hj, hq, he, hw⟩ := joinQueue_queue s core port m false
  simp only [acceptEdge, hj, getCore_setCore_same]
  refine ⟨⟨_, (congrArg Queue.q (Core.queue_setQueue_same ..)).trans hq, rfl, rfl, rfl, rfl⟩, fun k => ?_, hw⟩
  rw [getCore_setCore, getCore_setCore]
  split
  · next h => subst h; exact he
  · rfl

end Sys2Proof.Machine
end

section
/-! PROOF. The statement StreamsAndEdgePorts: O40. -/

namespace Sys2Proof.Machine

open Sys2Proof Sys2Proof.Claims

/-- A command that its engine runs now. -/
theorem runCmd_of_commanded {s : State} {core port : Nat} {m : Cmd} (h : Commanded s core port m) (f : Nat → Nat → Cmd → State) :
    runCmd s f = .next (f core port m) := by
  obtain ⟨ha, hm⟩ := h
  rw [runCmd, show engineOf s = some (core, port) by rw [engineOf, ha]]
  simp only [hm]

/-! ## Binding a stream -/

section
variable {s : State} {core : Nat} {se : Fin 8} {m : Cmd} {base : Dword} {pat : BitVec 16} {p : Pattern}
  (hcmd : Commanded s core se m) (hpat : boundPattern s core se pat.toNat = some p) (hmode : p.addrMode = false)
include hcmd hpat hmode

/-- At a base that is a multiple of the element width, the walk stands at its first element, and its reads run ahead. -/
theorem bind_starts (hst : ∀ x ∈ p.strides.take p.ndim, x % (p.ew : Int) = 0)
    (hb : (if base = 0 then p.base else base.toNat) % p.ew = 0) :
    exec (.bind base pat) s = .next (streamAhead (setEng s core se
      { state := 1, pat := pat.toNat, base := if base = 0 then p.base else base.toNat, pos := [0, 0, 0, 0, 0, 0], pts := m.pts }) core se p) := by
  have hany : ((p.strides.take p.ndim).any fun x => x % (p.ew : Int) ≠ 0) = false := List.any_eq_false.mpr fun x hx => by simp [hst x hx]
  rw [exec_bind, execBind, runCmd_of_commanded hcmd]
  simp only [hpat, hmode, hb, hany, ne_eq, not_true_eq_false, Bool.false_eq_true, or_self, and_false, ↓reduceIte]

/-- At any other base the command ends with 0x204. -/
theorem bind_refuses (hb : (if base = 0 then p.base else base.toNat) % p.ew ≠ 0) :
    exec (.bind base pat) s = .next (finishCmd s core se 0 0 0x204 m.pts 1) := by
  rw [exec_bind, execBind, runCmd_of_commanded hcmd]
  simp only [hpat, hmode, hb, Bool.not_false, ne_eq, not_false_eq_true, true_or, and_self, ↓reduceIte]

end

/-- The engine of a bound stream is as bound, whatever it has asked for; units, memory and queues are as they were. -/
theorem boundStream_ahead (s : State) (core se : Nat) (e : Engine) (p : Pattern) :
    let t := streamAhead (setEng s core se e) core se p
    (getEng t core se).state = e.state ∧ (getEng t core se).base = e.base ∧ UnitsKeep s t ∧ t.mem = s.mem ∧
      (getEng t core se).pat = e.pat ∧ (getEng t core se).pos = e.pos ∧ ((getCore t core).queue se).q = ((getCore s core).queue se).q := by
  have ha := streamAhead_ranAhead (setEng s core se e) core se p
  have ht := (EnginesOnly.setEng s core se e).trans ha.toEnginesOnly
  have he := (ha.getEng core se).trans (getEng_setEng_same ..)
  dsimp only
  rw [he, ht.queue]
  exact ⟨rfl, rfl, ht.unitsKeep, ht.mem, rfl, rfl, rfl⟩

/-! ## A stream's token -/

/-- Where one element fills a token in data mode, the token is the element, once its read is answered. -/
theorem gatherToken_single {s t : State} {core se : Nat} {p : Pattern} {base : Nat} {ix : List Nat} {bs : List Byte} (hmode : p.addrMode = false)
    (hr : engRead s core se (walkAddr base (p.strides.take p.ndim) ix) p.ew (reuseOf p.rc) = (t, .ok bs)) :
    gatherToken core se p base 1 s ix 0 0 =
      (t, .ok ⟨leNat bs, endsDims (p.counts.take p.ndim) ix, nextIx (p.counts.take p.ndim) (ix.take p.ndim),
        endsDims (p.counts.take p.ndim) ix = p.ndim⟩) := by
  simp [gatherToken, hmode, hr]

/-- What delivering a stream's token leaves: the walk's next place, or, after its last element, the end of its command. -/
def afterToken (s : State) (core se : Nat) (dims : List Nat) (ndim : Nat) (e : Engine) : State :=
  if endsDims dims e.pos = ndim then endCommand s core se 0 (e.count + 1) 0
  else setEng s core se { getEng s core se with pos := nextIx dims (e.pos.take ndim), count := e.count + 1 }

/-- Reads that run ahead do not come before an answered one: it is used, engines and their reads alone change, and the engine's timestamp takes
the read's in. -/
theorem engRead_of_ranAhead {s t : State} {core port va n : Nat} {bs : List Byte} {ts : Stamp} {fs : List Fetch} (ha : RanAhead core port s t)
    (hgot : takeFetch (fetchesOf s core port) va n = some (.got bs ts, fs)) (rc : Reuse) :
    ∃ v, engRead t core port va n rc = (v, .ok (bs.take n)) ∧ EnginesOnly s v ∧
      tfind (getCore v core).engines port = some { getEng s core port with pts := tsMax (getEng s core port).pts ts } := by
  obtain ⟨new, hnew⟩ := ha.grown
  have he : getEng (setFetches t core port (fs ++ new)) core port = getEng s core port := by
    rw [← ha.getEng core port, getEng, getCore_setFetches]; rfl
  refine ⟨_, engRead_got (by rw [hnew]; exact takeFetch_append hgot new) rc, ha.toEnginesOnly.trans (.trans (.setFetches ..) (.setEng ..)), ?_⟩
  rw [engSaw, he, setEng, getCore_setCore_same, tfind_tput_same]

section
variable {s : State} {core : Nat} {se : Fin 8} {p : Pattern} {k el : Nat} {ch : Fin 4} {bs : List Byte} {ts : Stamp} {fs : List Fetch}
  (hrun : (getEng s core se).state = 1) (hpat : boundPattern s core se (getEng s core se).pat = some p) (hmode : p.addrMode = false)
  (hew : p.ew = 16) (hroom : attachRoom s core se = some (k, el, ch))
  (hgot : takeFetch (fetchesOf s core se) (walkAddr (getEng s core se).base (p.strides.take p.ndim) (getEng s core se).pos) 16 =
    some (.got bs ts, fs))
include hrun hpat hmode hew hroom hgot

/-- A walk of 16-byte elements whose next read is answered delivers it. -/
theorem streamTokenDeliver_eq : ∃ t, EnginesOnly s t ∧
    tfind (getCore t core).engines se = some { getEng s core se with pts := tsMax (getEng s core se).pts ts } ∧
    exec (.streamTokenDeliver core se) s = .next (afterToken
      (deliverToken t core se (k, el, ch)
        ⟨.ofNat 128 (leNat (bs.take 16)), .ofNat 3 (endsDims (p.counts.take p.ndim) (getEng s core se).pos)⟩)
      core se (p.counts.take p.ndim) p.ndim (getEng s core se)) := by
  have ha := streamAhead_ranAhead s core se p
  obtain ⟨t, hread, ht, he⟩ := engRead_of_ranAhead ha hgot (reuseOf p.rc)
  rw [← hew] at hread
  refine ⟨t, ht, he, ?_⟩
  rw [exec_streamTokenDeliver, execStreamTokenDeliver]
  simp only [hpat, hrun, ne_eq, not_true_eq_false, ↓reduceIte, (ha.attachRoom core se).trans hroom, gatherToken_single hmode hread,
    hew, Nat.div_self (show 0 < 16 by decide), engStep, afterToken, decide_eq_true_eq]

/-- The token stands last in the attached input; the walk goes on, or its command completes after its last element. -/
theorem streamTokenDeliver_delivers {m : Cmd} (hm : headCmd s core se = some m) (hel : (Machine.getElem s ⟨k, el⟩).run ≠ 0) :
    let e := getEng s core se
    let dims := p.counts.take p.ndim
    let ends := endsDims dims e.pos
    ∃ t, exec (.streamTokenDeliver core se) s = .next t ∧
      ((Machine.getElem t ⟨k, el⟩).inCh ch).q =
        ((Machine.getElem s ⟨k, el⟩).inCh ch).q ++ [⟨⟨.ofNat 128 (leNat (bs.take 16)), .ofNat 3 ends⟩, s.cycle + 1⟩] ∧
      (ends ≠ p.ndim → (getEng t core se).state = 1 ∧ (getEng t core se).pos = nextIx dims (e.pos.take p.ndim) ∧
        (getEng t core se).count = e.count + 1) ∧
      (ends = p.ndim → (getEng t core se).state = 0 ∧ Completes s t core se m 0 (e.count + 1) 0 (tsMax e.pts ts) 1) := by
  obtain ⟨t, ht, he, hx⟩ := streamTokenDeliver_eq hrun hpat hmode hew hroom hgot
  dsimp only
  refine ⟨_, hx, ?_⟩
  generalize (⟨.ofNat 128 (leNat (bs.take 16)), .ofNat 3 (endsDims (p.counts.take p.ndim) (getEng s core se).pos)⟩ : Token) = w
  have hin := deliverToken_inCh t core se k el ch w (by rwa [ht.getElem])
  have hcore := deliverToken_core t core se k el ch w core
  have hcyc := deliverToken_cycle t core se k el ch w
  generalize deliverToken t core se (k, el, ch) w = v at hin hcore hcyc ⊢
  have heng : getEng v core se = { getEng s core se with pts := tsMax (getEng s core se).pts ts } := by
    rw [getEng, tget_eq_tfind, hcore, he]; rfl
  rw [ht.getElem, ht.cycle] at hin
  unfold afterToken
  split
  next hends =>
    have hm' : headCmd v core se = some m := by
      rw [← hm, ← ht.headCmd]
      exact headCmd_eq (by rw [hcore]; rfl)
    obtain ⟨⟨hq, hc⟩, hu, hs⟩ := endCommand_ends hm' 0 ((getEng s core se).count + 1) 0
    refine ⟨?_, fun h => absurd hends h, fun _ => ⟨hs, hq.trans ?_, hc.trans ?_⟩⟩
    · rw [← hin, Machine.getElem, (hu k).1]; rfl
    · rw [hcore, ← ht.queue]; rfl
    · rw [hcore, ← ht.comps, heng, completionOf, completionOf, hcyc, ht.cycle]
  next hends =>
    refine ⟨?_, fun _ => ?_, fun h => absurd h hends⟩
    · rw [← hin, (EnginesOnly.setEng ..).getElem]
    · rw [getEng_setEng_same, heng]
      exact ⟨hrun, rfl, rfl⟩

end

/-! ## Edge ports -/

/-- An edge port's command that its queue accepts names no register and comes from unit 65; its token has left the output. -/
theorem edgeCommand_queued (s s' : State) (core port : Nat) (ws : List Quad) (u : UnitId) (o : Fin 4) :
    let t := popOut (acceptEdge s core port (edgeCmd s' core port ws)) u o
    (∃ c : Cmd, ((getCore t core).queue port).q = ((getCore s core).queue port).q ++ [c] ∧ c.packet = ws ∧ c.edge = true ∧ c.creg = none ∧
      c.unit = 65 ∧ ((Machine.getElem t u).outCh o).q = ((Machine.getElem s u).outCh o).q.tail) ∧
    (getCore t core).cpEdge = (getCore s core).cpEdge := by
  obtain ⟨⟨c, hq, hp, hedge, hreg, hunit⟩, he, hw⟩ := acceptEdge_queue s core port (edgeCmd s' core port ws)
  have hpop := popOut_core (acceptEdge s core port (edgeCmd s' core port ws)) u o core
  have hout := popOut_outCh (acceptEdge s core port (edgeCmd s' core port ws)) u o
  refine ⟨⟨c, ?_, hp, hedge, hreg, hunit, hout.trans ?_⟩, by rw [hpop]; exact hw⟩
  · rw [hpop]; exact hq
  · rw [Machine.getElem, he]; rfl

/-- The words at the copy engine's edge port are no part of an element. -/
theorem getElem_setCpEdge (s : State) (core : Nat) (ws : List Quad) (u : UnitId) :
    Machine.getElem (setCore s core { getCore s core with cpEdge := ws }) u = Machine.getElem s u := by
  rw [Machine.getElem, getCore_setCore]
  split
  · next h => subst h; rfl
  · rfl

section
variable {s : State} {core : Nat} {u : UnitId} {o : Fin 4} {q : OutPos} {w : Token}

/-- A word that leaves its command incomplete joins the words at the copy engine's edge port. -/
theorem cpEdgeWord_holds (hq : edgeToken s core (.cp core) = some (u, o, q)) (hw : q.tok = some w)
    (h : (getCore s core).cpEdge.length + 1 < cpWords (((getCore s core).cpEdge ++ [w.payload]).headD 0)) :
    ∃ t, exec (.cpEdgeWord core) s = .next t ∧ (getCore t core).cpEdge = (getCore s core).cpEdge ++ [w.payload] ∧
      ((Machine.getElem t u).outCh o).q = ((Machine.getElem s u).outCh o).q.tail := by
  have h' : ((getCore s core).cpEdge ++ [w.payload]).length < cpWords (pw ((getCore s core).cpEdge ++ [w.payload]) 0) := by
    rw [List.length_append, pw, ← List.headD_eq_getD]; exact h
  refine ⟨popOut (setCore s core { getCore s core with cpEdge := (getCore s core).cpEdge ++ [w.payload] }) u o, ?_, ?_, ?_⟩
  · rw [exec_cpEdgeWord, execCpEdgeWord, hq]
    simp only [hw, if_pos h']
  · rw [popOut_core, getCore_setCore_same]
  · rw [popOut_outCh, getElem_setCpEdge]

/-- A command of one word joins the copy engine's queue, where it has room and it is the edge port's turn. -/
theorem cpEdgeWord_queues (hq : edgeToken s core (.cp core) = some (u, o, q)) (hw : q.tok = some w) (hempty : (getCore s core).cpEdge = [])
    (hone : cpWords w.payload = 1) (hroom : ((getCore s core).queue 13).hasRoom (signalClass 13 (w.payload.toNat % 256)) = true)
    (hturn : arbiter s core 13 65 = true) :
    exec (.cpEdgeWord core) s = .next (popOut (acceptEdge (setCore s core { getCore s core with cpEdge := [] }) core 13
      (edgeCmd s core 13 [w.payload])) u o) := by
  have hword : pw [w.payload] 0 = w.payload := rfl
  rw [exec_cpEdgeWord, execCpEdgeWord, hq]
  simp only [hw, hempty, List.nil_append, List.length_singleton, hword, hone, Nat.lt_irrefl, ↓reduceIte, hroom, hturn, and_self]

/-- A token joins the matrix node's queue, where it has room and it is the edge port's turn. -/
theorem mnEdgeToken_queues (hq : edgeToken s core (.mn core) = some (u, o, q)) (hw : q.tok = some w)
    (hroom : ((getCore s core).queue 12).hasRoom (signalClass 12 (w.payload.toNat % 256)) = true) (hturn : arbiter s core 12 65 = true) :
    exec (.mnEdgeToken core) s = .next (popOut (acceptEdge s core 12 (edgeCmd s core 12 [w.payload])) u o) := by
  rw [exec_mnEdgeToken, execMnEdgeToken, hq]
  simp only [hw, hroom, hturn, and_self, ↓reduceIte]

end

/-- Settles O40: a bound stream's reads run ahead of it and change nothing else, so that a token's delivery meets the answered read that stood
in the engine's list; the edge ports' commands join their queues. -/
theorem streamsAndEdgePorts : Obligations.StreamsAndEdgePorts := by
  unfold Obligations.StreamsAndEdgePorts
  intro s core k el se ch o m base pat p u q w bs ts fs
  dsimp only
  refine ⟨fun hcmd hpat hmode hst => ⟨fun hb => ?_, fun hb => ?_⟩,
    fun hrun hpat hmode hew _ hm hroom hel hgot => streamTokenDeliver_delivers hrun hpat hmode hew hroom hgot hm hel,
    fun hq hw _ => ⟨cpEdgeWord_holds hq hw, fun hempty hone hroom hturn => ?_⟩, fun hq hw _ hroom hturn => ?_⟩
  · exact ⟨_, bind_starts hcmd hpat hmode hst hb, boundStream_ahead ..⟩
  · obtain ⟨hc, hu, hmem, -⟩ := finishCmd_ends hcmd.2 0 0 0x204 m.pts 1
    exact ⟨_, bind_refuses hcmd hpat hmode hb, hc, hu, hmem⟩
  · obtain ⟨hc, hempty'⟩ := edgeCommand_queued (setCore s core { getCore s core with cpEdge := [] }) s core 13 [w.payload] u o
    refine ⟨_, cpEdgeWord_queues hq hw hempty hone hroom hturn, ?_, hempty'.trans (by rw [getCore_setCore_same])⟩
    rwa [getCore_setCore_same, getElem_setCpEdge] at hc
  · exact ⟨_, mnEdgeToken_queues hq hw hroom hturn, (edgeCommand_queued s s core 12 [w.payload] u o).1⟩

end Sys2Proof.Machine
end
